-- ==== Sys2Proof/Word.lean ====
section
/-!
DEFINITION. Sys2Proof/Word.lean: the word types of the Gwynrus (spec/03_registers.md R50, R52) and nothing else.
-/
namespace Sys2Proof

/-- A general register, a special register, a generic address: 64 bits (R50, R69). -/
abbrev Word := BitVec 64
/-- A vector register or a 64-byte beat: 512 bits (R50). -/
abbrev VReg := BitVec 512
/-- One byte of memory. -/
abbrev Byte := BitVec 8
/-- A context number, coded as CTXID: tenant partition in [9:8], context in [7:0] (R63). -/
abbrev CtxId := BitVec 10
/-- A launch identifier within its context (R63, LAUNCH.LID). -/
abbrev Lid := BitVec 32

end Sys2Proof
end

