-- ==== Sys2Proof/Config.lean ====
section
/-!
DEFINITION. Sys2Proof/Config.lean: what the spec leaves to the part without giving it a value, and the published functions it
names without restating (spec/00_scope.md). None has a body: no proof can see a value of one.
-/
namespace Sys2Proof

/-- How many cluster cycles pass over the n-th step of a cluster (R65 gives no instruction a duration). Log 5. -/
opaque freeCycles : Nat → BitVec 16
/-- The free byte a load may find where a copy is writing (R79), or where one copy writes a byte twice (R264). Log 6. -/
opaque freeChoice : Nat → Bool
/-- The hash that assigns an own-homed line to a core of its die (R86): fixed at reset, not visible to programs. Log 7. -/
opaque homeHash : Nat → Nat → Nat
/-- The number of stall cycles of a full engine queue (R66), free per occurrence. Log 5. -/
opaque freeStall : Nat → BitVec 16
/-- SHAKE256 with a 64-byte output (R131, R372): FIPS 202, not restated by the spec (spec/00_scope.md). Log 8. -/
opaque shake256 : List Byte → BitVec 512
/-- An ML-DSA-65 signature of 3,309 bytes under the device identity key (R372): FIPS 204, not restated. Log 8. -/
opaque mlDsaSign : List Byte → BitVec 26472
/-- The highest frequency step that a rail setpoint in mV supports (R146): the spec gives no table of it. Log 85. -/
opaque freeStep : BitVec 10 → BitVec 8
/-- A free 64-bit value, per occurrence. Log 9. -/
opaque freeWord : Nat → Word

end Sys2Proof
end

