-- ==== Sys2Proof/Syntax.lean ====
section
/-!
DEFINITION. Sys2Proof/Syntax.lean: the instructions of the Finler instruction set at level 2 (spec/09_instruction_format.md
R163 to R174 and the encoding tables of spec/10 to spec/12), and the device events of the opcode table, as ONE inductive.
An operand's type is the set of kinds its entry accepts (R166, R167); what a type cannot say is in WellFormed.lean.
A device event is something the device does beside the cores' instructions (spec/95_what_each_step_holds.md); its constructor has no
argument: what it is told when it happens is an `Event`, which the state holds.
-/
namespace Sys2Proof

/-- The element types of the TYPE subfield (R97), by name. -/
inductive Ty where
  | i8 | n8 | i16 | n16 | i32 | n32 | i64 | n64 | f32 | b16 | h16 | e4 | e5 | f4 | b4 | b8
deriving DecidableEq, Repr

/-- ORD (R170): the order an atomic, a fence or a send carries. -/
inductive Ord where
  | rlx | acq | rel | ar
deriving DecidableEq, Repr

/-- SCOPE (R170, R291). -/
inductive Scope where
  | core | clus | die | pkg | sys
deriving DecidableEq, Repr

/-- The condition of ICMP and VCMP (R171). -/
inductive Cond where
  | eq | ne | lt | le | gt | ge
deriving DecidableEq, Repr

/-- The condition of FCMP and VFCMP (R171). -/
inductive FCond where
  | eq | ne | lt | le | un | ord
deriving DecidableEq, Repr

/-- What ICNT counts (R197). -/
inductive CntKind where
  | pop | clz | ctz
deriving DecidableEq, Repr

/-- A level of work (R46), as CANCEL and COMPL name it (R271). -/
inductive Level where
  | unit | launch | graph | phase | job
deriving DecidableEq, Repr

/-- The class of a wake (R271, R354): no candidate is asleep deeper than this. -/
inductive WakeClass where
  | idle | smoored | cold
deriving DecidableEq, Repr

/-- What TLBINV removes (R282). -/
inductive InvKind where
  | page | ctx | all
deriving DecidableEq, Repr

/-- A supply rail (R65, R146): A to D feed the blaze clusters, E the ember cluster. -/
inductive Rail where
  | a | b | c | d | e
deriving DecidableEq, Repr

/-- The special registers, by name (R62). -/
inductive SReg where
  | core | rank | clus | die | island | ctxid | actid | entry | arg | msgtag | msgsrc | msglen | launch | stepno
  | wstack | wspill | link | trapcause | trappc | trapinfo | cycle | vfstate | stallbank | stalleng | caps | msimg
deriving DecidableEq, Repr

/-- A vector register number (R166). -/
abbrev V := Fin 32
/-- A predicate number (R166). -/
abbrev P := Fin 8
/-- An input channel number (R166). -/
abbrev Chan := Fin 8

/-- A window or a global register, kinds 0x1 and 0x2 (R166). -/
inductive WG where
  | w (n : Fin 24)
  | g (n : Fin 8)
deriving DecidableEq, Repr

/-- A register or a short immediate. -/
inductive WGI where
  | reg (r : WG)
  | imm (v : BitVec 14)
deriving DecidableEq, Repr

/-- A register, a short immediate or a long immediate: B of IMOV, IADD, IAND, IOR, IXOR and ICMP only (R167). -/
inductive WGIL where
  | reg (r : WG)
  | imm (v : BitVec 14)
  | long (v : BitVec 34)
deriving DecidableEq, Repr

/-- A vector register or a scalar broadcast (R214). -/
inductive VS where
  | v (n : V)
  | reg (r : WG)
  | imm (v : BitVec 14)
deriving DecidableEq, Repr

/-- A vector register or a register broadcast: the B of a floating-point vector instruction (R233). -/
inductive VWG where
  | v (n : V)
  | reg (r : WG)
deriving DecidableEq, Repr

/-- A ring handle, kind 0x5 (R166): the ring, the slot count field as encoded (0 reads as 1) and the slot offset. -/
structure Ring where
  ring : Fin 16
  kf : BitVec 6
  o : BitVec 4
deriving DecidableEq, Repr

/-- A register address or a ring handle. -/
inductive WGQ where
  | reg (r : WG)
  | ring (q : Ring)
deriving DecidableEq, Repr

/-- A parameter window operand, kind 0x7 (R166): the window and the offset in units of 8 bytes. -/
structure PWin where
  win : Fin 8
  off : BitVec 11
deriving DecidableEq, Repr

/-- The guard and the hint bits of a word (R168, R169). -/
structure Hdr where
  gn : Bool
  gp : P
  hint : BitVec 8
deriving DecidableEq, Repr

/-- What the fuses and the link training give a part at reset (R14, R19, R366, R400). -/
structure Fuses where
  /-- CLUSEN, bit c set when blaze cluster c is enabled. -/
  clusEn : BitVec 128
  /-- The clock bin. -/
  bin : BitVec 4
  /-- GOODG, 16 bits per link. -/
  goodg : BitVec 128
  /-- The boot setpoint of rails A to D in mV. -/
  railMv : BitVec 10
  /-- A UCIe module that failed training (R367), 0 or 1. -/
  ucieFailed : Option (BitVec 1)
  /-- The measurement of each boot stage, in the order they run (R372). -/
  stages : List (BitVec 512)
deriving DecidableEq, Repr

/-- The work a stop request names (R327, R380). -/
inductive StopWork where
  | context (ctx : CtxId)
  | launch (ctx : CtxId) (lid : Lid)
  | victims (st : Nat) (lids : List (CtxId × Lid))
  | hotSpot (cluster : Nat)
deriving DecidableEq, Repr

/-- A firmware command to the power controller (R350, R351). -/
inductive PowerCmd where
  | coldCluster (c : Nat)
  | packageOff
  | boot
deriving DecidableEq, Repr

/-- A host access over the host link (R304, R362, R368). -/
inductive HostAcc where
  /-- A CXL.mem read of n bytes. -/
  | read (addr : BitVec 48) (n : Nat)
  /-- A CXL.mem write of these bytes, the lowest address first. -/
  | write (addr : BitVec 48) (bytes : List Byte)
  /-- The host writes its own memory. -/
  | own (addr : BitVec 48) (bytes : List Byte)
  /-- A CXL.io read of an aperture register. -/
  | aperture (n : Fin 1024)
  /-- A CXL.io read of 64-bit word i of the register space's first 32 bytes, the hub's capability block (R366). -/
  | capability (i : Fin 4)
deriving DecidableEq, Repr

/-- What a machine-check event reports (R326); `corrected` is a single-bit error. -/
inductive McReport where
  | corrected
  | uncorrectable (src : BitVec 8) (bank : BitVec 16) (synd : Word) (addr : Word)
  | requester (src : BitVec 8) (bank : BitVec 16) (ctx : CtxId) (synd : Word) (addr : Word)
deriving DecidableEq, Repr

/-- A write by firmware to a register, table or record that the spec says firmware sets. -/
inductive FwWrite where
  | contextCreate (ctx : CtxId) (root : BitVec 48) (wake : Bool) (watch : BitVec 56) (faultBase : BitVec 48) (faultLsize : BitVec 4)
  | contextRoot (ctx : CtxId) (root : BitVec 48)
  | wakeGrant (ctx : CtxId) (on : Bool)
  | guiltLimit (ctx : CtxId) (n : BitVec 8)
  | guiltClear (ctx : CtxId)
  | faultRd (ctx : CtxId) (rd : BitVec 16)
  | faultDropClear (ctx : CtxId)
  | queueCreate (ctx : CtxId) (q : BitVec 4) (base : BitVec 48) (lsize : BitVec 5) (prio : BitVec 6) (firmware : Bool)
  | queuePrio (ctx : CtxId) (q : BitVec 4) (prio : BitVec 6)
  | errstatClear (ctx : CtxId) (q : BitVec 4)
  | refusalClear (st : Nat)
  | routeDropClear (k : Nat)
  | correctedClear (k : Nat)
  | hubCorrectedClear
  | emberGrant (granule : BitVec 9) (ctx : CtxId) (on : Bool)
  | apertureGrant (n : BitVec 10) (ctx : Option CtxId)
  | lease (l : P) (ctx : Option CtxId)
  | railParts (r : BitVec 2) (parts : BitVec 4)
  | railLimit (r : Rail) (code : Nat)
  | dramPolicy (held : Bool)
  | smhold (us : Nat)
  | coldhold (us : Nat)
  | traceControl (c : Nat) (w : Word)
  | sampleBuffer (n : BitVec 8) (base : BitVec 48) (size : BitVec 32)
  | sampleRead (n : BitVec 8) (rd : BitVec 32)
  | sampleLostClear (n : BitVec 8)
  | journal (base : BitVec 48) (entries : Nat)
  | nvmeGrant (depth : Nat) (blockSize : Nat) (sq cq doorbell : BitVec 48) (ns : BitVec 32)
  | nvmeRevoke
  | hostRange (i : Fin 16) (base : BitVec 48) (size : BitVec 48)
  | hostRefusalClear
deriving DecidableEq, Repr

/-- The device events with what each is told when it happens: which unit acts, and what the outside world or an arbiter supplies
(log 24). The instruction constructors of the events below carry no argument; the event that happens now stands in the state. -/
inductive Event where
  /-- DEVICE_RESET. -/
  | deviceReset (fu : Fuses)
  /-- NEXT_TASK_CHOICE. -/
  | nextTaskChoice (k : Nat)
  /-- STEAL. -/
  | steal (k : Nat)
  /-- SERVICE_TASK_ENTRY. -/
  | serviceTaskEntry (k : Nat)
  /-- STEP_WATCHDOG_EXPIRY. -/
  | stepWatchdogExpiry (k : Nat)
  /-- MESSAGE_HEADER_ARRIVAL. -/
  | messageHeaderArrival (i : Nat)
  /-- HEADER_QUEUE_ENTRY. -/
  | headerQueueEntry (k : Nat) (ch : P)
  /-- MESSAGE_BEAT_ARRIVAL. -/
  | messageBeatArrival (i : Nat)
  /-- SEND_TAIL_INJECTED. -/
  | sendTailInjected (k : Nat)
  /-- STORE_BUFFER_DRAIN. -/
  | storeBufferDrain (k : Nat)
  /-- MEMORY_RESPONSE. -/
  | memoryResponse (k : Nat) (i : Nat) (delay : BitVec 12)
  /-- DIRECTORY_REQUEST. -/
  | directoryRequest (d : Nat)
  /-- L1_EVICTION. -/
  | l1Eviction (k : Nat) (line : Nat)
  /-- TRANSLATION_WALK_COMPLETE. -/
  | translationWalkComplete (i : Nat)
  /-- COLD_PAGE_FETCH_COMPLETE. -/
  | coldPageFetchComplete (i : Nat) (ok : Bool)
  /-- PAGE_OUT_START. -/
  | pageOutStart (ctx : BitVec 10) (va : BitVec 64) (lba : BitVec 52)
  /-- PAGE_OUT_COMPLETE. -/
  | pageOutComplete (i : Nat) (ok : Bool)
  /-- VECTOR_CMD_TAKE. -/
  | vectorCmdTake (k : Nat)
  /-- MATRIX_CMD_START. -/
  | matrixCmdStart (k : Nat)
  /-- MATRIX_CMD_COMPLETE. -/
  | matrixCmdComplete (k : Nat)
  /-- COPY_CMD_ACCEPT. -/
  | copyCmdAccept (k : Nat)
  /-- COPY_BEAT_COMPLETE. -/
  | copyBeatComplete (k : Nat) (i : Nat) (beat : Nat)
  /-- COPY_COMPLETE. -/
  | copyComplete (k : Nat) (i : Nat)
  /-- RAKE_CMD_TAKE. -/
  | rakeCmdTake (k : Nat)
  /-- RAKE_BEAT_SAMPLE. -/
  | rakeBeatSample (k : Nat)
  /-- RAKE_SWEEP_END. -/
  | rakeSweepEnd (k : Nat)
  /-- WATCH_UNIT_COMMIT. -/
  | watchUnitCommit
  /-- WORK_RETIRE. -/
  | workRetire (ctx : BitVec 10) (lvl : Level) (ident : BitVec 32)
  /-- GRAPH_LAUNCH_NODE. -/
  | graphLaunchNode (w : Nat) (i : Nat)
  /-- GRAPH_COND_NODE. -/
  | graphCondNode (w : Nat) (i : Nat)
  /-- GRAPH_WHILE_NODE. -/
  | graphWhileNode (w : Nat) (i : Nat)
  /-- GRAPH_JOINALL_NODE. -/
  | graphJoinallNode (w : Nat) (i : Nat)
  /-- GRAPH_END_NODE. -/
  | graphEndNode (w : Nat) (i : Nat)
  /-- GRAPH_NODE_RETRY. -/
  | graphNodeRetry (w : Nat) (i : Nat)
  /-- DOORBELL_WRITE. -/
  | doorbellWrite (ctx : BitVec 10) (q : BitVec 4) (v : BitVec 32)
  /-- LAUNCH_PACKET. -/
  | launchPacket (ctx : BitVec 10) (q : BitVec 4)
  /-- GRAPH_PACKET. -/
  | graphPacket (ctx : BitVec 10) (q : BitVec 4)
  /-- PHASE_PACKET. -/
  | phasePacket (ctx : BitVec 10) (q : BitVec 4)
  /-- WAIT_PACKET. -/
  | waitPacket (ctx : BitVec 10) (q : BitVec 4)
  /-- WAIT_WORD_POLL. -/
  | waitWordPoll (ctx : BitVec 10) (q : BitVec 4)
  /-- SIGNAL_PACKET. -/
  | signalPacket (ctx : BitVec 10) (q : BitVec 4)
  /-- SIGNAL_AFTER_WRITE. -/
  | signalAfterWrite (i : Nat)
  /-- QUEUE_CLOSE. -/
  | queueClose (ctx : BitVec 10) (q : BitVec 4)
  /-- SCHEDULING_PASS. -/
  | schedulingPass (st : Nat) (headUs : Nat) (rested : List (BitVec 10 × BitVec 32))
  /-- LOCAL_MEMORY_CLEAR_DONE. -/
  | localMemoryClearDone (k : Nat)
  /-- PRIORITY_AGING. -/
  | priorityAging (st : Nat) (i : Nat)
  /-- HEAD_RESERVATION. -/
  | headReservation (st : Nat)
  /-- INTENSITY_CLASSIFY. -/
  | intensityClassify (ctx : BitVec 10) (lid : BitVec 32)
  /-- THERMAL_READING. -/
  | thermalReading (temps : List (Nat × Nat))
  /-- THERMAL_STEP_UP. -/
  | thermalStepUp (c : Nat)
  /-- STOP_REQUEST. -/
  | stopRequest (w : StopWork)
  /-- CUT_ACKNOWLEDGE. -/
  | cutAcknowledge (i : Nat) (k : Nat)
  /-- CUT_SECOND_STAGE. -/
  | cutSecondStage (i : Nat)
  /-- CUT_COMPLETE. -/
  | cutComplete (i : Nat)
  /-- CUT_RESUME. -/
  | cutResume (i : Nat) (cores : List Nat)
  /-- MIGRATION_TRANSFER_COMPLETE. -/
  | migrationTransferComplete (ctx : BitVec 10)
  /-- CLUSTER_IDLE_ENTRY. -/
  | clusterIdleEntry (c : Nat)
  /-- SMOORED_ENTRY. -/
  | smooredEntry (c : Nat)
  /-- COLD_ENTRY. -/
  | coldEntry (c : Nat)
  /-- FIRMWARE_POWER_COMMAND. -/
  | firmwarePowerCommand (cmd : PowerCmd)
  /-- KINDLE_DEFERRED_CHOICE. -/
  | kindleDeferredChoice
  /-- CLUSTER_WAKE_COMPLETE. -/
  | clusterWakeComplete (c : Nat)
  /-- KHOLD_TIMEOUT. -/
  | kholdTimeout (c : Nat)
  /-- CHANNEL_WAKE_COMPLETE. -/
  | channelWakeComplete (ch : Nat)
  /-- CHANNEL_SELF_REFRESH_ENTRY. -/
  | channelSelfRefreshEntry (ch : Nat)
  /-- RAIL_SWITCH. -/
  | railSwitch (c : Nat)
  /-- RAIL_SWITCH_GATE_END. -/
  | railSwitchGateEnd (c : Nat)
  /-- GENERATOR_HANDOVER. -/
  | generatorHandover (c : Nat)
  /-- CURRENT_SAMPLE. -/
  | currentSample (rail : Rail) (code : Nat)
  /-- PACKAGE_POWER_WINDOW. -/
  | packagePowerWindow (watts : Nat)
  /-- DROOP_DETECT. -/
  | droopDetect (rail : Rail)
  /-- LANE_GROUP_RETIRE. -/
  | laneGroupRetire (l : P) (g : BitVec 4)
  /-- LINK_TURN_APPLY. -/
  | linkTurnApply (l : P)
  /-- TURN_DEAD_TIME_END. -/
  | turnDeadTimeEnd (l : P)
  /-- HOST_WAKE_WRITE. -/
  | hostWakeWrite (v : BitVec 64)
  /-- APERTURE_UP. -/
  | apertureUp
  /-- HOST_MEM_ACCESS. -/
  | hostMemAccess (acc : HostAcc)
  /-- HEARTBEAT_TIMEOUT. -/
  | heartbeatTimeout
  /-- LIVE_UPDATE. -/
  | liveUpdate (sigOk : Bool) (verOk : Bool) (meas : BitVec 512)
  /-- ATTESTATION_REQUEST. -/
  | attestationRequest (nonce : BitVec 256)
  /-- MACHINE_CHECK. -/
  | machineCheck (k : Nat) (r : McReport)
  /-- CORE_RESTART. -/
  | coreRestart (k : Nat)
  /-- TRACE_RECORD_WRITE. -/
  | traceRecordWrite
  /-- TRACE_SAMPLE_TIMER. -/
  | traceSampleTimer (k : Nat)
  /-- CAPTURE_END. -/
  | captureEnd (c : Nat)
  /-- DEBUG_CORE_STOP. -/
  | debugCoreStop (k : Nat)
  /-- DEBUG_CORE_RESUME. -/
  | debugCoreResume (k : Nat)
  /-- FIRMWARE_REGISTER_WRITE. -/
  | firmwareRegisterWrite (w : FwWrite)
  /-- TLB_INVALIDATION_COMPLETE. -/
  | tlbInvalidationComplete (k : Nat)
  /-- CLUSTER_STATE_CHANGE_FINISHED. -/
  | clusterStateChangeFinished (c : Nat)
deriving DecidableEq, Repr

/-- The instructions (R174) and the device events of the opcode table, one constructor per row. -/
inductive Instr where
  /-- Opcode 0x000 (ILLEGAL, R173): the other 86 bits of the word, which change nothing. -/
  | illegal (rest : BitVec 86)
  /-- NOP, opcode 0x001 (class 0x0, control). -/
  | nop (h : Hdr)
  /-- BR, opcode 0x002 (class 0x0, control). -/
  | br (h : Hdr) (off : BitVec 20)
  /-- BRZ, opcode 0x003 (class 0x0, control). -/
  | brz (h : Hdr) (off : BitVec 20) (a : WG)
  /-- BRNZ, opcode 0x004 (class 0x0, control). -/
  | brnz (h : Hdr) (off : BitVec 20) (a : WG)
  /-- BRDEC, opcode 0x005 (class 0x0, control). -/
  | brdec (h : Hdr) (off : BitVec 20) (d : WG)
  /-- JMP, opcode 0x006 (class 0x0, control). -/
  | jmp (h : Hdr) (a : WG)
  /-- CALL, opcode 0x007 (class 0x0, control). -/
  | call (h : Hdr) (off : BitVec 20)
  /-- CALLR, opcode 0x008 (class 0x0, control). -/
  | callr (h : Hdr) (a : WG)
  /-- RET, opcode 0x009 (class 0x0, control). -/
  | ret (h : Hdr)
  /-- LOOP, opcode 0x00A (class 0x0, control). -/
  | loop (h : Hdr) (off : BitVec 20) (a : WGI)
  /-- LBRK, opcode 0x00B (class 0x0, control). -/
  | lbrk (h : Hdr)
  /-- FORK, opcode 0x00C (class 0x0, control). -/
  | fork (h : Hdr) (off : BitVec 20) (d : WG) (a : WG) (b : WGI)
  /-- JOIN, opcode 0x00D (class 0x0, control). -/
  | join (h : Hdr) (a : WG)
  /-- END, opcode 0x00E (class 0x0, control). -/
  | endTask (h : Hdr)
  /-- STEP, opcode 0x00F (class 0x0, control). -/
  | step (h : Hdr)
  /-- TRAP, opcode 0x010 (class 0x0, control). -/
  | trap (h : Hdr) (a : WGI)
  /-- IADD, opcode 0x040 (class 0x1, integer). -/
  | iadd (h : Hdr) (t : Ty) (d : WG) (a : WG) (b : WGIL)
  /-- ISUB, opcode 0x041 (class 0x1, integer). -/
  | isub (h : Hdr) (t : Ty) (d : WG) (a : WG) (b : WGI)
  /-- IADDS, opcode 0x042 (class 0x1, integer). -/
  | iadds (h : Hdr) (t : Ty) (d : WG) (a : WG) (b : WGI)
  /-- ISUBS, opcode 0x043 (class 0x1, integer). -/
  | isubs (h : Hdr) (t : Ty) (d : WG) (a : WG) (b : WGI)
  /-- INEG, opcode 0x044 (class 0x1, integer). -/
  | ineg (h : Hdr) (t : Ty) (d : WG) (a : WG)
  /-- IABS, opcode 0x045 (class 0x1, integer). -/
  | iabs (h : Hdr) (t : Ty) (d : WG) (a : WG)
  /-- IMIN, opcode 0x046 (class 0x1, integer). -/
  | imin (h : Hdr) (t : Ty) (d : WG) (a : WG) (b : WGI)
  /-- IMAX, opcode 0x047 (class 0x1, integer). -/
  | imax (h : Hdr) (t : Ty) (d : WG) (a : WG) (b : WGI)
  /-- IMINN, opcode 0x048 (class 0x1, integer). -/
  | iminn (h : Hdr) (t : Ty) (d : WG) (a : WG) (b : WGI)
  /-- IMAXN, opcode 0x049 (class 0x1, integer). -/
  | imaxn (h : Hdr) (t : Ty) (d : WG) (a : WG) (b : WGI)
  /-- IAND, opcode 0x04A (class 0x1, integer). -/
  | iand (h : Hdr) (t : Ty) (d : WG) (a : WG) (b : WGIL)
  /-- IOR, opcode 0x04B (class 0x1, integer). -/
  | ior (h : Hdr) (t : Ty) (d : WG) (a : WG) (b : WGIL)
  /-- IXOR, opcode 0x04C (class 0x1, integer). -/
  | ixor (h : Hdr) (t : Ty) (d : WG) (a : WG) (b : WGIL)
  /-- IANDN, opcode 0x04D (class 0x1, integer). -/
  | iandn (h : Hdr) (t : Ty) (d : WG) (a : WG) (b : WGI)
  /-- ISHL, opcode 0x04E (class 0x1, integer). -/
  | ishl (h : Hdr) (t : Ty) (d : WG) (a : WG) (b : WGI)
  /-- ISHR, opcode 0x04F (class 0x1, integer). -/
  | ishr (h : Hdr) (t : Ty) (d : WG) (a : WG) (b : WGI)
  /-- ISAR, opcode 0x050 (class 0x1, integer). -/
  | isar (h : Hdr) (t : Ty) (d : WG) (a : WG) (b : WGI)
  /-- IROT, opcode 0x051 (class 0x1, integer). -/
  | irot (h : Hdr) (t : Ty) (d : WG) (a : WG) (b : WGI)
  /-- IEXT, opcode 0x052 (class 0x1, integer). -/
  | iext (h : Hdr) (len : BitVec 6) (d : WG) (a : WG) (b : WGI)
  /-- IEXTN, opcode 0x053 (class 0x1, integer). -/
  | iextn (h : Hdr) (len : BitVec 6) (d : WG) (a : WG) (b : WGI)
  /-- IINS, opcode 0x054 (class 0x1, integer). -/
  | iins (h : Hdr) (len : BitVec 6) (d : WG) (a : WG) (b : WGI)
  /-- ICNT, opcode 0x055 (class 0x1, integer). -/
  | icnt (h : Hdr) (t : Ty) (k : CntKind) (d : WG) (a : WG)
  /-- IMOV, opcode 0x056 (class 0x1, integer). -/
  | imov (h : Hdr) (t : Ty) (d : WG) (b : WGIL)
  /-- ISEL, opcode 0x057 (class 0x1, integer). -/
  | isel (h : Hdr) (t : Ty) (pk : P) (d : WG) (a : WG) (b : WGI)
  /-- IMUL, opcode 0x080 (class 0x2, multiply and address). -/
  | imul (h : Hdr) (t : Ty) (d : WG) (a : WG) (b : WGI)
  /-- IMULH, opcode 0x081 (class 0x2, multiply and address). -/
  | imulh (h : Hdr) (t : Ty) (d : WG) (a : WG) (b : WGI)
  /-- IMULHN, opcode 0x082 (class 0x2, multiply and address). -/
  | imulhn (h : Hdr) (t : Ty) (d : WG) (a : WG) (b : WGI)
  /-- IMAD, opcode 0x083 (class 0x2, multiply and address). -/
  | imad (h : Hdr) (t : Ty) (d : WG) (a : WG) (b : WGI)
  /-- IDIV, opcode 0x084 (class 0x2, multiply and address). -/
  | idiv (h : Hdr) (t : Ty) (d : WG) (a : WG) (b : WGI)
  /-- IDIVN, opcode 0x085 (class 0x2, multiply and address). -/
  | idivn (h : Hdr) (t : Ty) (d : WG) (a : WG) (b : WGI)
  /-- IREM, opcode 0x086 (class 0x2, multiply and address). -/
  | irem (h : Hdr) (t : Ty) (d : WG) (a : WG) (b : WGI)
  /-- IREMN, opcode 0x087 (class 0x2, multiply and address). -/
  | iremn (h : Hdr) (t : Ty) (d : WG) (a : WG) (b : WGI)
  /-- ILEA, opcode 0x088 (class 0x2, multiply and address). -/
  | ilea (h : Hdr) (sh : BitVec 6) (d : WG) (a : WG) (b : WGI)
  /-- IDXT, opcode 0x089 (class 0x2, multiply and address). -/
  | idxt (h : Hdr) (d : WG) (a : PWin) (b : WG)
  /-- ICMP, opcode 0x0C0 (class 0x3, predicates). -/
  | icmp (h : Hdr) (t : Ty) (c : Cond) (d : P) (a : WG) (b : WGIL)
  /-- FCMP, opcode 0x0C1 (class 0x3, predicates). -/
  | fcmp (h : Hdr) (c : FCond) (d : P) (a : WG) (b : WG)
  /-- PAND, opcode 0x0C2 (class 0x3, predicates). -/
  | pand (h : Hdr) (d : P) (a : P) (b : P)
  /-- POR, opcode 0x0C3 (class 0x3, predicates). -/
  | por (h : Hdr) (d : P) (a : P) (b : P)
  /-- PXOR, opcode 0x0C4 (class 0x3, predicates). -/
  | pxor (h : Hdr) (d : P) (a : P) (b : P)
  /-- PNOT, opcode 0x0C5 (class 0x3, predicates). -/
  | pnot (h : Hdr) (d : P) (a : P)
  /-- PGET, opcode 0x0C6 (class 0x3, predicates). -/
  | pget (h : Hdr) (d : WG) (a : P)
  /-- PSET, opcode 0x0C7 (class 0x3, predicates). -/
  | pset (h : Hdr) (d : P) (a : WGI)
  /-- PFIRST, opcode 0x0C8 (class 0x3, predicates). -/
  | pfirst (h : Hdr) (d : WG) (a : P)
  /-- PCNT, opcode 0x0C9 (class 0x3, predicates). -/
  | pcnt (h : Hdr) (d : WG) (a : P)
  /-- FADD, opcode 0x100 (class 0x4, scalar FP32). -/
  | fadd (h : Hdr) (d : WG) (a : WG) (b : WG)
  /-- FSUB, opcode 0x101 (class 0x4, scalar FP32). -/
  | fsub (h : Hdr) (d : WG) (a : WG) (b : WG)
  /-- FMUL, opcode 0x102 (class 0x4, scalar FP32). -/
  | fmul (h : Hdr) (d : WG) (a : WG) (b : WG)
  /-- FFMA, opcode 0x103 (class 0x4, scalar FP32). -/
  | ffma (h : Hdr) (d : WG) (a : WG) (b : WG)
  /-- FDIV, opcode 0x104 (class 0x4, scalar FP32). -/
  | fdiv (h : Hdr) (d : WG) (a : WG) (b : WG)
  /-- FSQRT, opcode 0x105 (class 0x4, scalar FP32). -/
  | fsqrt (h : Hdr) (d : WG) (a : WG)
  /-- FMIN, opcode 0x106 (class 0x4, scalar FP32). -/
  | fmin (h : Hdr) (d : WG) (a : WG) (b : WG)
  /-- FMAX, opcode 0x107 (class 0x4, scalar FP32). -/
  | fmax (h : Hdr) (d : WG) (a : WG) (b : WG)
  /-- FABS, opcode 0x108 (class 0x4, scalar FP32). -/
  | fabs (h : Hdr) (d : WG) (a : WG)
  /-- FNEG, opcode 0x109 (class 0x4, scalar FP32). -/
  | fneg (h : Hdr) (d : WG) (a : WG)
  /-- FCVTIF, opcode 0x10A (class 0x4, scalar FP32). -/
  | fcvtif (h : Hdr) (t : Ty) (d : WG) (a : WG)
  /-- FCVTFI, opcode 0x10B (class 0x4, scalar FP32). -/
  | fcvtfi (h : Hdr) (t : Ty) (d : WG) (a : WG)
  /-- FCVTFIZ, opcode 0x10C (class 0x4, scalar FP32). -/
  | fcvtfiz (h : Hdr) (t : Ty) (d : WG) (a : WG)
  /-- FRCP, opcode 0x10D (class 0x4, scalar FP32). -/
  | frcp (h : Hdr) (d : WG) (a : WG)
  /-- FEXP2, opcode 0x10E (class 0x4, scalar FP32). -/
  | fexp2 (h : Hdr) (d : WG) (a : WG)
  /-- FLOG2, opcode 0x10F (class 0x4, scalar FP32). -/
  | flog2 (h : Hdr) (d : WG) (a : WG)
  /-- LD, opcode 0x140 (class 0x5, loads and stores). -/
  | ld (h : Hdr) (t : Ty) (d : WG) (a : WG) (b : WGI)
  /-- ST, opcode 0x141 (class 0x5, loads and stores). -/
  | st (h : Hdr) (t : Ty) (d : WG) (a : WG) (b : WGI)
  /-- LDL, opcode 0x142 (class 0x5, loads and stores). -/
  | ldl (h : Hdr) (t : Ty) (d : WG) (a : WG) (b : WGI)
  /-- STL, opcode 0x143 (class 0x5, loads and stores). -/
  | stl (h : Hdr) (t : Ty) (d : WG) (a : WG) (b : WGI)
  /-- LDPW, opcode 0x144 (class 0x5, loads and stores). -/
  | ldpw (h : Hdr) (t : Ty) (d : WG) (a : PWin) (b : Option WG)
  /-- PREF, opcode 0x145 (class 0x5, loads and stores). -/
  | pref (h : Hdr) (a : WG) (b : WGI)
  /-- ZLINE, opcode 0x146 (class 0x5, loads and stores). -/
  | zline (h : Hdr) (a : WG) (b : WGI)
  /-- WBLINE, opcode 0x147 (class 0x5, loads and stores). -/
  | wbline (h : Hdr) (a : WG) (b : WGI)
  /-- INVLINE, opcode 0x148 (class 0x5, loads and stores). -/
  | invline (h : Hdr) (a : WG) (b : WGI)
  /-- AADD, opcode 0x180 (class 0x6, atomics and synchronisation). -/
  | aadd (h : Hdr) (t : Ty) (ord : Ord) (sc : Scope) (d : WG) (a : WG) (b : WGI)
  /-- AMIN, opcode 0x181 (class 0x6, atomics and synchronisation). -/
  | amin (h : Hdr) (t : Ty) (ord : Ord) (sc : Scope) (d : WG) (a : WG) (b : WGI)
  /-- AMAX, opcode 0x182 (class 0x6, atomics and synchronisation). -/
  | amax (h : Hdr) (t : Ty) (ord : Ord) (sc : Scope) (d : WG) (a : WG) (b : WGI)
  /-- AMINN, opcode 0x183 (class 0x6, atomics and synchronisation). -/
  | aminn (h : Hdr) (t : Ty) (ord : Ord) (sc : Scope) (d : WG) (a : WG) (b : WGI)
  /-- AMAXN, opcode 0x184 (class 0x6, atomics and synchronisation). -/
  | amaxn (h : Hdr) (t : Ty) (ord : Ord) (sc : Scope) (d : WG) (a : WG) (b : WGI)
  /-- AAND, opcode 0x185 (class 0x6, atomics and synchronisation). -/
  | aand (h : Hdr) (t : Ty) (ord : Ord) (sc : Scope) (d : WG) (a : WG) (b : WGI)
  /-- AOR, opcode 0x186 (class 0x6, atomics and synchronisation). -/
  | aor (h : Hdr) (t : Ty) (ord : Ord) (sc : Scope) (d : WG) (a : WG) (b : WGI)
  /-- AXOR, opcode 0x187 (class 0x6, atomics and synchronisation). -/
  | axor (h : Hdr) (t : Ty) (ord : Ord) (sc : Scope) (d : WG) (a : WG) (b : WGI)
  /-- ASWP, opcode 0x188 (class 0x6, atomics and synchronisation). -/
  | aswp (h : Hdr) (t : Ty) (ord : Ord) (sc : Scope) (d : WG) (a : WG) (b : WGI)
  /-- ACAS, opcode 0x189 (class 0x6, atomics and synchronisation). -/
  | acas (h : Hdr) (t : Ty) (ord : Ord) (sc : Scope) (d : WG) (a : WG) (b : WGI)
  /-- LDACQ, opcode 0x18A (class 0x6, atomics and synchronisation). -/
  | ldacq (h : Hdr) (t : Ty) (sc : Scope) (d : WG) (a : WG) (b : WGI)
  /-- STREL, opcode 0x18B (class 0x6, atomics and synchronisation). -/
  | strel (h : Hdr) (t : Ty) (sc : Scope) (d : WG) (a : WG) (b : WGI)
  /-- FENCE, opcode 0x18C (class 0x6, atomics and synchronisation). -/
  | fence (h : Hdr) (ord : Ord) (sc : Scope)
  /-- WAITA, opcode 0x18D (class 0x6, atomics and synchronisation). -/
  | waita (h : Hdr) (sc : Scope) (d : WGI) (a : WG) (b : WGI)
  /-- GBAR, opcode 0x18E (class 0x6, atomics and synchronisation). -/
  | gbar (h : Hdr)
  /-- VADD, opcode 0x1C0 (class 0x7, vector integer). -/
  | vadd (h : Hdr) (t : Ty) (d : V) (a : V) (b : VS)
  /-- VSUB, opcode 0x1C1 (class 0x7, vector integer). -/
  | vsub (h : Hdr) (t : Ty) (d : V) (a : V) (b : VS)
  /-- VADDS, opcode 0x1C2 (class 0x7, vector integer). -/
  | vadds (h : Hdr) (t : Ty) (d : V) (a : V) (b : VS)
  /-- VADDSN, opcode 0x1C3 (class 0x7, vector integer). -/
  | vaddsn (h : Hdr) (t : Ty) (d : V) (a : V) (b : VS)
  /-- VSUBS, opcode 0x1C4 (class 0x7, vector integer). -/
  | vsubs (h : Hdr) (t : Ty) (d : V) (a : V) (b : VS)
  /-- VMUL, opcode 0x1C5 (class 0x7, vector integer). -/
  | vmul (h : Hdr) (t : Ty) (d : V) (a : V) (b : VS)
  /-- VMULH, opcode 0x1C6 (class 0x7, vector integer). -/
  | vmulh (h : Hdr) (t : Ty) (d : V) (a : V) (b : VS)
  /-- VMULHR, opcode 0x1C7 (class 0x7, vector integer). -/
  | vmulhr (h : Hdr) (d : V) (a : V) (b : VS)
  /-- VMAD, opcode 0x1C8 (class 0x7, vector integer). -/
  | vmad (h : Hdr) (t : Ty) (d : V) (a : V) (b : VS)
  /-- VMACW, opcode 0x1C9 (class 0x7, vector integer). -/
  | vmacw (h : Hdr) (t : Ty) (d : V) (a : V) (b : VS)
  /-- VDOT4, opcode 0x1CA (class 0x7, vector integer). -/
  | vdot4 (h : Hdr) (t : Ty) (d : V) (a : V) (b : VS)
  /-- VMIN, opcode 0x1CB (class 0x7, vector integer). -/
  | vmin (h : Hdr) (t : Ty) (d : V) (a : V) (b : VS)
  /-- VMAX, opcode 0x1CC (class 0x7, vector integer). -/
  | vmax (h : Hdr) (t : Ty) (d : V) (a : V) (b : VS)
  /-- VMINN, opcode 0x1CD (class 0x7, vector integer). -/
  | vminn (h : Hdr) (t : Ty) (d : V) (a : V) (b : VS)
  /-- VMAXN, opcode 0x1CE (class 0x7, vector integer). -/
  | vmaxn (h : Hdr) (t : Ty) (d : V) (a : V) (b : VS)
  /-- VABS, opcode 0x1CF (class 0x7, vector integer). -/
  | vabs (h : Hdr) (t : Ty) (d : V) (a : V)
  /-- VAND, opcode 0x1D0 (class 0x7, vector integer). -/
  | vand (h : Hdr) (t : Ty) (d : V) (a : V) (b : VS)
  /-- VOR, opcode 0x1D1 (class 0x7, vector integer). -/
  | vor (h : Hdr) (t : Ty) (d : V) (a : V) (b : VS)
  /-- VXOR, opcode 0x1D2 (class 0x7, vector integer). -/
  | vxor (h : Hdr) (t : Ty) (d : V) (a : V) (b : VS)
  /-- VSHL, opcode 0x1D3 (class 0x7, vector integer). -/
  | vshl (h : Hdr) (t : Ty) (d : V) (a : V) (b : VS)
  /-- VSHR, opcode 0x1D4 (class 0x7, vector integer). -/
  | vshr (h : Hdr) (t : Ty) (d : V) (a : V) (b : VS)
  /-- VSAR, opcode 0x1D5 (class 0x7, vector integer). -/
  | vsar (h : Hdr) (t : Ty) (d : V) (a : V) (b : VS)
  /-- VRSHR, opcode 0x1D6 (class 0x7, vector integer). -/
  | vrshr (h : Hdr) (t : Ty) (d : V) (a : V) (b : VS)
  /-- VNARS, opcode 0x1D7 (class 0x7, vector integer). -/
  | vnars (h : Hdr) (t : Ty) (p : BitVec 6) (d : V) (a : V)
  /-- VNARN, opcode 0x1D8 (class 0x7, vector integer). -/
  | vnarn (h : Hdr) (t : Ty) (p : BitVec 6) (d : V) (a : V)
  /-- VWID, opcode 0x1D9 (class 0x7, vector integer). -/
  | vwid (h : Hdr) (t : Ty) (p : BitVec 6) (d : V) (a : V)
  /-- VWIDN, opcode 0x1DA (class 0x7, vector integer). -/
  | vwidn (h : Hdr) (t : Ty) (p : BitVec 6) (d : V) (a : V)
  /-- VCMP, opcode 0x1DB (class 0x7, vector integer). -/
  | vcmp (h : Hdr) (t : Ty) (c : Cond) (d : P) (a : V) (b : VS)
  /-- VSEL, opcode 0x1DC (class 0x7, vector integer). -/
  | vsel (h : Hdr) (t : Ty) (pk : P) (d : V) (a : V) (b : VS)
  /-- VSPLAT, opcode 0x1DD (class 0x7, vector integer). -/
  | vsplat (h : Hdr) (t : Ty) (d : V) (b : WGI)
  /-- VPERM, opcode 0x1DE (class 0x7, vector integer). -/
  | vperm (h : Hdr) (t : Ty) (d : V) (a : V) (b : V)
  /-- VSLIDE, opcode 0x1DF (class 0x7, vector integer). -/
  | vslide (h : Hdr) (t : Ty) (d : V) (a : V) (b : WGI)
  /-- VIOTA, opcode 0x1E0 (class 0x7, vector integer). -/
  | viota (h : Hdr) (t : Ty) (d : V) (b : WGI)
  /-- VREDADD, opcode 0x1E1 (class 0x7, vector integer). -/
  | vredadd (h : Hdr) (t : Ty) (d : WG) (a : V)
  /-- VREDMAX, opcode 0x1E2 (class 0x7, vector integer). -/
  | vredmax (h : Hdr) (t : Ty) (d : WG) (a : V)
  /-- VREDMIN, opcode 0x1E3 (class 0x7, vector integer). -/
  | vredmin (h : Hdr) (t : Ty) (d : WG) (a : V)
  /-- VMOVS, opcode 0x1E4 (class 0x7, vector integer). -/
  | vmovs (h : Hdr) (t : Ty) (d : WG) (a : V) (b : WGI)
  /-- VCLR, opcode 0x1E5 (class 0x7, vector integer). -/
  | vclr (h : Hdr) (t : Ty) (d : V)
  /-- VFADD, opcode 0x200 (class 0x8, vector FP, conversion, long accumulator). -/
  | vfadd (h : Hdr) (t : Ty) (d : V) (a : V) (b : VWG)
  /-- VFSUB, opcode 0x201 (class 0x8, vector FP, conversion, long accumulator). -/
  | vfsub (h : Hdr) (t : Ty) (d : V) (a : V) (b : VWG)
  /-- VFMUL, opcode 0x202 (class 0x8, vector FP, conversion, long accumulator). -/
  | vfmul (h : Hdr) (t : Ty) (d : V) (a : V) (b : VWG)
  /-- VFFMA, opcode 0x203 (class 0x8, vector FP, conversion, long accumulator). -/
  | vffma (h : Hdr) (t : Ty) (d : V) (a : V) (b : VWG)
  /-- VFMIN, opcode 0x204 (class 0x8, vector FP, conversion, long accumulator). -/
  | vfmin (h : Hdr) (t : Ty) (d : V) (a : V) (b : VWG)
  /-- VFMAX, opcode 0x205 (class 0x8, vector FP, conversion, long accumulator). -/
  | vfmax (h : Hdr) (t : Ty) (d : V) (a : V) (b : VWG)
  /-- VFABS, opcode 0x206 (class 0x8, vector FP, conversion, long accumulator). -/
  | vfabs (h : Hdr) (t : Ty) (d : V) (a : V)
  /-- VFNEG, opcode 0x207 (class 0x8, vector FP, conversion, long accumulator). -/
  | vfneg (h : Hdr) (t : Ty) (d : V) (a : V)
  /-- VFRCP, opcode 0x208 (class 0x8, vector FP, conversion, long accumulator). -/
  | vfrcp (h : Hdr) (d : V) (a : V)
  /-- VFRSQ, opcode 0x209 (class 0x8, vector FP, conversion, long accumulator). -/
  | vfrsq (h : Hdr) (d : V) (a : V)
  /-- VFEXP2, opcode 0x20A (class 0x8, vector FP, conversion, long accumulator). -/
  | vfexp2 (h : Hdr) (d : V) (a : V)
  /-- VFLOG2, opcode 0x20B (class 0x8, vector FP, conversion, long accumulator). -/
  | vflog2 (h : Hdr) (d : V) (a : V)
  /-- VFCMP, opcode 0x20C (class 0x8, vector FP, conversion, long accumulator). -/
  | vfcmp (h : Hdr) (t : Ty) (c : FCond) (d : P) (a : V) (b : VWG)
  /-- VFRADD, opcode 0x20D (class 0x8, vector FP, conversion, long accumulator). -/
  | vfradd (h : Hdr) (d : WG) (a : V)
  /-- VFRMAX, opcode 0x20E (class 0x8, vector FP, conversion, long accumulator). -/
  | vfrmax (h : Hdr) (d : WG) (a : V)
  /-- VCVTFI, opcode 0x20F (class 0x8, vector FP, conversion, long accumulator). -/
  | vcvtfi (h : Hdr) (t : Ty) (d : V) (a : V)
  /-- VCVTIF, opcode 0x210 (class 0x8, vector FP, conversion, long accumulator). -/
  | vcvtif (h : Hdr) (t : Ty) (d : V) (a : V)
  /-- VCVTFB, opcode 0x211 (class 0x8, vector FP, conversion, long accumulator). -/
  | vcvtfb (h : Hdr) (p : BitVec 6) (d : V) (a : V)
  /-- VCVTFBS, opcode 0x212 (class 0x8, vector FP, conversion, long accumulator). -/
  | vcvtfbs (h : Hdr) (p : BitVec 6) (d : V) (a : V)
  /-- VCVTFH, opcode 0x213 (class 0x8, vector FP, conversion, long accumulator). -/
  | vcvtfh (h : Hdr) (p : BitVec 6) (d : V) (a : V)
  /-- VCVTE4S, opcode 0x214 (class 0x8, vector FP, conversion, long accumulator). -/
  | vcvte4s (h : Hdr) (t : Ty) (p : BitVec 6) (d : V) (a : V)
  /-- VCVTE4O, opcode 0x215 (class 0x8, vector FP, conversion, long accumulator). -/
  | vcvte4o (h : Hdr) (t : Ty) (p : BitVec 6) (d : V) (a : V)
  /-- VCVTE5S, opcode 0x216 (class 0x8, vector FP, conversion, long accumulator). -/
  | vcvte5s (h : Hdr) (t : Ty) (p : BitVec 6) (d : V) (a : V)
  /-- VCVTE5O, opcode 0x217 (class 0x8, vector FP, conversion, long accumulator). -/
  | vcvte5o (h : Hdr) (t : Ty) (p : BitVec 6) (d : V) (a : V)
  /-- VCVTF4S, opcode 0x218 (class 0x8, vector FP, conversion, long accumulator). -/
  | vcvtf4s (h : Hdr) (t : Ty) (p : BitVec 6) (d : V) (a : V)
  /-- VWIDF, opcode 0x219 (class 0x8, vector FP, conversion, long accumulator). -/
  | vwidf (h : Hdr) (t : Ty) (p : BitVec 6) (d : V) (a : V)
  /-- VDECQ, opcode 0x21A (class 0x8, vector FP, conversion, long accumulator). -/
  | vdecq (h : Hdr) (t : Ty) (p : BitVec 6) (d : V) (a : V) (b : WG)
  /-- VENCQ, opcode 0x21B (class 0x8, vector FP, conversion, long accumulator). -/
  | vencq (h : Hdr) (p : BitVec 6) (d : V) (a : V) (b : WG)
  /-- LWADD, opcode 0x21C (class 0x8, vector FP, conversion, long accumulator). -/
  | lwadd (h : Hdr) (t : Ty) (d : WG) (a : WG) (b : WG)
  /-- LRND, opcode 0x21D (class 0x8, vector FP, conversion, long accumulator). -/
  | lrnd (h : Hdr) (d : WG) (a : WG)
  /-- LCLR, opcode 0x21E (class 0x8, vector FP, conversion, long accumulator). -/
  | lclr (h : Hdr) (a : WG)
  /-- VLD, opcode 0x240 (class 0x9, vector memory, rings, streams). -/
  | vld (h : Hdr) (t : Ty) (d : V) (a : WGQ) (b : WGI)
  /-- VLD2, opcode 0x241 (class 0x9, vector memory, rings, streams). -/
  | vld2 (h : Hdr) (t : Ty) (k : BitVec 6) (d : V) (a : WGQ) (b : WGI)
  /-- VST, opcode 0x242 (class 0x9, vector memory, rings, streams). -/
  | vst (h : Hdr) (t : Ty) (d : V) (a : WGQ) (b : WGI)
  /-- VLDS, opcode 0x243 (class 0x9, vector memory, rings, streams). -/
  | vlds (h : Hdr) (t : Ty) (d : V) (a : WG) (b : WGI)
  /-- VSTS, opcode 0x244 (class 0x9, vector memory, rings, streams). -/
  | vsts (h : Hdr) (t : Ty) (d : V) (a : WG) (b : WGI)
  /-- VGATH, opcode 0x245 (class 0x9, vector memory, rings, streams). -/
  | vgath (h : Hdr) (t : Ty) (d : V) (a : WG) (b : V)
  /-- VSCAT, opcode 0x246 (class 0x9, vector memory, rings, streams). -/
  | vscat (h : Hdr) (t : Ty) (d : V) (a : WG) (b : V)
  /-- VLDB, opcode 0x247 (class 0x9, vector memory, rings, streams). -/
  | vldb (h : Hdr) (t : Ty) (d : V) (a : WGQ) (b : WGI)
  /-- RADVC, opcode 0x248 (class 0x9, vector memory, rings, streams). -/
  | radvc (h : Hdr) (a : Ring)
  /-- RADVP, opcode 0x249 (class 0x9, vector memory, rings, streams). -/
  | radvp (h : Hdr) (a : Ring)
  /-- RSTAT, opcode 0x24A (class 0x9, vector memory, rings, streams). -/
  | rstat (h : Hdr) (d : WG) (a : Ring)
  /-- SEND, opcode 0x24B (class 0x9, vector memory, rings, streams). -/
  | send (h : Hdr) (ord : Ord) (sc : Scope) (d : WG) (a : Option V)
  /-- SENDL, opcode 0x24C (class 0x9, vector memory, rings, streams). -/
  | sendl (h : Hdr) (ord : Ord) (sc : Scope) (d : WG) (a : WG) (b : WGI)
  /-- VSRED, opcode 0x24D (class 0x9, vector memory, rings, streams). -/
  | vsred (h : Hdr) (t : Ty) (d : V) (a : Chan)
  /-- VSMAC, opcode 0x24E (class 0x9, vector memory, rings, streams). -/
  | vsmac (h : Hdr) (t : Ty) (d : V) (a : Chan) (b : V)
  /-- VSMOV, opcode 0x24F (class 0x9, vector memory, rings, streams). -/
  | vsmov (h : Hdr) (d : V) (a : Chan)
  /-- CHEND, opcode 0x250 (class 0x9, vector memory, rings, streams). -/
  | chend (h : Hdr) (a : Chan)
  /-- MLDA, opcode 0x280 (class 0xA, matrix engine). -/
  | mlda (h : Hdr) (ta : Ty) (tb : Ty) (a : WG)
  /-- MGANG, opcode 0x281 (class 0xA, matrix engine). -/
  | mgang (h : Hdr) (ta : Ty) (tb : Ty) (hm1 : BitVec 6) (d : WGI) (a : WG) (b : Option WG)
  /-- MMA, opcode 0x282 (class 0xA, matrix engine). -/
  | mma (h : Hdr) (ta : Ty) (tb : Ty) (hm1 : BitVec 6) (d : WGI) (a : WG) (b : Option WG)
  /-- MZERO, opcode 0x283 (class 0xA, matrix engine). -/
  | mzero (h : Hdr) (hm1 : BitVec 6) (d : WGI)
  /-- MSTF, opcode 0x284 (class 0xA, matrix engine). -/
  | mstf (h : Hdr) (hm1 : BitVec 6) (d : WGI) (a : WG)
  /-- MSTQ, opcode 0x285 (class 0xA, matrix engine). -/
  | mstq (h : Hdr) (hm1 : BitVec 6) (d : WGI) (a : WG) (b : WG)
  /-- MSTB, opcode 0x286 (class 0xA, matrix engine). -/
  | mstb (h : Hdr) (hm1 : BitVec 6) (d : WGI) (a : WG)
  /-- MLDC, opcode 0x287 (class 0xA, matrix engine). -/
  | mldc (h : Hdr) (hm1 : BitVec 6) (d : WGI) (a : WG)
  /-- MWAIT, opcode 0x288 (class 0xA, matrix engine). -/
  | mwait (h : Hdr)
  /-- MSTAT, opcode 0x289 (class 0xA, matrix engine). -/
  | mstat (h : Hdr) (d : WG)
  /-- CPY, opcode 0x2C0 (class 0xB, copy engine). -/
  | cpy (h : Hdr) (sc : Scope) (d : WGQ) (a : WG) (b : WG)
  /-- CPY2, opcode 0x2C1 (class 0xB, copy engine). -/
  | cpy2 (h : Hdr) (sc : Scope) (d : WGQ) (a : WG) (b : WG)
  /-- CPYG, opcode 0x2C2 (class 0xB, copy engine). -/
  | cpyg (h : Hdr) (sc : Scope) (d : WGQ) (a : WG) (b : WG)
  /-- CPYZ, opcode 0x2C3 (class 0xB, copy engine). -/
  | cpyz (h : Hdr) (sc : Scope) (d : WGQ) (b : WG)
  /-- CPYB, opcode 0x2C4 (class 0xB, copy engine). -/
  | cpyb (h : Hdr) (sc : Scope) (d : WG) (a : WG) (b : WG)
  /-- CWAIT, opcode 0x2C5 (class 0xB, copy engine). -/
  | cwait (h : Hdr) (b : WGI)
  /-- CSTAT, opcode 0x2C6 (class 0xB, copy engine). -/
  | cstat (h : Hdr) (d : WG) (b : WGI)
  /-- CCANCEL, opcode 0x2C7 (class 0xB, copy engine). -/
  | ccancel (h : Hdr) (d : WG) (b : WGI)
  /-- RKDECL, opcode 0x300 (class 0xC, rake). -/
  | rkdecl (h : Hdr) (c : BitVec 6) (a : WG)
  /-- RKSWEEP, opcode 0x301 (class 0xC, rake). -/
  | rksweep (h : Hdr) (c : BitVec 6)
  /-- RKWAKE, opcode 0x302 (class 0xC, rake). -/
  | rkwake (h : Hdr) (c : BitVec 6) (a : WGI) (b : WGI)
  /-- RKNEXT, opcode 0x303 (class 0xC, rake). -/
  | rknext (h : Hdr)
  /-- RKWAIT, opcode 0x304 (class 0xC, rake). -/
  | rkwait (h : Hdr) (c : BitVec 6)
  /-- RKSTAT, opcode 0x305 (class 0xC, rake). -/
  | rkstat (h : Hdr) (c : BitVec 6) (d : WG)
  /-- SPAWN, opcode 0x340 (class 0xD, work). -/
  | spawn (h : Hdr) (d : WG) (a : WG) (b : WGI)
  /-- LAUNCH, opcode 0x341 (class 0xD, work). -/
  | launch (h : Hdr) (d : WG) (a : WG)
  /-- GLAUNCH, opcode 0x342 (class 0xD, work). -/
  | glaunch (h : Hdr) (d : WG) (a : WG) (b : WGI)
  /-- CANCEL, opcode 0x343 (class 0xD, work). -/
  | cancel (h : Hdr) (lvl : Level) (d : WG) (a : WGI)
  /-- BIND, opcode 0x344 (class 0xD, work). -/
  | bind (h : Hdr) (d : WG) (a : WG) (b : WG)
  /-- UNBIND, opcode 0x345 (class 0xD, work). -/
  | unbind (h : Hdr) (d : WG) (b : WGI)
  /-- COMPL, opcode 0x346 (class 0xD, work). -/
  | compl (h : Hdr) (lvl : Level) (d : WG) (a : WGI)
  /-- KINDLE, opcode 0x347 (class 0xD, work). -/
  | kindle (h : Hdr) (cls : WakeClass) (sc : Scope) (d : WG) (a : WGI) (b : WG)
  /-- MIGRATE, opcode 0x348 (class 0xD, work). -/
  | migrate (h : Hdr) (d : WG) (a : WGI)
  /-- TKCMT, opcode 0x349 (class 0xD, work). -/
  | tkcmt (h : Hdr) (cnt : BitVec 6) (d : WG) (a : WGI) (b : V)
  /-- TKWSET, opcode 0x34A (class 0xD, work). -/
  | tkwset (h : Hdr) (idx : BitVec 6) (d : WG) (a : WGI) (b : WG)
  /-- TKWCLR, opcode 0x34B (class 0xD, work). -/
  | tkwclr (h : Hdr) (idx : BitVec 6) (d : WG) (a : WGI)
  /-- NOTIFY, opcode 0x34C (class 0xD, work). -/
  | notify (h : Hdr) (a : WG) (b : WGI)
  /-- IDLE, opcode 0x34D (class 0xD, work). -/
  | idle (h : Hdr)
  /-- SRD, opcode 0x380 (class 0xE, system). -/
  | srd (h : Hdr) (d : WG) (a : SReg)
  /-- SWR, opcode 0x381 (class 0xE, system). -/
  | swr (h : Hdr) (d : SReg) (a : WGI)
  /-- TLBINV, opcode 0x382 (class 0xE, system). -/
  | tlbinv (h : Hdr) (k : InvKind) (a : WG) (b : WG)
  /-- SEED, opcode 0x383 (class 0xE, system). -/
  | seed (h : Hdr) (a : WGI)
  /-- RAND, opcode 0x384 (class 0xE, system). -/
  | rand (h : Hdr) (d : WG)
  /-- LTURN, opcode 0x385 (class 0xE, system). -/
  | lturn (h : Hdr) (d : WG) (a : WGI) (b : WGI)
  /-- PWRREQ, opcode 0x386 (class 0xE, system). -/
  | pwrreq (h : Hdr) (d : WG) (a : WGI)
  /-- RAILSEL, opcode 0x387 (class 0xE, system). -/
  | railsel (h : Hdr) (d : WG) (a : WGI) (b : WGI)
  /-- TRMARK, opcode 0x388 (class 0xE, system). -/
  | trmark (h : Hdr) (a : WGI)
  /-- BKPT, opcode 0x389 (class 0xE, system). -/
  | bkpt (h : Hdr) (a : BitVec 14)
  /-- ERET, opcode 0x38A (class 0xE, system). -/
  | eret (h : Hdr)
  /-- PINSET, opcode 0x38B (class 0xE, system). -/
  | pinset (h : Hdr) (idx : BitVec 6) (d : WG) (a : WG)
  /-- DLYRD, opcode 0x38C (class 0xE, system). -/
  | dlyrd (h : Hdr) (d : WG) (a : WGI)
  /-- DLYCLR, opcode 0x38D (class 0xE, system). -/
  | dlyclr (h : Hdr) (a : WGI)
  /-- MCRD, opcode 0x38E (class 0xE, system). -/
  | mcrd (h : Hdr) (d : WG) (a : WGI)
  /-- HALT, opcode 0x38F (class 0xE, system). -/
  | halt (h : Hdr)
  /-- CSYNC, opcode 0x390 (class 0xE, system). -/
  | csync (h : Hdr)
  /-- The device event DEVICE_RESET. -/
  | deviceReset
  /-- The device event NEXT_TASK_CHOICE. -/
  | nextTaskChoice
  /-- The device event STEAL. -/
  | steal
  /-- The device event SERVICE_TASK_ENTRY. -/
  | serviceTaskEntry
  /-- The device event STEP_WATCHDOG_EXPIRY. -/
  | stepWatchdogExpiry
  /-- The device event MESSAGE_HEADER_ARRIVAL. -/
  | messageHeaderArrival
  /-- The device event HEADER_QUEUE_ENTRY. -/
  | headerQueueEntry
  /-- The device event MESSAGE_BEAT_ARRIVAL. -/
  | messageBeatArrival
  /-- The device event SEND_TAIL_INJECTED. -/
  | sendTailInjected
  /-- The device event STORE_BUFFER_DRAIN. -/
  | storeBufferDrain
  /-- The device event MEMORY_RESPONSE. -/
  | memoryResponse
  /-- The device event DIRECTORY_REQUEST. -/
  | directoryRequest
  /-- The device event L1_EVICTION. -/
  | l1Eviction
  /-- The device event TRANSLATION_WALK_COMPLETE. -/
  | translationWalkComplete
  /-- The device event COLD_PAGE_FETCH_COMPLETE. -/
  | coldPageFetchComplete
  /-- The device event PAGE_OUT_START. -/
  | pageOutStart
  /-- The device event PAGE_OUT_COMPLETE. -/
  | pageOutComplete
  /-- The device event VECTOR_CMD_TAKE. -/
  | vectorCmdTake
  /-- The device event MATRIX_CMD_START. -/
  | matrixCmdStart
  /-- The device event MATRIX_CMD_COMPLETE. -/
  | matrixCmdComplete
  /-- The device event COPY_CMD_ACCEPT. -/
  | copyCmdAccept
  /-- The device event COPY_BEAT_COMPLETE. -/
  | copyBeatComplete
  /-- The device event COPY_COMPLETE. -/
  | copyComplete
  /-- The device event RAKE_CMD_TAKE. -/
  | rakeCmdTake
  /-- The device event RAKE_BEAT_SAMPLE. -/
  | rakeBeatSample
  /-- The device event RAKE_SWEEP_END. -/
  | rakeSweepEnd
  /-- The device event WATCH_UNIT_COMMIT. -/
  | watchUnitCommit
  /-- The device event WORK_RETIRE. -/
  | workRetire
  /-- The device event GRAPH_LAUNCH_NODE. -/
  | graphLaunchNode
  /-- The device event GRAPH_COND_NODE. -/
  | graphCondNode
  /-- The device event GRAPH_WHILE_NODE. -/
  | graphWhileNode
  /-- The device event GRAPH_JOINALL_NODE. -/
  | graphJoinallNode
  /-- The device event GRAPH_END_NODE. -/
  | graphEndNode
  /-- The device event GRAPH_NODE_RETRY. -/
  | graphNodeRetry
  /-- The device event DOORBELL_WRITE. -/
  | doorbellWrite
  /-- The device event LAUNCH_PACKET. -/
  | launchPacket
  /-- The device event GRAPH_PACKET. -/
  | graphPacket
  /-- The device event PHASE_PACKET. -/
  | phasePacket
  /-- The device event WAIT_PACKET. -/
  | waitPacket
  /-- The device event WAIT_WORD_POLL. -/
  | waitWordPoll
  /-- The device event SIGNAL_PACKET. -/
  | signalPacket
  /-- The device event SIGNAL_AFTER_WRITE. -/
  | signalAfterWrite
  /-- The device event QUEUE_CLOSE. -/
  | queueClose
  /-- The device event SCHEDULING_PASS. -/
  | schedulingPass
  /-- The device event LOCAL_MEMORY_CLEAR_DONE. -/
  | localMemoryClearDone
  /-- The device event PRIORITY_AGING. -/
  | priorityAging
  /-- The device event HEAD_RESERVATION. -/
  | headReservation
  /-- The device event INTENSITY_CLASSIFY. -/
  | intensityClassify
  /-- The device event THERMAL_READING. -/
  | thermalReading
  /-- The device event THERMAL_STEP_UP. -/
  | thermalStepUp
  /-- The device event STOP_REQUEST. -/
  | stopRequest
  /-- The device event CUT_ACKNOWLEDGE. -/
  | cutAcknowledge
  /-- The device event CUT_SECOND_STAGE. -/
  | cutSecondStage
  /-- The device event CUT_COMPLETE. -/
  | cutComplete
  /-- The device event CUT_RESUME. -/
  | cutResume
  /-- The device event MIGRATION_TRANSFER_COMPLETE. -/
  | migrationTransferComplete
  /-- The device event CLUSTER_IDLE_ENTRY. -/
  | clusterIdleEntry
  /-- The device event SMOORED_ENTRY. -/
  | smooredEntry
  /-- The device event COLD_ENTRY. -/
  | coldEntry
  /-- The device event FIRMWARE_POWER_COMMAND. -/
  | firmwarePowerCommand
  /-- The device event KINDLE_DEFERRED_CHOICE. -/
  | kindleDeferredChoice
  /-- The device event CLUSTER_WAKE_COMPLETE. -/
  | clusterWakeComplete
  /-- The device event KHOLD_TIMEOUT. -/
  | kholdTimeout
  /-- The device event CHANNEL_WAKE_COMPLETE. -/
  | channelWakeComplete
  /-- The device event CHANNEL_SELF_REFRESH_ENTRY. -/
  | channelSelfRefreshEntry
  /-- The device event RAIL_SWITCH. -/
  | railSwitch
  /-- The device event RAIL_SWITCH_GATE_END. -/
  | railSwitchGateEnd
  /-- The device event GENERATOR_HANDOVER. -/
  | generatorHandover
  /-- The device event CURRENT_SAMPLE. -/
  | currentSample
  /-- The device event PACKAGE_POWER_WINDOW. -/
  | packagePowerWindow
  /-- The device event DROOP_DETECT. -/
  | droopDetect
  /-- The device event LANE_GROUP_RETIRE. -/
  | laneGroupRetire
  /-- The device event LINK_TURN_APPLY. -/
  | linkTurnApply
  /-- The device event TURN_DEAD_TIME_END. -/
  | turnDeadTimeEnd
  /-- The device event HOST_WAKE_WRITE. -/
  | hostWakeWrite
  /-- The device event APERTURE_UP. -/
  | apertureUp
  /-- The device event HOST_MEM_ACCESS. -/
  | hostMemAccess
  /-- The device event HEARTBEAT_TIMEOUT. -/
  | heartbeatTimeout
  /-- The device event LIVE_UPDATE. -/
  | liveUpdate
  /-- The device event ATTESTATION_REQUEST. -/
  | attestationRequest
  /-- The device event MACHINE_CHECK. -/
  | machineCheck
  /-- The device event CORE_RESTART. -/
  | coreRestart
  /-- The device event TRACE_RECORD_WRITE. -/
  | traceRecordWrite
  /-- The device event TRACE_SAMPLE_TIMER. -/
  | traceSampleTimer
  /-- The device event CAPTURE_END. -/
  | captureEnd
  /-- The device event DEBUG_CORE_STOP. -/
  | debugCoreStop
  /-- The device event DEBUG_CORE_RESUME. -/
  | debugCoreResume
  /-- The device event FIRMWARE_REGISTER_WRITE. -/
  | firmwareRegisterWrite
  /-- The device event TLB_INVALIDATION_COMPLETE. -/
  | tlbInvalidationComplete
  /-- The device event CLUSTER_STATE_CHANGE_FINISHED. -/
  | clusterStateChangeFinished
deriving DecidableEq, Repr

/-- The row of the opcode table an event belongs to. -/
def Event.instr : Event → Instr
  | .deviceReset _ => .deviceReset
  | .nextTaskChoice _ => .nextTaskChoice
  | .steal _ => .steal
  | .serviceTaskEntry _ => .serviceTaskEntry
  | .stepWatchdogExpiry _ => .stepWatchdogExpiry
  | .messageHeaderArrival _ => .messageHeaderArrival
  | .headerQueueEntry _ _ => .headerQueueEntry
  | .messageBeatArrival _ => .messageBeatArrival
  | .sendTailInjected _ => .sendTailInjected
  | .storeBufferDrain _ => .storeBufferDrain
  | .memoryResponse _ _ _ => .memoryResponse
  | .directoryRequest _ => .directoryRequest
  | .l1Eviction _ _ => .l1Eviction
  | .translationWalkComplete _ => .translationWalkComplete
  | .coldPageFetchComplete _ _ => .coldPageFetchComplete
  | .pageOutStart _ _ _ => .pageOutStart
  | .pageOutComplete _ _ => .pageOutComplete
  | .vectorCmdTake _ => .vectorCmdTake
  | .matrixCmdStart _ => .matrixCmdStart
  | .matrixCmdComplete _ => .matrixCmdComplete
  | .copyCmdAccept _ => .copyCmdAccept
  | .copyBeatComplete _ _ _ => .copyBeatComplete
  | .copyComplete _ _ => .copyComplete
  | .rakeCmdTake _ => .rakeCmdTake
  | .rakeBeatSample _ => .rakeBeatSample
  | .rakeSweepEnd _ => .rakeSweepEnd
  | .watchUnitCommit => .watchUnitCommit
  | .workRetire _ _ _ => .workRetire
  | .graphLaunchNode _ _ => .graphLaunchNode
  | .graphCondNode _ _ => .graphCondNode
  | .graphWhileNode _ _ => .graphWhileNode
  | .graphJoinallNode _ _ => .graphJoinallNode
  | .graphEndNode _ _ => .graphEndNode
  | .graphNodeRetry _ _ => .graphNodeRetry
  | .doorbellWrite _ _ _ => .doorbellWrite
  | .launchPacket _ _ => .launchPacket
  | .graphPacket _ _ => .graphPacket
  | .phasePacket _ _ => .phasePacket
  | .waitPacket _ _ => .waitPacket
  | .waitWordPoll _ _ => .waitWordPoll
  | .signalPacket _ _ => .signalPacket
  | .signalAfterWrite _ => .signalAfterWrite
  | .queueClose _ _ => .queueClose
  | .schedulingPass _ _ _ => .schedulingPass
  | .localMemoryClearDone _ => .localMemoryClearDone
  | .priorityAging _ _ => .priorityAging
  | .headReservation _ => .headReservation
  | .intensityClassify _ _ => .intensityClassify
  | .thermalReading _ => .thermalReading
  | .thermalStepUp _ => .thermalStepUp
  | .stopRequest _ => .stopRequest
  | .cutAcknowledge _ _ => .cutAcknowledge
  | .cutSecondStage _ => .cutSecondStage
  | .cutComplete _ => .cutComplete
  | .cutResume _ _ => .cutResume
  | .migrationTransferComplete _ => .migrationTransferComplete
  | .clusterIdleEntry _ => .clusterIdleEntry
  | .smooredEntry _ => .smooredEntry
  | .coldEntry _ => .coldEntry
  | .firmwarePowerCommand _ => .firmwarePowerCommand
  | .kindleDeferredChoice => .kindleDeferredChoice
  | .clusterWakeComplete _ => .clusterWakeComplete
  | .kholdTimeout _ => .kholdTimeout
  | .channelWakeComplete _ => .channelWakeComplete
  | .channelSelfRefreshEntry _ => .channelSelfRefreshEntry
  | .railSwitch _ => .railSwitch
  | .railSwitchGateEnd _ => .railSwitchGateEnd
  | .generatorHandover _ => .generatorHandover
  | .currentSample _ _ => .currentSample
  | .packagePowerWindow _ => .packagePowerWindow
  | .droopDetect _ => .droopDetect
  | .laneGroupRetire _ _ => .laneGroupRetire
  | .linkTurnApply _ => .linkTurnApply
  | .turnDeadTimeEnd _ => .turnDeadTimeEnd
  | .hostWakeWrite _ => .hostWakeWrite
  | .apertureUp => .apertureUp
  | .hostMemAccess _ => .hostMemAccess
  | .heartbeatTimeout => .heartbeatTimeout
  | .liveUpdate _ _ _ => .liveUpdate
  | .attestationRequest _ => .attestationRequest
  | .machineCheck _ _ => .machineCheck
  | .coreRestart _ => .coreRestart
  | .traceRecordWrite => .traceRecordWrite
  | .traceSampleTimer _ => .traceSampleTimer
  | .captureEnd _ => .captureEnd
  | .debugCoreStop _ => .debugCoreStop
  | .debugCoreResume _ => .debugCoreResume
  | .firmwareRegisterWrite _ => .firmwareRegisterWrite
  | .tlbInvalidationComplete _ => .tlbInvalidationComplete
  | .clusterStateChangeFinished _ => .clusterStateChangeFinished

end Sys2Proof
end

