-- ==== Sys2Proof/Machine/State.lean ====
section
/-!
DEFINITION. Sys2Proof/Machine/State.lean: the state of the whole device, as plain data: every register (spec/03), memory (spec/04),
queue (spec/06), table (spec/07) and counter (spec/08), and the scheduler, power, link, complex and trace state of spec/14 to spec/19.
One core, the FOCUS core, is held directly in the field `core`; the other cores stand in the sparse list `rest`, where a core
that is not listed is as `Core.reset` leaves it. `agenda` says who acts next (log 1).
-/
namespace Sys2Proof.Machine

/-- Host-level faults. A fault of the Gwynrus ends a LAUNCH and not the device (R323): it is a next state, so nothing the
device does stops a run, and this inductive has the one reason below. -/
inductive Fault where
  /-- Raised by nothing: kept so that the type of faults is inhabited. Safe. -/
  | none
deriving DecidableEq, Repr

/-- Host-level refusals. -/
inductive Refusal where
  /-- An instruction or event with no meaning yet, by its mnemonic: raised by Dispatch.lean alone. Safe: the model stops. -/
  | notModelled (mnemonic : String)
deriving DecidableEq, Repr

/-- The fault codes of a launch fault (R323), by name. -/
inductive FCode where
  | illegalInsn | illegalOperand | align | windowNone | windowStraddle | lmAddr | pageInvalid | pagePerm | paramUnbound
  | ringMisuse | blockFormat | blockMix | engineCmd | hang | dramAsleep | stepMismatch | machineCheck
deriving DecidableEq, Repr

/-- The unit a fault record names (R324). -/
inductive UnitCode where
  | scalar | vector | matrix | copy | rake | walker | collector | complex
deriving DecidableEq, Repr

/-- The waits of R22, by name. -/
inductive Wait where
  | engineQueue | storeBuffer | ring | arrival | matrix | copy | rake | gang | send | stream | watch | tlbinv | csync
  | counter | coldPage | memory
deriving DecidableEq, Repr

/-- A gang (R36): log2 of its size, its first core, and the order of its making: gangs of one launch may follow each other on a core (log 117). -/
structure Gang where
  log : Nat
  base : Nat
  serial : Nat
deriving DecidableEq, Repr

/-- The header of a message (R28). -/
structure MsgHdr where
  msgid : BitVec 20
  len : BitVec 12
  rel : Bool
  scope : Scope
  src : BitVec 11
  tag : BitVec 16
deriving DecidableEq, Repr

/-- A task before it starts: what R20, R24 and R63 give it. -/
structure TaskInfo where
  /-- A whole address: a fork arm's may lie in the ember SRAM window (R190). -/
  entry : Word
  arg : Word
  origin : BitVec 3
  ctx : CtxId
  lid : Lid
  sub : BitVec 2
  gangm : BitVec 3
  /-- Set for a unit the scheduler placed as a gang member (R226). -/
  gang : Option Gang
  /-- Set for a handler activation (R29): its message's header. -/
  msg : Option MsgHdr
  /-- Set for a handler activation: its channel. -/
  chan : Option Chan
  /-- Set for a fork arm (R34): its join word. -/
  joinAddr : Option Word
deriving DecidableEq, Repr

/-- The running user task: its activation registers (R63) and what the core keeps for it. -/
structure Task where
  info : TaskInfo
  actid : BitVec 32
  stepno : BitVec 32
  /-- The step watchdog (R23, R156), 33 bits, and the launch's limit. -/
  wdog : BitVec 33
  wdogLimit : BitVec 33
  /-- A launch issued for firmware runs privileged (R175). -/
  privileged : Bool
deriving DecidableEq, Repr

/-- The class of a run-queue entry (R24, R26). -/
inductive RunClass where
  | handler | spawned
deriving DecidableEq, Repr

/-- A user-class run-queue entry (R25). -/
structure RunEntry where
  cls : RunClass
  task : TaskInfo
deriving DecidableEq, Repr

/-- A raised service task (R64): cause code, TCODE, TRAPINFO and the PC at which ERET resumes; for a directory overflow
the line waits until the task ends (R86). -/
structure SvcReq where
  cause : BitVec 8
  tcode : BitVec 16
  info : Word
  /-- The resume PC of a trap of the user task's own instruction; a directory overflow takes the interrupted task's next PC. -/
  pc : Option Word
  /-- Raised by an instruction of the core's own user task: it ends with that task (R22). -/
  own : Bool
deriving DecidableEq, Repr

/-- A window below the current one (R56): w0 to w15 and its link. -/
structure Frame where
  w : Vector Word 16
  link : BitVec 56
deriving DecidableEq, Repr

/-- The service bank (R55), with the trap registers (R64) and the LAUNCH scratch value (R63). -/
structure SvcBank where
  w : Vector Word 24
  /-- The link of the service window (R56); no handler can CALL. -/
  link : BitVec 56
  g : Vector Word 8
  p : Vector Word 8
  cause : BitVec 8
  tcode : BitVec 16
  trapPc : BitVec 56
  /-- The whole resume address while TRAPPC stands as the trap left it; none once SWR has written TRAPPC (log 34). -/
  resume : Option Word
  /-- The PC of the instruction that produced the resume address: a fetch that fails there faults at it (R164, R186). -/
  resumeSrc : Word
  trapInfo : Word
  /-- What SWR LAUNCH wrote inside the handler; dropped at ERET (R63). -/
  launchScratch : Option (BitVec 40)
  /-- The running user task was blocked in this wait when the service task was taken. -/
  hadTask : Bool
deriving DecidableEq, Repr

/-- The rake's own bank (R42): v0 to v7, p1, the handler's PC and how many of its instructions have run. -/
structure CoalBank where
  v : Vector VReg 32
  p1 : Word
  pc : Word
  ran : Nat
deriving DecidableEq, Repr

/-- Which registers an instruction names: the running user task's, the service task's, or the coal handler's. -/
inductive Bank where
  | user | service | coal
deriving DecidableEq, Repr

/-- The loop state (R189). -/
structure LoopState where
  start : Word
  stop : Word
  rem : Word
  on : Bool
deriving DecidableEq, Repr

/-- An entry of the store buffer (R121, R295): the byte keys of State.mem with their new values, not yet performed. -/
structure PendStore where
  bytes : List (Nat × Byte)
  ctx : CtxId
  /-- The keys of those bytes that lie in a page marked host-shared, which are never cached (R92). -/
  uncached : List Nat
  /-- Performed whole; a misaligned store is performed as single bytes (R208). -/
  whole : Bool
  /-- A ZLINE: the line takes its zero flag (R212). -/
  zline : Bool
deriving DecidableEq, Repr

/-- The states of an L1 line (R82). -/
inductive LineState where
  | s | e | m | rc | rd
deriving DecidableEq, Repr

/-- A line of an L1 (R80 to R83). An own-homed line's bytes are those of memory; a remote-homed line holds its own bytes,
with a valid and a dirty mask. -/
structure Line where
  /-- PA[47:7]. -/
  addr : Nat
  st : LineState
  zero : Bool
  valid : BitVec 128
  dirty : BitVec 128
  data : BitVec 1024
  ctx : CtxId
deriving DecidableEq, Repr

/-- A translation held by a TLB or a translation cache (R93): the context, the virtual page, the level and the leaf. -/
structure Tlb where
  ctx : CtxId
  vpage : Nat
  /-- 0: 64 KiB, 1: 2 MiB, 2: 1 GiB (R137). -/
  level : Nat
  leaf : Word
  /-- Where the leaf stands in physical memory (for A and D, R138). -/
  at_ : Nat
deriving DecidableEq, Repr

/-- The operand record of an engine command (R245), and whose command it is. -/
structure OpRec where
  pc : Word
  core : Nat
  ctx : CtxId
  lid : Lid
  actid : BitVec 32
  stepno : BitVec 32
  d : Word
  a : Word
  a2 : Word
  b : Word
  /-- How many vector commands the core had issued before it: they come before the command's reads and writes (R300). -/
  behind : Nat
deriving DecidableEq, Repr

/-- A ring table entry (R125, R133): static and moving fields. -/
structure RingEntry where
  count : BitVec 7
  ssize : BitVec 10
  base : BitVec 19
  valid : Bool
  arrived : BitVec 64
  filled : BitVec 7
  tail : BitVec 6
  head : BitVec 6
deriving DecidableEq, Repr

/-- A vector command in its queue (R124): whose it is, and, while it has not been performed, the instruction with the scalar
registers, the predicates, the PC and the rings as they stood when it issued (R125, R216, R244). -/
structure VecTodo where
  instr : Instr
  pc : Word
  win : Frame
  out : Vector Word 8
  g : Vector Word 8
  p : Vector Word 8
  rings : Vector RingEntry 16
deriving DecidableEq, Repr

/-- A vector command (R124): none once it has been performed and waits only to leave the queue. -/
structure VecCmd where
  ctx : CtxId
  lid : Lid
  actid : BitVec 32
  /-- Its place in the order in which the core issued its vector commands. -/
  seq : Nat
  todo : Option VecTodo
deriving DecidableEq, Repr

/-- What a matrix command does (R256). -/
inductive MOp where
  | mlda (tb ta : Ty)
  | mma (ta tb : Ty)
  | mgang (ta tb : Ty)
  | mzero | mstf | mstq | mstb | mldc
deriving DecidableEq, Repr

/-- A matrix command as the scalar core issued it: h - 1 rows, the operands as read at issue, and the gang of the task. -/
structure MatrixCmd where
  op : MOp
  hm1 : Nat
  rcd : OpRec
  gang : Option Gang
  member : Nat
  /-- An MGANG issued after some member of its gang had ended (R37). -/
  late : Bool
  /-- The first command of a task whose context is not that of the core's previous task: the accumulator store is zeroed before it (R87). -/
  zero : Bool
deriving DecidableEq, Repr

/-- The operand latch (R258): its types and the bytes of the tile; absent when LVALID is 0. -/
structure Latch where
  tb : Ty
  ta : Ty
  tile : List Byte
deriving DecidableEq, Repr

/-- The copy commands (R263). -/
inductive CopyKind where
  | cpy | cpy2 | cpyg | cpyz | cpyb
deriving DecidableEq, Repr

/-- Where a copy writes (R264, R266). -/
inductive CopyDest where
  | addr (a : Word)
  /-- A ring: its number, base, slot bytes, slot count, first slot and slots taken. -/
  | ring (r : Nat) (base slot n first k : Nat)
deriving DecidableEq, Repr

/-- A copy command, queued or in flight (R263 to R267). -/
structure Copy where
  kind : CopyKind
  scope : Scope
  src : Word
  shape : Word
  ctl : Word
  dest : CopyDest
  rcd : OpRec
  /-- CPYG: the row indices, read when the copy starts. -/
  index : List Nat
  /-- The beats completed, and the bytes of other beats that have reached the banks already (R79). -/
  done : List Nat
  landed : List (Nat × BitVec 64)
  /-- Set by CCANCEL and CANCEL: stop at the end of the current 4 KiB chunk. -/
  cancelled : Bool
deriving DecidableEq, Repr

/-- A clamp declaration record (R144) and the launch that declared it. -/
structure Clamp where
  handler : BitVec 56
  sbase : BitVec 19
  cbase : BitVec 19
  ebase : BitVec 19
  ecount : BitVec 16
  esize : BitVec 2
  autos : BitVec 8
  rlimit : BitVec 8
  pending : Bool
  auto : Bool
  valid : Bool
  ctx : CtxId
  lid : Lid
deriving DecidableEq, Repr

/-- A rake command (R268). -/
inductive RakeCmd where
  | decl (c : Nat) (rcd : OpRec)
  | sweep (c : Nat) (rcd : OpRec)
deriving DecidableEq, Repr

/-- A running sweep (R42, R43): its clamp, its position (none: -1), whether the handler of the sampled beat runs, the handler
as fetched, and the wakes held until RKNEXT. -/
structure Sweep where
  c : Nat
  pos : Option Nat
  running : Bool
  held : List (Nat × BitVec 8)
  rcd : OpRec
  /-- The handler bank of the loop buffer: the words fetched so far, with their PCs. -/
  code : List (Word × BitVec 96)
deriving DecidableEq, Repr

/-- A route table entry (R134). -/
structure Route where
  arg : Word
  entry : BitVec 56
  ctx : CtxId
  lid : Lid
  tag : BitVec 16
  clamp : BitVec 2
  chan : Chan
  kind : Bool
deriving DecidableEq, Repr

/-- A pin table entry (R141); an entry that is not VALID is absent. -/
structure Pin where
  cbase : BitVec 56
  clen : BitVec 24
  dbase : BitVec 19
  dlen : BitVec 14
  record : BitVec 19
  entry : BitVec 56
deriving DecidableEq, Repr

/-- An input channel (R30, R32): busy with a message from its header to its tail. -/
structure Channel where
  hdr : MsgHdr
  ctx : CtxId
  /-- Beats that have arrived and are not yet consumed, oldest first, and how many have arrived in all. -/
  beats : List VReg
  arrived : Nat
  /-- The header waits for a run-queue entry (R31). -/
  waiting : Bool
  /-- The message is bound to a clamp: its first beat wakes an element and creates no task (R41). -/
  clamp : Option Nat
  /-- The handler has ended, or the message is dropped: beats are discarded as they arrive (R32). -/
  discard : Bool
  /-- The binding that was looked up when the header arrived (R29). -/
  entry : BitVec 56
  arg : Word
  lid : Lid
deriving DecidableEq, Repr

/-- A machine-check block (R326). -/
structure McBlock where
  valid : Bool
  src : BitVec 8
  bank : BitVec 16
  fcode : BitVec 8
  synd : Word
  maddr : Word
  mcyc : Word
  corr : BitVec 32
deriving DecidableEq, Repr

/-- A response on its way to a core, with the delay account it counts in (R159). -/
structure Response where
  account : Nat
  line : Option Nat
deriving DecidableEq, Repr

/-- A reservation of a core (R313, R317): the store, the entry's launch, and the logarithm of the gang size that it is for; none: for any unit
of the entry. -/
structure Reserve where
  store : Nat
  ctx : CtxId
  lid : Lid
  size : Option Nat
deriving DecidableEq, Repr

/-- A core: everything R11 gives it. -/
structure Core where
  id : Nat
  /-- The scalar core's PC: the user task's, or the service task's while one runs. -/
  pc : Word
  /-- The PC of the instruction that produced `pc` (R164); the entry at task start. -/
  srcPc : Word
  bank : Bank
  /-- The current window w0 to w15, its link, its w16 to w23, and the resident windows below it, newest first (R50, R56). -/
  win : Frame
  out : Vector Word 8
  below : List Frame
  g : Vector Word 8
  v : Vector VReg 32
  p : Vector Word 8
  wstack : BitVec 24
  wlimit : BitVec 24
  wdepth : BitVec 16
  svc : SvcBank
  coal : CoalBank
  task : Option Task
  /-- The activation counter (R63), not wrapped: how many tasks have started; the next one's ACTID is this mod 2^32. -/
  nextAct : Nat
  loop : LoopState
  /-- The loop buffer's body bank: words fetched during the first iteration (R189). -/
  loopBuf : List (Word × BitVec 96)
  /-- Bytes that the misaligned load at the PC has read already (R208), by key. -/
  early : List (Nat × Byte)
  /-- Code words fetched ahead (R165), by address. -/
  ibuf : List (Word × BitVec 32)
  stallBank : BitVec 32
  stallVector : BitVec 16
  stallMatrix : BitVec 16
  stallCopy : BitVec 16
  stallRake : BitVec 16
  /-- The stochastic-rounding generator (R113). -/
  genS : Word
  /-- The wait the running task stands in, if any (R22). -/
  blocked : Option Wait
  /-- A send whose header has left and whose tail has not (R254): the beats still to inject; empty when the tail has gone. -/
  sending : Option Bool
  /-- A TLBINV that has been issued (R282): its kind, context and address until it has completed, and then nothing. -/
  invalidating : Option (Option (InvKind × CtxId × Word))
  /-- A TKCMT that waits for its result word, and the result when it has come (R277); an error code with its address. -/
  watchResult : Option (Option (Except (FCode × Word) Word))
  /-- The result word of a TKCMT whose trap waits until the run queue has room for its service task (R25, R322). -/
  trapDue : Option Word
  /-- Members of the gang that have executed the present GBAR wait here. -/
  atBarrier : Bool
  /-- The service entries of the run queue (R25), oldest first. -/
  svcq : List SvcReq
  /-- The user-class entries of the run queue, oldest first. -/
  runq : List RunEntry
  /-- The deque (R34), bottom first. -/
  deque : List TaskInfo
  /-- Vector commands issued and not yet taken (R124), oldest first, and how many have been issued. -/
  vq : List VecCmd
  vecIssued : Nat
  mq : List MatrixCmd
  mrun : Option MatrixCmd
  /-- The cluster cycle at which the running matrix operation started, from which a cut counts its STEP and OPCYC (R329). -/
  mstart : Word
  cq : List Copy
  flight : List Copy
  kq : List RakeCmd
  sweep : Option Sweep
  clamps : Vector Clamp 4
  rings : Vector RingEntry 16
  /-- The launch whose declaration stands in each ring entry, and the launches that have declared their rings here (R133). -/
  ringOwners : Vector (Option (CtxId × Lid)) 16
  ringDecls : List (CtxId × Lid)
  routes : List Route
  routeDrops : BitVec 16
  pins : Vector (Option Pin) 8
  /-- The messages in each input channel, oldest first: a second one enters once the first one's tail has (R30). -/
  chans : Vector (List Channel) 8
  /-- The message counter (R28). -/
  nextMsg : BitVec 20
  /-- The accumulator store (R87): entries that are not zero, by row * 256 + column, rising. -/
  acc : List (Nat × BitVec 32)
  latch : Option Latch
  /-- The store and the latch are an earlier context's still, and are cleared before the running task's first matrix command (R87, R258). -/
  accStale : Bool
  storeBuf : List PendStore
  l1 : List Line
  tlb : List Tlb
  responses : List Response
  /-- The delay accounts (R158): COUNT and SUM, sparse by number. -/
  dly : List (Nat × BitVec 64 × BitVec 64)
  mcb : McBlock
  /-- The owner context (R75), and the context of the last task (R87). -/
  owner : Option CtxId
  lastCtx : Option CtxId
  /-- A new owner's first task waits for the clearing of local memory (R311). -/
  clearing : Bool
  /-- HALT or a machine check has halted the core (R287, R326). -/
  halted : Bool
  /-- IDLE put the core to sleep with its steal wait skipped (R279). -/
  idling : Bool
  /-- A debug stop was asked for, or is in force (R380). -/
  debugStop : Bool
  debugStopped : Bool
  /-- ENTRY and ACTID of the activation that ended last (R380). -/
  lastEntry : BitVec 56
  lastAct : BitVec 32
  /-- The task stands stopped at a cut's first stage, having acknowledged this STEPNO (R327). -/
  cutAck : Option (BitVec 32)
  /-- The collector released the task to run on to this STEPNO. -/
  cutGoal : Option (BitVec 32)
  /-- The entry that holds the core reserved (R313, R317). -/
  reserved : Option Reserve
deriving DecidableEq, Repr

/-- A wake in progress (R352): who asked, the arrival word and its scope. -/
structure WakeReq where
  ctx : CtxId
  /-- The launch that asked, whose own reservations are no hindrance (R354); none for a migration. -/
  lid : Option Lid
  word : Option (Nat × BitVec 24)
  scope : Scope
  cls : WakeClass
  /-- The core that issued the KINDLE, whose increments are releases (R276). -/
  issuer : Option Nat
deriving DecidableEq, Repr

/-- The states of a blaze cluster (R350). -/
inductive PState where
  | run | idle | smoored | cold
deriving DecidableEq, Repr

/-- A cluster: clock, power word, switch matrix entry, trace control word, temperature. -/
structure Cluster where
  cycle : Word
  pstate : PState
  khold : Bool
  kclass : BitVec 2
  kctx : Option CtxId
  moving : Bool
  /-- The state a transition in progress leads to. -/
  target : Option PState
  waking : Option WakeReq
  rail : Rail
  pend : Bool
  newRail : BitVec 2
  /-- The clock is gated by a rail switch (R146). -/
  gated : Bool
  vcode : BitVec 10
  fstep : BitVec 8
  gen : Bool
  locking : Bool
  /-- The step the idle generator locks to (R361). -/
  lockStep : BitVec 8
  /-- The step PWRREQ asked for (R285), and what the limiters and the heat leave of it (R320, R359). -/
  request : BitVec 8
  limiter : BitVec 8
  thermal : BitVec 8
  /-- Throttle stretch is on (R359), and a droop stretches the next cycle (R360). -/
  stretch : Bool
  droop : Bool
  temp : Nat
  sintv : BitVec 32
  caplen : BitVec 16
  buf : BitVec 8
  arm : Bool
  capt : Bool
  en : BitVec 6
deriving DecidableEq, Repr

/-- A parameter window binding (R135). -/
structure Binding where
  base : Word
  size : BitVec 32
  bound : Bool
deriving DecidableEq, Repr

/-- What a launch packet says of one (sub-)launch (R307). -/
structure SubLaunch where
  entry : BitVec 56
  arg : Word
  astep : BitVec 16
  windows : Vector Binding 8
  globals : Vector Word 8
  rings : List (BitVec 128)
  wsbase : BitVec 24
  wsend : BitVec 24
  units : Nat
  dlen : Nat
  wdog : BitVec 33
  gang : Nat
  /-- Units placed so far. -/
  placed : Nat
deriving DecidableEq, Repr

/-- The mark of the intensity classifier (R314). -/
inductive Mark where
  | none | compute | memory | mixed
deriving DecidableEq, Repr

/-- A live launch (R46): a retired one is no longer listed. -/
structure Launch where
  ctx : CtxId
  lid : Lid
  subs : List SubLaunch
  /-- The completion counter (R155). -/
  count : Nat
  /-- The first fault has been recorded (R129), and the retirement status it brings. -/
  faulted : Option FCode
  cancelled : Bool
  /-- The queue whose chain began the launch: its PRIO applies (R273), and the job it belongs to. -/
  queue : BitVec 4
  prio : BitVec 6
  /-- The journal entry of the packet that made it, if one did. -/
  jseq : Option Word
  /-- The graph that issued it. -/
  graph : Option (BitVec 32)
  phase : Option (BitVec 32)
  privileged : Bool
  /-- The store and, for TARGET 0 to 4, the die it was made for. -/
  store : Nat
  target : BitVec 3
  /-- The effective priority when its last unit was placed (R310), and the order in which it was placed. -/
  placedPrio : Nat
  placedAt : Nat
  resumedLately : Bool
  /-- Clusters to which a hot-spot move took work of the launch, with the temperature readings until it may move again (R320). -/
  moved : List (Nat × Nat)
  ops : Nat
  bytes : Nat
  mark : Mark
deriving DecidableEq, Repr

/-- The image of one launch's stopped work on one core (R328, R358): the core as it stood and its local memory. -/
structure Image where
  ctx : CtxId
  lid : Lid
  /-- The header of its matrix save image (R329), and the address of that image in device memory (log 21). -/
  header : BitVec 512
  place : Word
  snap : Core
  /-- Where its core's local memory lies in the image, as a key of device memory (R358; log 21). -/
  lm : Nat
  msgs : List (Chan × Channel)
  /-- The core has passed to another owner since: its local memory was cleared (R311). -/
  away : Bool
deriving DecidableEq, Repr

/-- A pending-launch entry (R127): a launch with unplaced units, or a running graph. -/
structure Pend where
  ctx : CtxId
  ident : BitVec 32
  isGraph : Bool
  prio : BitVec 6
  /-- Whole milliseconds since the entry was made (R310), and its order of making. -/
  age : Nat
  serial : Nat
  started : Bool
  /-- It has stood at the head for 4 ms and holds a reservation (R313). -/
  reserving : Bool
  /-- Units saved by a cut, to resume ahead of unplaced ones. -/
  saved : List Image
  /-- The free cores that it does not hold, as its last pass left them: a core that becomes free later is one of the next (R313). -/
  idle : List Nat
deriving DecidableEq, Repr

/-- A running graph (R39, R143). -/
structure Graph where
  ctx : CtxId
  gid : BitVec 32
  base : Word
  nodes : Nat
  walker : Nat
  node : Nat
  counts : List (Nat × Nat)
  /-- The node it has taken and not yet finished, as read when it took it, and of a LAUNCH node the sub-launches (R143). -/
  held : Option (BitVec 256)
  parsed : Option (List SubLaunch)
  /-- Launches it issued that have not retired (R46). -/
  count : Nat
  /-- The STATUS of the first launch it issued that has faulted. -/
  faultSeen : Option (BitVec 16)
  /-- It has ended: the STATE and STATUS its journal entry ends with (R131, R325). -/
  ended : Option (BitVec 2 × BitVec 16)
  queue : BitVec 4
  prio : BitVec 6
  jseq : Option Word
  phase : Option (BitVec 32)
  privileged : Bool
  cancelled : Bool
deriving DecidableEq, Repr

/-- A phase (R46, R309). -/
structure Phase where
  num : BitVec 32
  queue : BitVec 4
  count : Nat
  closed : Bool
deriving DecidableEq, Repr

/-- A context command queue (R126). -/
structure CmdQueue where
  q : BitVec 4
  base : BitVec 48
  wridx : BitVec 32
  rdidx : BitVec 32
  prio : BitVec 6
  lsize : BitVec 5
  barred : Bool
  closed : Bool
  /-- The job has retired by CANCEL: no further packet is parsed (log 28). -/
  cancelled : Bool
  errstat : BitVec 16
  /-- The queue carries firmware's own launches (R175). -/
  firmware : Bool
  /-- When a packet of the queue was served last, in the order of serving (R306). -/
  served : Nat
  phase : Option (BitVec 32)
  /-- The store for which the packet at its head is held, while that store is full (R127). -/
  heldFor : Option Nat
  /-- The job's completion counter (R46). -/
  count : Nat
deriving DecidableEq, Repr

/-- A context: the fields firmware sets, and what the device keeps for it. -/
structure Ctx where
  id : CtxId
  root : BitVec 48
  wakeGrant : Bool
  /-- Base of the watch table, 0 for none (R398). -/
  watch : BitVec 56
  guilt : BitVec 8
  guiltLimit : BitVec 8
  faultBase : BitVec 48
  faultLsize : BitVec 4
  faultDrop : BitVec 16
  faultWr : BitVec 16
  faultRd : BitVec 16
  /-- How many launch and graph identifiers the context has issued; the next identifier is this mod 2^32 (R274). -/
  nextLid : Nat
  nextGid : Nat
  /-- The numbers of the phases opened so far. -/
  phaseLog : List (BitVec 32)
  queues : List CmdQueue
  phases : List Phase
  /-- The island its latest migration moved it to (R356): true is ember. -/
  lives : Option Bool
  /-- A migration asked for and not yet done: true is to ember. -/
  migrating : Option Bool
deriving DecidableEq, Repr

/-- A message in the network (R28, R30): who sent it, where it goes, the beats still to deliver. -/
structure NetMsg where
  hdr : MsgHdr
  dest : Nat
  ctx : CtxId
  beats : List VReg
  /-- The channel it entered, once its header has arrived. -/
  chan : Option Chan
  /-- The header found its tag unbound, or a clamp discards it: beats vanish (R29). -/
  dropped : Bool
deriving DecidableEq, Repr

/-- A link (R16 to R18, R128, R364, R365). -/
structure Link where
  good : BitVec 16
  inService : Bool
  toward : BitVec 5
  turns : List (BitVec 5)
  /-- Groups turning, dead until TURN_DEAD_TIME_END: the target. -/
  dead : Option (BitVec 5)
  /-- The context firmware leases the link to, and the context and phase holding it. -/
  lease : Option CtxId
  holder : Option (CtxId × BitVec 4)
deriving DecidableEq, Repr

/-- A directory entry (R145). -/
structure DirEntry where
  line : Nat
  /-- 1 shared, 2 exclusive, 3 extended, 4 broadcast. -/
  st : BitVec 3
  ptrs : List Nat
  list : BitVec 13
deriving DecidableEq, Repr

/-- A request to a die's directory (R86). -/
structure DirReq where
  core : Nat
  line : Nat
  exclusive : Bool
  /-- Its overflow task has been raised (R86). -/
  raised : Bool
deriving DecidableEq, Repr

/-- A translation walk in progress (R93). -/
structure Walk where
  core : Nat
  ctx : CtxId
  va : Word
  discarded : Bool
deriving DecidableEq, Repr

/-- Whose access waits for a fetch of a cold page (R95), with the address it faults with if the fetch fails. -/
inductive Waiter where
  /-- The task of a core, by its ACTID, or the service task it runs: with the PC and the unit of the instruction. -/
  | core (k : Nat) (act : BitVec 32) (svc : Bool) (u : UnitCode) (pc addr : Word)
  /-- An engine command, of a copy in flight the beat that waits, or a coal handler for its sweep. -/
  | engine (u : UnitCode) (rcd : OpRec) (beat : Option Nat) (addr : Word)
  /-- A command queue held at its packet (R308, R309). -/
  | queue (ctx : CtxId) (q : BitVec 4) (addr : Word)
  /-- A SIGNAL accepted with AFTER = 1, by its journal entry. -/
  | signal (ctx : CtxId) (seq : Word) (addr : Word)
  /-- A running graph. -/
  | graph (ctx : CtxId) (gid : BitVec 32) (addr : Word)
  /-- The request that the watch unit serves. -/
  | watch (addr : Word)
deriving DecidableEq, Repr

/-- A fetch of a cold page (R95), or a page-out (R139): the leaf's place, the context, the page, and for a fetch who waits for it. -/
structure PageMove where
  out : Bool
  /-- The command identifier of its submission entry, once it is outstanding (R369). -/
  cid : Option (BitVec 16)
  /-- The page frame that its data pointers name: PA[47:16]; a fetch's is chosen when it becomes outstanding. -/
  frame : BitVec 32
  ctx : CtxId
  va : Word
  at_ : Nat
  lba : BitVec 52
  waiters : List Waiter
deriving DecidableEq, Repr

/-- A request to the token watch unit (R147). -/
inductive WatchReq where
  | commit (core : Nat) (ctx : CtxId) (row : Word) (toks : List (BitVec 24))
  | setEntry (core : Nat) (ctx : CtxId) (row : Word) (idx : Nat) (image : List Byte)
  | clear (core : Nat) (ctx : CtxId) (row : Word) (idx : Nat)
deriving DecidableEq, Repr

/-- A signal whose write waits for earlier work of its queue (R309). -/
structure Signal where
  ctx : CtxId
  q : BitVec 4
  addr : Word
  value : Word
  jseq : Word
  /-- RDIDX at its packet (R324). -/
  rdidx : BitVec 32
  lids : List (BitVec 32)
  gids : List (BitVec 32)
deriving DecidableEq, Repr

/-- A KINDLE whose clusters are not all chosen yet (R354). -/
structure Kindle where
  req : WakeReq
  left : Nat
deriving DecidableEq, Repr

/-- A consistent cut (R327, R328). -/
structure Cut where
  /-- The stop requests that share it (R357). -/
  works : List StopWork
  /-- 1: first stage; 2: second stage; 3: complete, its images held. -/
  stage : Nat
  launches : List (CtxId × Lid)
  /-- Cores whose tasks acknowledged, with their STEPNO. -/
  acks : List (Nat × BitVec 32)
  /-- The cycle of each cluster as the second stage froze it (R328). -/
  cycles : List (Nat × Word)
  images : List Image
  /-- Complete, and no cluster held or free: the migration engine has asked for clusters (R356). -/
  asked : Bool
  /-- The first 64 bytes of its context image (R358), once it is complete. -/
  header : BitVec 512
  /-- The cut serves a migration of this context (true: to ember). -/
  migrate : Option (CtxId × Bool)
  /-- The entries that pre-empt, with the launches each of them stops: they take the freed cores (R317). -/
  claims : List (Nat × CtxId × Lid × List (CtxId × Lid))
  /-- The hot clusters whose work it moves, each with the cooler one that the work goes to (R320). -/
  dests : List (Nat × Nat)
deriving DecidableEq, Repr

/-- A trace record on its way to a sample buffer (R374). -/
structure TraceRec where
  buf : BitVec 8
  words : List Word
deriving DecidableEq, Repr

/-- A sample buffer descriptor (R378). -/
structure SampleBuf where
  n : BitVec 8
  base : BitVec 48
  size : BitVec 32
  lostn : BitVec 32
  rd : BitVec 32
  wr : BitVec 32
deriving DecidableEq, Repr

/-- The command journal (R131, R132). -/
structure Journal where
  base : BitVec 48
  entries : Nat
  nextSeq : Word
  /-- Sequence numbers of the command entries in state accepted or started, with their contexts and queues. -/
  live : List (Word × CtxId × BitVec 4)
  /-- Event entries waiting for their slot: CTX and STATUS. -/
  events : List (CtxId × BitVec 16)
deriving DecidableEq, Repr

/-- The cold-page engine's grant (R369): the queue pair in host memory, the doorbell's address, the namespace, and where the engine
stands in the two queues. -/
structure Nvme where
  depth : Nat
  block : Nat
  sq : BitVec 48
  cq : BitVec 48
  doorbell : BitVec 48
  ns : BitVec 32
  tail : Nat
  head : Nat
  nextCid : BitVec 16
  /-- The phase that the next completion entry bears: it changes where the queue starts again (log 54). -/
  phase : Bool
  /-- The last value written to the doorbell. -/
  rang : BitVec 32
deriving DecidableEq, Repr

/-- The hub's own units: the complexes, the aperture, the wake logic, power and paging. -/
structure Hub where
  cycle : Word
  journal : Journal
  /-- Complex A is active (R370). -/
  activeA : Bool
  apertureUp : Bool
  wakeLatch : Option Word
  wakeQueue : List Word
  wakeLost : BitVec 16
  /-- The wake register, aperture register 1,023 (R362). -/
  wakeReg : Word
  aperture : List (BitVec 10 × Word)
  apertureGrants : List (BitVec 10 × CtxId)
  emberGrants : List (BitVec 9 × CtxId)
  watchQueue : List WatchReq
  signals : List Signal
  kindles : List Kindle
  /-- Clusters waiting for a boost step, in the order of their requests (R285). -/
  boostWait : List Nat
  ceiling : BitVec 8
  railLimit : List (Rail × Nat)
  railCalm : List (Rail × Nat)
  railParts : Vector (BitVec 4) 4
  dramHeld : Bool
  /-- The channels in self-refresh are those of a sleeping package; these are awake on demand (R353). -/
  awake : List Nat
  /-- The channels that an ember access has asked out of self-refresh (R353). -/
  wanted : List Nat
  packageOff : Bool
  smhold : Nat
  coldhold : Nat
  /-- The cold-page engine: its grant, and the fetches and page-outs asked for, in their order of issue (R369). -/
  nvme : Option Nvme
  moves : List PageMove
  hostRanges : List (BitVec 48 × BitVec 48)
  hostRefused : BitVec 32
  /-- The bytes the last host access read. -/
  hostRead : List Byte
  hostPoison : Bool
  measurement : BitVec 512
  measureLog : List (BitVec 512)
  attest : Option (BitVec 26472)
  corrected : BitVec 32
deriving DecidableEq, Repr

/-- Who acts next. -/
inductive Happening where
  /-- Core k's scalar core takes one turn. -/
  | turn (k : Nat)
  /-- Core k reads ahead one byte of the misaligned load at its PC (R208), by its key. -/
  | early (k : Nat) (key : Nat)
  /-- Core k's vector engine performs the next command of its queue (R124). -/
  | vecTurn (k : Nat)
  /-- Core k's rake runs one instruction of its coal handler. -/
  | rakeTurn (k : Nat)
  /-- Core k fetches the code word at an address ahead of use (R165). -/
  | prefetch (k : Nat) (a : Word)
  /-- A device event. -/
  | happen (e : Event)
deriving DecidableEq, Repr

/-- The machine. -/
structure State where
  core : Core
  rest : List (Nat × Core)
  clusters : List (Nat × Cluster)
  /-- Memory: one list of (key, byte) pairs for LPDDR-6, host memory, ember SRAM and every core's local memory (Ops.lean
  gives the keys), strictly rising, no entry zero. -/
  mem : List Host.Cell
  ctxs : List Ctx
  launches : List Launch
  graphs : List Graph
  /-- The pending-launch stores of dies 0 to 3 and of the hub (R127), and their refusal counters (R161). -/
  stores : Vector (List Pend) 5
  refusals : Vector (BitVec 32) 5
  network : List NetMsg
  links : Vector Link 8
  /-- The directories and request queues of the four compute dies (R86, R145). -/
  dirs : Vector (List DirEntry) 4
  dirReqs : Vector (List DirReq) 4
  /-- The die translation caches and the hub's (R93), and the walks in progress. -/
  caches : Vector (List Tlb) 5
  walks : List Walk
  cuts : List Cut
  traceQ : List TraceRec
  buffers : List SampleBuf
  hub : Hub
  fuses : Fuses
  lgfail : BitVec 8
  /-- The flash copy of paged-out pages, by byte address LBA * block size + i: the NVMe device's, not the Gwynrus's. -/
  flash : List Host.Cell
  /-- The order of making of pending entries and placements. -/
  serial : Nat
  /-- The counter the free values are drawn with. The model's own field, not the spec's. -/
  free : Nat
  /-- Who acts next; when empty, the policy of Step.lean. The model's own field, not the spec's. -/
  agenda : List Happening
  /-- The event that happens now, with what it is told. The model's own field, not the spec's. -/
  now : Option Event
deriving DecidableEq, Repr

/-! ### Reset -/

/-- A window of zeros. -/
def Frame.zero : Frame := ⟨Vector.replicate 16 0, 0⟩
/-- Predicates at task start: p0 all ones, the others zero (R21, R50). -/
def predsZero : Vector Word 8 := #v[BitVec.allOnes 64, 0, 0, 0, 0, 0, 0, 0]
/-- A ring table entry at reset (R133). -/
def RingEntry.zero : RingEntry := ⟨0, 0, 0, false, 0, 0, 0, 0⟩

/-- A clamp declaration record at reset (R144). -/
def Clamp.zero : Clamp := ⟨0, 0, 0, 0, 0, 0, 0, 0, false, false, false, 0, 0⟩

/-- Core k at reset: no task, every queue empty, every register zero but p0 (log 2 names those the spec gives no value). -/
def Core.reset (k : Nat) : Core where
  id := k
  pc := 0
  srcPc := 0
  bank := .user
  win := Frame.zero
  out := Vector.replicate 8 0
  below := []
  g := Vector.replicate 8 0
  v := Vector.replicate 32 0
  p := predsZero
  wstack := 0
  wlimit := 0
  wdepth := 0
  svc := ⟨Vector.replicate 24 0, 0, Vector.replicate 8 0, predsZero, 0, 0, 0, none, 0, 0, none, false⟩
  coal := ⟨Vector.replicate 32 0, 0, 0, 0⟩
  task := none
  nextAct := 0
  loop := ⟨0, 0, 0, false⟩
  loopBuf := []
  early := []
  ibuf := []
  stallBank := 0
  stallVector := 0
  stallMatrix := 0
  stallCopy := 0
  stallRake := 0
  genS := 0
  blocked := none
  sending := none
  invalidating := none
  watchResult := none
  trapDue := none
  atBarrier := false
  svcq := []
  runq := []
  deque := []
  vq := []
  vecIssued := 0
  mq := []
  mrun := none
  mstart := 0
  cq := []
  flight := []
  kq := []
  sweep := none
  clamps := Vector.replicate 4 Clamp.zero
  rings := Vector.replicate 16 RingEntry.zero
  ringOwners := Vector.replicate 16 none
  ringDecls := []
  routes := []
  routeDrops := 0
  pins := Vector.replicate 8 none
  chans := Vector.replicate 8 []
  nextMsg := 0
  acc := []
  latch := none
  accStale := false
  storeBuf := []
  l1 := []
  tlb := []
  responses := []
  dly := []
  mcb := ⟨false, 0, 0, 0, 0, 0, 0, 0⟩
  owner := none
  lastCtx := none
  clearing := false
  halted := false
  idling := false
  debugStop := false
  debugStopped := false
  lastEntry := 0
  lastAct := 0
  cutAck := none
  cutGoal := none
  reserved := none

/-- The bin's nominal step (R400). -/
def nominalStep (f : Fuses) : BitVec 8 := if f.bin = 0 then 60 else if f.bin = 1 then 56 else 52

/-- Cluster c at reset (R65, R146, R350, R400): a blaze cluster is COLD on rail c div 32; the ember cluster runs on rail E. -/
def Cluster.reset (f : Fuses) (c : Nat) : Cluster where
  cycle := 0
  pstate := if c = 128 then .run else .cold
  khold := false
  kclass := 0
  kctx := none
  moving := false
  target := none
  waking := none
  rail := if c = 128 then .e else if c < 32 then .a else if c < 64 then .b else if c < 96 then .c else .d
  pend := false
  newRail := 0
  gated := false
  vcode := if c = 128 then 469 else f.railMv
  fstep := if c = 128 then 8 else nominalStep f
  gen := false
  locking := false
  lockStep := if c = 128 then 8 else nominalStep f
  request := if c = 128 then 8 else nominalStep f
  limiter := 255
  thermal := 255
  stretch := false
  droop := false
  temp := 0
  sintv := 0
  caplen := 0
  buf := 0
  arm := false
  capt := false
  en := 0

/-- The number of set bits among the low n. -/
def popBelow (n : Nat) (x : Nat) : Nat :=
  match n with
  | 0 => 0
  | k + 1 => popBelow k x + (if x.testBit k then 1 else 0)

/-- Link l at reset (R16): the larger half runs towards the compute die or the lower-numbered die. -/
def Link.reset (f : Fuses) (l : Nat) : Link :=
  let good := f.goodg.extractLsb' (16 * l) 16
  let n := popBelow 16 good.toNat
  { good := good, inService := decide (2 ≤ n), toward := BitVec.ofNat 5 ((n + 1) / 2), turns := [], dead := none,
    lease := none, holder := none }

/-- The fuses of a full part of bin 0 (log 3). -/
def fullPart : Fuses := ⟨BitVec.allOnes 128, 0, BitVec.allOnes 128, 650, none, [0]⟩

/-- M := SHAKE256(M ‖ m) (R372), each 64 bytes with byte 0 first. -/
def extendMeasure (M m : BitVec 512) : BitVec 512 :=
  shake256 (((List.range 64).map fun i => M.extractLsb' (8 * i) 8) ++ (List.range 64).map fun i => m.extractLsb' (8 * i) 8)

/-- The hub at reset. -/
def Hub.reset (f : Fuses) : Hub where
  cycle := 0
  journal := ⟨0, 0, 1, [], match f.ucieFailed with | none => [] | some m => [(0, 0x0100 ||| m.zeroExtend 16)]⟩
  activeA := true
  apertureUp := true
  wakeLatch := none
  wakeQueue := []
  wakeLost := 0
  wakeReg := 0
  aperture := []
  apertureGrants := []
  emberGrants := []
  watchQueue := []
  signals := []
  kindles := []
  boostWait := []
  ceiling := 255
  railLimit := []
  railCalm := []
  railParts := Vector.replicate 4 0xF
  dramHeld := false
  awake := []
  wanted := []
  packageOff := false
  smhold := 2000
  coldhold := 10000000
  nvme := none
  moves := []
  hostRanges := []
  hostRefused := 0
  hostRead := []
  hostPoison := false
  measurement := f.stages.foldl extendMeasure 0
  measureLog := f.stages
  attest := none
  corrected := 0

/-- Lane groups lost over all links (R19). -/
def lostGroups (f : Fuses) : Nat := 128 - popBelow 128 f.goodg.toNat

/-- The machine of a part with these fuses, right after reset; flash and host memory are not the part's. -/
def State.boot (f : Fuses) : State where
  core := Core.reset 0
  rest := []
  clusters := []
  mem := []
  ctxs := []
  launches := []
  graphs := []
  stores := Vector.replicate 5 []
  refusals := Vector.replicate 5 0
  network := []
  links := Vector.ofFn fun l => Link.reset f l.val
  dirs := Vector.replicate 4 []
  dirReqs := Vector.replicate 4 []
  caches := Vector.replicate 5 []
  walks := []
  cuts := []
  traceQ := []
  buffers := []
  hub := Hub.reset f
  fuses := f
  lgfail := BitVec.ofNat 8 (lostGroups f)
  flash := []
  serial := 0
  free := 0
  agenda := []
  now := none

/-- The machine right after reset. -/
def State.reset : State := State.boot fullPart

end Sys2Proof.Machine
end

