-- ==== Sys2Proof/Machine/Bits.lean ====
section
/-!
DEFINITION. Sys2Proof/Machine/Bits.lean: bit fields, byte order and the exact integer helpers of R6 (sext, zext, sat), with no
state in them.
-/
namespace Sys2Proof.Machine

/-- bits(x, hi, lo) of a number: `w` bits from bit `lo` up (R6). -/
def field (x lo w : Nat) : Nat := x / 2 ^ lo % 2 ^ w

/-- The number a list of bytes holds, byte 0 least significant (R4). -/
def ofBytes : List Byte → Nat
  | [] => 0
  | b :: r => b.toNat + 256 * ofBytes r

/-- The `n` bytes of a number, byte 0 least significant (R4). -/
def toBytes : Nat → Nat → List Byte
  | 0, _ => []
  | n + 1, x => BitVec.ofNat 8 x :: toBytes n (x / 256)

/-- x clamped to lo..hi (R6 sat). -/
def clampInt (lo hi x : Int) : Int := if x < lo then lo else if hi < x then hi else x

/-- The integer an n-bit pattern holds as two's complement. -/
def signedOf (n x : Nat) : Int := if x < 2 ^ (n - 1) then (x : Int) else (x : Int) - 2 ^ n

/-- An integer mod 2^n. -/
def wrap (n : Nat) (x : Int) : Nat := (x % 2 ^ n).toNat

/-- The least multiple of `m` not below `x`. -/
def ceilDiv (x m : Nat) : Nat := (x + (m - 1)) / m

/-- A list of (number, value) pairs, looked up. -/
def assocGet {α : Type} : List (Nat × α) → Nat → Option α
  | [], _ => none
  | p :: r, k => if p.1 = k then some p.2 else assocGet r k

/-- A list of (number, value) pairs with the pair of `k` replaced, or appended. -/
def assocSet {α : Type} : List (Nat × α) → Nat → α → List (Nat × α)
  | [], k, x => [(k, x)]
  | p :: r, k, x => if p.1 = k then (k, x) :: r else p :: assocSet r k x

/-- A list without the pair of `k`. -/
def assocDel {α : Type} (l : List (Nat × α)) (k : Nat) : List (Nat × α) := l.filter fun p => p.1 != k

/-- Entry `i` of a list removed. -/
def dropAt {α : Type} (l : List α) (i : Nat) : List α := l.take i ++ l.drop (i + 1)

/-- Entry `i` of a list changed. -/
def modAt {α : Type} (l : List α) (i : Nat) (f : α → α) : List α := l.modify i f

/-- The saturating sum of a counter of `n` bits (R151). -/
def satAdd {n : Nat} (x : BitVec n) (k : Nat) : BitVec n := BitVec.ofNat n (min (x.toNat + k) (2 ^ n - 1))

/-! ### The lists of memory -/

/-- The byte a list of cells holds at a key; a key that is not listed reads 0 (log 4). -/
def memGet (m : List Host.Cell) (k : Nat) : Byte :=
  match m with
  | [] => 0
  | (a, b) :: r => if a = k then b else memGet r k

/-- A cell before the others of a list, unless it holds zero. -/
def putCell (k : Nat) (b : Byte) (m : List Host.Cell) : List Host.Cell := if b = 0 then m else (k, b) :: m

/-- A list of cells with one byte written, kept strictly rising and without a zero entry. -/
def memSet (m : List Host.Cell) (k : Nat) (b : Byte) : List Host.Cell :=
  match m with
  | [] => putCell k b []
  | c :: r => if k < c.1 then putCell k b (c :: r) else if k = c.1 then putCell k b r else c :: memSet r k b

/-- Several bytes written, in order. -/
def memSetAll (m : List Host.Cell) (l : List (Nat × Byte)) : List Host.Cell :=
  l.foldl (fun acc p => memSet acc p.1 p.2) m

/-- The canonical form of a list of cells: strictly rising keys, no zero byte. -/
def Memory.wf : List Host.Cell → Bool
  | [] => true
  | [(_, b)] => b != 0
  | (a, b) :: (c, d) :: r => b != 0 && decide (a < c) && Memory.wf ((c, d) :: r)

/-- `n` bytes from a key up, as a number (little-endian, R4). -/
def memRead (m : List Host.Cell) (k n : Nat) : Nat := ofBytes ((List.range n).map fun i => memGet m (k + i))

/-- A number written to `n` bytes from a key up. -/
def memWrite (m : List Host.Cell) (k n x : Nat) : List Host.Cell :=
  memSetAll m ((List.range n).zip (toBytes n x) |>.map fun p => (k + p.1, p.2))

/-- Every byte of a range of keys zeroed. -/
def memClear (m : List Host.Cell) (lo hi : Nat) : List Host.Cell := m.filter fun p => decide (p.1 < lo) || decide (hi ≤ p.1)

end Sys2Proof.Machine
end

