-- ==== Sys2Proof/Machine/Units.lean ====
section
/-!
DEFINITION. Sys2Proof/Machine/Units.lean: which unit is where (R9, R10, R18), the keys of memory, reading and writing cores, clusters,
contexts, launches and graphs, the codes of faults and units, and what an operation may end in.
-/
namespace Sys2Proof.Machine

/-! ### Numbering (R9) -/

/-- The cluster of core k. -/
def clusterOf (k : Nat) : Nat := k / 8
/-- The rank of core k. -/
def rankOf (k : Nat) : Nat := k % 8
/-- The die of cluster c: 4 is the hub. -/
def dieOfCluster (c : Nat) : Nat := if c = 128 then 4 else c / 32
/-- The die of core k. -/
def dieOf (k : Nat) : Nat := dieOfCluster (clusterOf k)
/-- Whether core k is an ember core. -/
def isEmber (k : Nat) : Bool := clusterOf k == 128

/-! ### Keys of memory: a physical address is its own key; ember SRAM and local memories follow (log 4) -/

/-- The key of a byte of ember SRAM. -/
def emberKey (off : Nat) : Nat := 2 ^ 48 + off
/-- The key of a byte of core k's local memory. -/
def localKey (k off : Nat) : Nat := 2 ^ 49 + k * 2 ^ 19 + off

/-! ### Cores and clusters -/

/-- Core k, which bears its own number. -/
def getCore (s : State) (k : Nat) : Core :=
  if s.core.id = k then s.core else { (assocGet s.rest k).getD (Core.reset k) with id := k }
/-- The state with a core replaced, by its own number. -/
def setCore (s : State) (c : Core) : State :=
  if s.core.id = c.id then { s with core := c } else { s with rest := assocSet s.rest c.id c }
/-- The state with core k changed; it keeps its number. -/
def modCore (s : State) (k : Nat) (f : Core → Core) : State := setCore s { f (getCore s k) with id := k }
/-- The state with the focus core changed. -/
def onCore (s : State) (f : Core → Core) : State := { s with core := f s.core }
/-- The state with every listed core changed. -/
def mapCores (s : State) (f : Core → Core) : State :=
  { s with core := f s.core, rest := s.rest.map fun p => (p.1, f p.2) }
/-- Every listed core. -/
def allCores (s : State) : List Core := s.core :: s.rest.map Prod.snd
/-- The state with core k in focus. -/
def focus (s : State) (k : Nat) : State :=
  if s.core.id = k then s
  else { s with core := getCore s k, rest := assocSet (assocDel s.rest k) s.core.id s.core }

/-- Cluster c. -/
def getCluster (s : State) (c : Nat) : Cluster := (assocGet s.clusters c).getD (Cluster.reset s.fuses c)
/-- The state with cluster c replaced. -/
def setCluster (s : State) (c : Nat) (x : Cluster) : State := { s with clusters := assocSet s.clusters c x }
/-- The state with cluster c changed. -/
def modCluster (s : State) (c : Nat) (f : Cluster → Cluster) : State := setCluster s c (f (getCluster s c))
/-- Whether cluster c exists and is not fused off (R9, R366). -/
def enabled (s : State) (c : Nat) : Bool := c == 128 || (decide (c < 128) && s.fuses.clusEn.getLsbD c)
/-- Whether core k exists and lies in an enabled cluster. -/
def coreEnabled (s : State) (k : Nat) : Bool := enabled s (clusterOf k)
/-- The number of enabled blaze clusters: CLUSON (R19). -/
def enabledCount (s : State) : Nat := popBelow 128 s.fuses.clusEn.toNat

/-! ### Links and routes (R10, R18) -/

/-- The good lane groups of a link. -/
def Link.count (l : Link) : Nat := popBelow 16 l.good.toNat
/-- Whether link l is in service. -/
def linkUp (s : State) (l : Nat) : Bool := match s.links[l]? with | some x => x.inService | none => false
/-- The two ends of link l: an H-link's are a compute die and the hub (4), a C-link's a die and the next one. -/
def linkEnds (l : Nat) : Nat × Nat := if l < 4 then (l, 4) else (l - 4, (l - 3) % 4)
/-- The dies next to some dies, over the links in service, added to them. -/
def spread (s : State) (d : List Nat) : List Nat :=
  (List.range 8).foldl (fun acc l =>
    let e := linkEnds l
    if !(linkUp s l) then acc else if acc.contains e.1 then e.2 :: acc else if acc.contains e.2 then e.1 :: acc else acc) d
/-- Whether a route remains between two dies (R18). -/
def reaches (s : State) (a b : Nat) : Bool := a == b || (spread s (spread s (spread s (spread s [a])))).contains b

/-! ### Contexts, launches, graphs -/

/-- The context of a number, if firmware has created it. -/
def getCtx (s : State) (id : CtxId) : Option Ctx := s.ctxs.find? fun c => c.id == id
/-- The state with a context changed. -/
def modCtx (s : State) (id : CtxId) (f : Ctx → Ctx) : State :=
  { s with ctxs := s.ctxs.map fun c => if c.id = id then f c else c }
/-- A command queue of a context. -/
def getQueue (s : State) (id : CtxId) (q : BitVec 4) : Option CmdQueue :=
  match getCtx s id with
  | some c => c.queues.find? fun x => x.q == q
  | none => none
/-- The state with a command queue changed. -/
def modQueue (s : State) (id : CtxId) (q : BitVec 4) (f : CmdQueue → CmdQueue) : State :=
  modCtx s id fun c => { c with queues := c.queues.map fun x => if x.q = q then f x else x }
/-- A live launch. -/
def getLaunch (s : State) (id : CtxId) (lid : Lid) : Option Launch :=
  s.launches.find? fun l => l.ctx == id && l.lid == lid
/-- The state with a launch changed. -/
def modLaunch (s : State) (id : CtxId) (lid : Lid) (f : Launch → Launch) : State :=
  { s with launches := s.launches.map fun l => if l.ctx = id ∧ l.lid = lid then f l else l }
/-- A live graph. -/
def getGraph (s : State) (id : CtxId) (gid : BitVec 32) : Option Graph :=
  s.graphs.find? fun g => g.ctx == id && g.gid == gid
/-- The state with a graph changed. -/
def modGraph (s : State) (id : CtxId) (gid : BitVec 32) (f : Graph → Graph) : State :=
  { s with graphs := s.graphs.map fun g => if g.ctx = id ∧ g.gid = gid then f g else g }
/-- A launch's completion counter raised by n (R155). -/
def countUp (s : State) (id : CtxId) (lid : Lid) (n : Nat) : State :=
  modLaunch s id lid fun l => { l with count := l.count + n }
/-- A launch's completion counter lowered by n (R155). -/
def countDown (s : State) (id : CtxId) (lid : Lid) (n : Nat) : State :=
  modLaunch s id lid fun l => { l with count := l.count - n }

/-- The context that the focus core's accesses belong to: the running task's, else its owner's. -/
def curCtx (s : State) : CtxId :=
  match s.core.task with
  | some t => t.info.ctx
  | none => s.core.owner.getD 0
/-- The launch the focus core's user task belongs to. -/
def curLid (s : State) : Lid :=
  match s.core.task with
  | some t => t.info.lid
  | none => 0
/-- The launch whose work runs on the focus core now: a coal handler's is its sweep's. -/
def curWork (s : State) : CtxId × Lid :=
  match s.core.bank, s.core.sweep with
  | .coal, some w => (w.rcd.ctx, w.rcd.lid)
  | _, _ => (curCtx s, curLid s)
/-- Operations counted for the intensity classifier (R314). -/
def countOps (s : State) (n : Nat) : State :=
  modLaunch s (curWork s).1 (curWork s).2 fun l => { l with ops := l.ops + n }
/-- LPDDR-6 bytes counted for the intensity classifier (R314; log 26). -/
def countBytes (s : State) (n : Nat) : State :=
  modLaunch s (curWork s).1 (curWork s).2 fun l => { l with bytes := l.bytes + n }
/-- Whether what runs on the focus core is privileged (R175): a service task, or a task of a launch issued for firmware. -/
def privileged (s : State) : Bool :=
  match s.core.bank with
  | .service => true
  | .user | .coal =>
    match s.core.task with
    | some t => t.privileged
    | none => false

/-- The running launch, if it is listed. -/
def curLaunch (s : State) : Option Launch := getLaunch s (curCtx s) (curLid s)
/-- n more things alive in the running launch (R155). -/
def charge (s : State) (n : Nat) : State := countUp s (curCtx s) (curLid s) n

/-! ### Codes -/

/-- The code of a fault (R323). -/
def FCode.code : FCode → BitVec 8
  | .illegalInsn => 0x01 | .illegalOperand => 0x02 | .align => 0x03 | .windowNone => 0x04 | .windowStraddle => 0x05
  | .lmAddr => 0x06 | .pageInvalid => 0x07 | .pagePerm => 0x08 | .paramUnbound => 0x09 | .ringMisuse => 0x0A
  | .blockFormat => 0x0B | .blockMix => 0x0C | .engineCmd => 0x0D | .hang => 0x0E | .dramAsleep => 0x0F
  | .stepMismatch => 0x10 | .machineCheck => 0x20
/-- The code of a unit (R324). -/
def UnitCode.code : UnitCode → BitVec 3
  | .scalar => 0 | .vector => 1 | .matrix => 2 | .copy => 3 | .rake => 4 | .walker => 5 | .collector => 6 | .complex => 7
/-- The code of a rail (R65). -/
def railCode : Rail → BitVec 3
  | .a => 0 | .b => 1 | .c => 2 | .d => 3 | .e => 4
/-- The blaze rail of a code (R146). -/
def railOf (x : BitVec 2) : Rail := if x = 0 then .a else if x = 1 then .b else if x = 2 then .c else .d
/-- The waits that count as stopped at a consistent cut (R327). -/
def Wait.stops : Wait → Bool
  | .arrival | .gang | .matrix | .copy | .rake | .ring | .engineQueue | .send | .coldPage => true
  | .storeBuffer | .stream | .watch | .tlbinv | .csync | .counter | .memory => false

/-! ### What one instruction or event may end in -/

/-- Why an operation does not complete: a launch fault with its address (R323), or a wait of R22. -/
inductive Stop where
  | fault (c : FCode) (addr : Word)
  | wait (w : Wait)
  /-- An access to a cold page: it waits, and the cold-page engine fetches the page (R95). -/
  | cold (m : PageMove)
  /-- An ember access to a channel in self-refresh: it waits until the channel is awake (R353). -/
  | asleep (ch : Nat)
  /-- One of these, after translations of the same access that succeeded: the state they left (R138). -/
  | after (s : State) (e : Stop)
deriving DecidableEq, Repr

/-- Why an operation stops, without what its translations left. -/
def Stop.bare : Stop → Stop
  | .after _ e => e.bare
  | .fault c a => .fault c a
  | .wait w => .wait w
  | .cold m => .cold m
  | .asleep ch => .asleep ch
/-- The state that an operation's translations left, `s` where none has succeeded. -/
def Stop.state (s : State) : Stop → State
  | .after t e => e.state t
  | .fault _ _ => s
  | .wait _ => s
  | .cold _ => s
  | .asleep _ => s

/-- The outcome of an operation. -/
abbrev Eff (α : Type) := Except Stop α
/-- An operation whose translations leave nothing where it stops. -/
def bareStop {α : Type} (r : Eff α) : Eff α :=
  match r with
  | .error e => .error e.bare
  | .ok x => .ok x
/-- What follows translations that have left the state `s`: they stay where it stops (R138). -/
def keeping {α : Type} (s : State) (r : Eff α) : Eff α :=
  match r with
  | .error e => .error (.after s e)
  | .ok x => .ok x

/-- A check that faults when it fails. -/
def need (ok : Bool) (c : FCode) (addr : Word) : Eff Unit := if ok then .ok () else .error (.fault c addr)
/-- A condition that is waited for. -/
def waitFor (ok : Bool) (w : Wait) : Eff Unit := if ok then .ok () else .error (.wait w)
/-- An issue waits while it would carry the launch's completion counter past 2^32 - 1 (R157). -/
def issueRoom (s : State) (n : Nat) : Eff Unit :=
  waitFor (match curLaunch s with | some l => decide (l.count + n < 2 ^ 32) | none => true) .counter

end Sys2Proof.Machine
end

