-- ==== Sys2Proof/Machine/Access.lean ====
section
/-!
DEFINITION. Sys2Proof/Machine/Access.lean: what an access to a generic address does: the windows and their checks (R69 to R75,
R89), translation (R93 to R95, R137, R138), the store buffer (R295), the L1 (R80 to R84) and the bytes a load returns.
-/
namespace Sys2Proof.Machine

/-- The three windows (R69). -/
inductive Win where
  | global | local | ember
deriving DecidableEq, Repr

/-- First address of the local window. -/
def localBase : Nat := 0xFF00000000000000
/-- First address of the ember SRAM window. -/
def emberBase : Nat := 0xFF01000000000000

/-- The window that holds a byte (R69). -/
def windowOf (a : Nat) : Option Win :=
  if a < 2 ^ 56 then some .global
  else if localBase ≤ a ∧ a < localBase + 2 ^ 24 then some .local
  else if emberBase ≤ a ∧ a < emberBase + 2 ^ 25 then some .ember
  else none

/-- WINDOW_NONE, WINDOW_STRADDLE and ALIGN, in that order (R69 to R72); `align` is 1 where no rule asks for alignment. -/
def checkWindow (a : Word) (n align : Nat) : Eff Win :=
  match windowOf a.toNat with
  | none => .error (.fault .windowNone a)
  | some w =>
    if windowOf (a.toNat + (n - 1)) ≠ some w then .error (.fault .windowStraddle a)
    else if a.toNat % align ≠ 0 then .error (.fault .align a)
    else .ok w

/-- Who makes an access: its context, the core it belongs to, and whether it is privileged. -/
structure Acc where
  ctx : CtxId
  core : Nat
  /-- An ember core or a hub unit (R94). -/
  ember : Bool
  priv : Bool
  /-- An engine or a hub unit: its translations are those of its die's or the hub's cache alone (R93). -/
  engine : Bool
deriving DecidableEq, Repr

/-- The accessor of what runs on the focus core; a coal handler's accesses are the rake's. -/
def coreAcc (s : State) : Acc := ⟨curCtx s, s.core.id, isEmber s.core.id, privileged s, s.core.bank == .coal⟩
/-- The accessor of an engine command. -/
def engineAcc (s : State) (o : OpRec) : Acc :=
  ⟨o.ctx, o.core, isEmber o.core, match getLaunch s o.ctx o.lid with | some l => l.privileged | none => false, true⟩

/-- Where a byte lies: its key, and whether its page is host-shared (R92). -/
structure Spot where
  key : Nat
  hs : Bool
deriving DecidableEq, Repr

/-! ### Physical memory (R90, R91) -/

/-- The frames that exist (R90). -/
def physOk (p : Nat) : Bool := decide (p < 0xC000000000) || (decide (2 ^ 47 ≤ p) && decide (p < 2 ^ 48))
/-- The die that homes a physical address; 5 is the host (R91, R293). -/
def homeDie (p : Nat) : Nat := if p < 0xC000000000 then p / 0x3000000000 else 5
/-- The LPDDR-6 channel of a physical address (R91). -/
def channelOf (p : Nat) : Nat := 24 * (p / 0x3000000000) + (p % 0x3000000000) / 4096 % 24
/-- Whether the package sleeps: every enabled blaze cluster SMOORED or COLD (R351). -/
def packageSleeps (s : State) : Bool :=
  (List.range 128).all fun c => !(enabled s c) || (getCluster s c).pstate == .smoored || (getCluster s c).pstate == .cold

/-! ### Translation (R93, R94, R137, R138) -/

/-- The bytes of a page of a level. -/
def pageSize (level : Nat) : Nat := if level = 0 then 2 ^ 16 else if level = 1 then 2 ^ 21 else 2 ^ 30
/-- The index of a virtual address at a level (R137). -/
def levelIndex (level va : Nat) : Nat :=
  if level = 3 then va / 2 ^ 43 % 8192 else if level = 2 then va / 2 ^ 30 % 8192 else if level = 1 then va / 2 ^ 21 % 512
  else va / 2 ^ 16 % 32
/-- The size in bytes of a table of a level (R137). -/
def tableSize (level : Nat) : Nat := if level = 1 then 4096 else if level = 0 then 256 else 65536

/-- Bits of a page-table entry (R138). -/
def pteV (e : Nat) : Bool := e.testBit 0
def pteLeaf (e : Nat) : Bool := e.testBit 1
def pteW (e : Nat) : Bool := e.testBit 2
def pteU (e : Nat) : Bool := e.testBit 3
def pteHS (e : Nat) : Bool := e.testBit 4
def pteCold (e : Nat) : Bool := e.testBit 5
def ptePO (e : Nat) : Bool := e.testBit 6
def pteA (e : Nat) : Bool := e.testBit 7
def pteD (e : Nat) : Bool := e.testBit 8
def ptePin (e : Nat) : Bool := e.testBit 9
/-- FRAME as a physical address. -/
def pteFrame (e : Nat) : Nat := field e 16 32 * 2 ^ 16
/-- PMASK. -/
def ptePmask (e : Nat) : Nat := field e 48 4

/-- Whether a leaf of a level is well formed (R138): reserved bits and frame bits below the page size are zero. -/
def leafOk (level e : Nat) : Bool :=
  if pteCold e then field e 10 2 == 0
  else field e 52 12 == 0 && field e 10 6 == 0 && pteFrame e % pageSize level == 0 && physOk (pteFrame e)
/-- Whether a pointer of a level is well formed (R138). -/
def pointerOk (level e : Nat) : Bool :=
  field e 48 16 == 0 && field e 2 6 == 0 && (field e 8 40 * 256) % tableSize (level - 1) == 0 && physOk (field e 8 40 * 256)

/-- What a walk finds in one entry (R138): a leaf, the next table, or PAGE_INVALID. -/
def walkEntry (m : List Host.Cell) (va level table : Nat) : Option ((Nat × Nat × Nat) ⊕ Nat) :=
  let at_ := table + 8 * levelIndex level va
  let e := memRead m at_ 8
  if !(pteV e) then none
  else if pteLeaf e then (if level = 3 ∨ leafOk level e = false then none else some (.inl (e, at_, level)))
  else if level = 0 ∨ pointerOk level e = false then none
  else some (.inr (field e 8 40 * 256))

/-- A walk from a level's table down (R137): the leaf, where it stands, and its level; none where it faults PAGE_INVALID. -/
def walkFrom (m : List Host.Cell) (va : Nat) : Nat → Nat → Option (Nat × Nat × Nat)
  | 0, table =>
    match walkEntry m va 0 table with
    | some (.inl r) => some r
    | some (.inr _) => none
    | none => none
  | l + 1, table =>
    match walkEntry m va (l + 1) table with
    | some (.inl r) => some r
    | some (.inr next) => walkFrom m va l next
    | none => none

/-- Where the entries of a walk stand, in the order in which it reads them (R137). -/
def walkReads (m : List Host.Cell) (va : Nat) : Nat → Nat → List Nat
  | 0, table => [table + 8 * levelIndex 0 va]
  | l + 1, table =>
    (table + 8 * levelIndex (l + 1) va) ::
      (match walkEntry m va (l + 1) table with | some (.inr next) => walkReads m va l next | some (.inl _) => [] | none => [])

/-- The cache unit of an accessor: the die's, or the hub's (R93). A number from 1,032 up is no core: 1,032 + d is a unit of die d. -/
def cacheOf (w : Acc) : Nat := if w.ember then 4 else if w.core < 1032 then dieOf w.core else w.core - 1032
/-- Whether a held translation covers a page of a context. -/
def Tlb.covers (t : Tlb) (ctx : CtxId) (va : Nat) : Bool := t.ctx == ctx && t.vpage == va / pageSize t.level
/-- Whether an accessor has a core's TLB of its own (R93). -/
def hasTlb (w : Acc) : Bool := decide (w.core < 1032) && !w.engine
/-- The translation an accessor's TLB or translation cache holds (R93). -/
def heldTlb (s : State) (w : Acc) (va : Nat) : Option Tlb :=
  match (if hasTlb w then (getCore s w.core).tlb else []).find? fun t => t.covers w.ctx va with
  | some t => some t
  | none => (s.caches[cacheOf w]?.getD []).find? fun t => t.covers w.ctx va

/-- The 4 KiB blocks of `n` bytes of LPDDR-6, by their channels (R91). -/
def channelsOf (p n : Nat) : List Nat :=
  (List.range ((p + n - 1) / 4096 + 1 - p / 4096)).map fun i => channelOf (4096 * (p / 4096 + i))
/-- What stops an access to `n` bytes of physical memory: an ember access to LPDDR-6 in self-refresh (R94, R353), or a home that no route
reaches any more (R18). -/
def physStop (s : State) (w : Acc) (p n : Nat) (fa : Word) : Option Stop :=
  let asleep := if w.ember ∧ p < 0xC000000000 ∧ packageSleeps s then (channelsOf p n).filter fun ch => !(s.hub.awake.contains ch) else []
  if w.ember ∧ p < 0xC000000000 ∧ packageSleeps s ∧ s.hub.dramHeld then some (.fault .dramAsleep fa)
  else if !(reaches s (cacheOf w) (min 4 (homeDie p))) then some (.fault .machineCheck fa)
  else asleep.head?.map .asleep

/-- The walkers of a die or of the hub (R93). -/
def walkersOf (unit : Nat) : Nat := if unit = 4 then 8 else 32
/-- The level of the page that holds a virtual address of a context: that of its leaf, and of the smallest page where no walk finds one. -/
def leafLevel (s : State) (ctx : CtxId) (va : Nat) : Nat :=
  match getCtx s ctx with
  | some c => match walkFrom s.mem va 3 c.root.toNat with | some r => r.2.2 | none => 0
  | none => 0
/-- Whether two virtual addresses of a context lie in one page, of the size that the first one's leaf gives it (R93, R137). -/
def samePage (s : State) (ctx : CtxId) (a b : Nat) : Bool := a / pageSize (leafLevel s ctx a) == b / pageSize (leafLevel s ctx a)
/-- Whether a miss waits (R93): a walk of its page for its context is in progress on its die or the hub, or every walker there is busy. -/
def walkWaits (s : State) (w : Acc) (va : Nat) : Bool :=
  let here := s.walks.filter fun x => dieOf x.core == cacheOf w
  (here.any fun x => x.ctx == w.ctx && samePage s w.ctx x.va.toNat va) || decide (walkersOf (cacheOf w) ≤ here.length)

/-- A translation held, or walked: leaf, place, level; a fault where the walk fails (R94). A walk reads its tables over routes that remain
(R18) from memory that is awake (R353). -/
def leafFor (s : State) (w : Acc) (va : Nat) (fa : Word) : Eff (Nat × Nat × Nat) :=
  match heldTlb s w va with
  | some t => .ok (t.leaf.toNat, t.at_, t.level)
  | none =>
    if walkWaits s w va then .error (.wait .memory)
    else
      match getCtx s w.ctx with
      | none => .error (.fault .pageInvalid fa)
      | some c =>
        match (walkReads s.mem va 3 c.root.toNat).findSome? fun p => physStop s w p 8 fa with
        | some e => .error e
        | none =>
          match walkFrom s.mem va 3 c.root.toNat with
          | some r => .ok r
          | none => .error (.fault .pageInvalid fa)

/-- A translation kept in the core's TLB (64 entries) and its die's cache (R93), newest first. -/
def keepTlb (s : State) (w : Acc) (t : Tlb) : State :=
  let fresh := fun (l : List Tlb) (n : Nat) => (t :: l.filter fun x => !(x.ctx == t.ctx && x.vpage == t.vpage && x.level == t.level)).take n
  let s1 := if hasTlb w then modCore s w.core fun c => { c with tlb := fresh c.tlb 64 } else s
  let i := cacheOf w
  { s1 with caches := s1.caches.setIfInBounds i (fresh (s1.caches[i]?.getD []) (if i = 4 then 2048 else 16384)) }

/-- The leaf after a translation that succeeds: A, and D for a write (R138). -/
def usedLeaf (e : Nat) (write : Bool) : Nat := (e ||| 2 ^ 7) ||| (if write then 2 ^ 8 else 0)

/-- Whether the leaf denies the access (R94, R138). -/
def leafDenies (w : Acc) (write : Bool) (e : Nat) : Bool :=
  (write && !(pteW e)) || (!w.priv && !(pteU e)) || (!(pteCold e) && !((ptePmask e).testBit (w.ctx.toNat / 256)))

/-- The first `n` bytes from `va` on, which lie in one granule of 64 KiB, translated: the physical address of `va`, whether the page is
host-shared, and the state with A, D and the TLB updated. `fa` is the faulting address to report (R72). -/
def translate (s : State) (w : Acc) (va n : Nat) (write : Bool) (fa : Word) : Eff (Nat × Bool × State) :=
  match leafFor s w va fa with
  | .error e => .error e
  | .ok (e, at_, level) =>
    if leafDenies w write e then .error (.fault .pagePerm fa)
    else if pteCold e then .error (.cold ⟨false, none, 0, w.ctx, fa, at_, BitVec.ofNat 52 (e / 2 ^ 12), []⟩)
    else if ptePO e then .error (.wait .coldPage)
    else
      let p := pteFrame e + va % pageSize level
      match physStop s w p n fa with
      | some x => .error x
      | none =>
        let e' := usedLeaf e write
        let s1 := if e' = e then s else { s with mem := memWrite s.mem at_ 8 (memRead s.mem at_ 8 ||| usedLeaf 0 write) }
        let s2 := keepTlb s1 w ⟨w.ctx, va / pageSize level, level, BitVec.ofNat 64 e', at_⟩
        .ok (p, pteHS e, s2)

/-- The bytes of a global access from `a` on, granule by granule (R72): `n` granules at most. -/
def granules (s : State) (w : Acc) (write : Bool) : Nat → Nat → Nat → Eff (List Spot × State)
  | 0, _, _ => .ok ([], s)
  | n + 1, a, len =>
    if len = 0 then .ok ([], s)
    else
      let here := min len (2 ^ 16 - a % 2 ^ 16)
      match translate s w a here write (BitVec.ofNat 64 a) with
      | .error e => .error e
      | .ok (p, hs, s1) =>
        match keeping s1 (granules s1 w write n (a + here) (len - here)) with
        | .error e => .error e
        | .ok (l, s2) => .ok ((List.range here).map (fun i => ⟨p + i, hs⟩) ++ l, s2)

/-- Whether a context holds a granule of the ember SRAM (R89). -/
def granted (s : State) (ctx : CtxId) (g : Nat) : Bool := s.hub.emberGrants.any fun x => x.1.toNat == g && x.2 == ctx
/-- The first granule of an ember access that is not granted. -/
def emberDenied (s : State) (ctx : CtxId) (off n : Nat) : Option Nat :=
  ((List.range ((off + n - 1) / 2 ^ 16 + 1 - off / 2 ^ 16)).map fun i => off / 2 ^ 16 + i).find? fun g => !(granted s ctx g)

/-- The core a local address names, seen from core k (R73, R74). -/
def localCore (k la : Nat) : Nat := if la.testBit 23 then 8 * clusterOf k + field la 20 3 else k

/-- What stops an access of core `me` for a context to core k's local memory: a peer of another owner, and one that is being cleared for a new
owner, whose old bytes nobody reads (R74, R75; log 116). -/
def peerStop (s : State) (me k : Nat) (ctx : CtxId) (fa : Word) : Option Stop :=
  if k = me then none
  else if (getCore s k).owner ≠ some ctx then some (.fault .pagePerm fa)
  else if (getCore s k).clearing then some (.wait .memory)
  else none
/-- The checks of R72 on an access of `n` bytes, and where its bytes lie. -/
def place (s : State) (w : Acc) (a : Word) (n align : Nat) (write : Bool) : Eff (List Spot × State) :=
  match checkWindow a n align with
  | .error e => .error e
  | .ok .global => granules s w write (n / 2 ^ 16 + 2) a.toNat n
  | .ok .local =>
    let la := a.toNat - localBase
    if la.testBit 19 ∨ (la + (n - 1)).testBit 19 ∨ 1032 ≤ w.core then .error (.fault .lmAddr a)
    else
      let k := localCore w.core la
      match peerStop s w.core k w.ctx a with
      | some e => .error e
      | none => .ok ((List.range n).map (fun i => ⟨localKey k (la % 2 ^ 19 + i), false⟩), s)
  | .ok .ember =>
    let off := a.toNat - emberBase
    match emberDenied s w.ctx off n with
    | some g => .error (.fault .pagePerm (BitVec.ofNat 64 (max a.toNat (emberBase + g * 2 ^ 16))))
    | none =>
      if reaches s (cacheOf w) 4 then .ok ((List.range n).map (fun i => ⟨emberKey (off + i), false⟩), s)
      else .error (.fault .machineCheck a)


end Sys2Proof.Machine
end

