-- ==== Sys2Proof/Machine/L1.lean ====
section
/-!
DEFINITION. Sys2Proof/Machine/L1.lean: the L1 of a core (R80 to R84) and what the directory of a die keeps of it (R86, R145), the store
buffer (R208, R295), the bytes a load returns, releases and acquires (R84, R222), and the accesses of engines and hub units.
-/
namespace Sys2Proof.Machine

/-! ### Lines (R80 to R83) -/

/-- Whether a key is a global byte of a remote-homed line for core k (R82). -/
def remoteKey (k key : Nat) : Bool := decide (key < 2 ^ 48) && (isEmber k || homeDie key != dieOf k)
/-- Whether a state is one of a remote-homed line (R82). -/
def LineState.remote : LineState → Bool
  | .rc | .rd => true
  | .s | .e | .m => false
/-- Byte i of a line. -/
def Line.byte (l : Line) (i : Nat) : Byte := l.data.extractLsb' (8 * i) 8
/-- The remote line of a core that holds a key. -/
def remoteLine (c : Core) (key : Nat) : Option Line :=
  c.l1.find? fun l => l.addr == key / 128 && l.st.remote
/-- The newest store to a key in a store buffer. -/
def buffered (c : Core) (key : Nat) : Option Byte :=
  c.storeBuf.reverse.findSome? fun p => (p.bytes.reverse.find? fun b => b.1 == key).map Prod.snd
/-- The byte core `c` sees (R83, R208, R295): its newest buffered store, else a valid byte of its remote line, else memory. -/
def viewByte (m : List Host.Cell) (c : Core) (sp : Spot) : Byte :=
  match buffered c sp.key with
  | some b => b
  | none =>
    if remoteKey c.id sp.key ∧ sp.hs = false then
      match remoteLine c sp.key with
      | some l => if l.valid.getLsbD (sp.key % 128) then l.byte (sp.key % 128) else memGet m sp.key
      | none => memGet m sp.key
    else memGet m sp.key
/-- The byte a load of core `c` returns: a misaligned load may have read some of its bytes earlier than the others (R208). -/
def loadByte (m : List Host.Cell) (c : Core) (whole : Bool) (sp : Spot) : Byte :=
  match (if whole then none else assocGet c.early sp.key) with
  | some b => b
  | none => viewByte m c sp

/-! ### Requests that a directory-overflow task holds (R86; log 105) -/

/-- The lines whose directory-overflow tasks wait or run (R86). -/
def overflowLines (s : State) : List Nat :=
  (allCores s).flatMap fun c =>
    (c.svcq.filterMap fun r => if r.cause = 3 then some (r.info.toNat / 128) else none) ++
      (if c.bank = .service ∧ c.svc.cause = 3 then [c.svc.trapInfo.toNat / 128] else [])
/-- Whether the overflow task of the line that holds a key waits or runs: requests to the line wait (R86; log 105). -/
def lineHeld (s : State) (key : Nat) : Bool := (overflowLines s).contains (key / 128)
/-- Whether an access of core `c` to a byte is a request to its home: the byte is not cached, or its own-homed line is not held, or for a write
not held alone (R82), or its remote line has no such byte, which a store needs not have (R83). -/
def asksHome (c : Core) (write : Bool) (x : Spot) : Bool :=
  if x.hs then true
  else if remoteKey c.id x.key then
    !write && (buffered c x.key).isNone && !((remoteLine c x.key).any fun l => l.valid.getLsbD (x.key % 128))
  else !(c.l1.any fun l => l.addr == x.key / 128 && (!write || l.st == .m || l.st == .e))
/-- Whether an access waits for the end of an overflow task (R86): a unit beside the core writes at the homes. -/
def requestHeld (s : State) (w : Acc) (write : Bool) (l : List Spot) : Bool :=
  let held := overflowLines s
  !held.isEmpty && l.any fun x => held.contains (x.key / 128) && ((w.engine && write) || asksHome (getCore s w.core) write x)
/-- An access of `n` bytes: the checks of R72, where its bytes lie, and the wait for overflow tasks of its lines (R86). -/
def resolve (s : State) (w : Acc) (a : Word) (n align : Nat) (write : Bool) : Eff (List Spot × State) :=
  match place s w a n align write with
  | .error e => .error e
  | .ok (l, s1) =>
    if windowOf a.toNat = some .global ∧ requestHeld s1 w write l = true then .error (.after s1 (.wait .memory)) else .ok (l, s1)
/-- Whether a store of core k that is not performed waits for an overflow task (R86). -/
def storeHeld (s : State) (k : Nat) (p : PendStore) : Bool :=
  requestHeld s ⟨p.ctx, k, isEmber k, false, false⟩ true (p.bytes.map fun b => ⟨b.1, p.uncached.contains b.1⟩)
/-- Whether core k holds a store, or dirty bytes of a remote line, that it cannot perform while an overflow task holds the line. -/
def storesHeld (s : State) (k : Nat) : Bool :=
  let held := overflowLines s
  !held.isEmpty && ((getCore s k).storeBuf.any (storeHeld s k) || (getCore s k).l1.any fun l => l.st == .rd && held.contains l.addr)

/-- A line with one byte set valid, and dirty for a store. -/
def Line.put (l : Line) (i : Nat) (b : Byte) (dirty : Bool) : Line :=
  { l with zero := false
           data := (l.data &&& ~~~(BitVec.ofNat 1024 (255 * 2 ^ (8 * i)))) ||| BitVec.ofNat 1024 (b.toNat * 2 ^ (8 * i))
           valid := l.valid ||| BitVec.ofNat 128 (2 ^ i)
           dirty := if dirty then l.dirty ||| BitVec.ofNat 128 (2 ^ i) else l.dirty }
/-- An empty line. -/
def Line.fresh (a : Nat) (st : LineState) (ctx : CtxId) : Line := ⟨a, st, false, 0, 0, 0, ctx⟩
/-- The dirty bytes of a line, as cells. -/
def Line.dirtyCells (l : Line) : List (Nat × Byte) :=
  ((List.range 128).filter fun i => l.dirty.getLsbD i).map fun i => (l.addr * 128 + i, l.byte i)
/-- A line fetched from its home: the fetched bytes are merged under the dirty ones (R83). -/
def Line.fill (l : Line) (m : List Host.Cell) : Line :=
  (List.range 128).foldl (fun acc i => if l.dirty.getLsbD i then acc else acc.put i (memGet m (l.addr * 128 + i)) false) l
/-- The lines of a core with one replaced or added. -/
def putLine (c : Core) (l : Line) : Core :=
  { c with l1 := l :: c.l1.filter fun x => x.addr != l.addr }
/-- One line of core k dropped. -/
def dropLine (s : State) (k line : Nat) : State :=
  modCore s k fun c => { c with l1 := c.l1.filter fun l => l.addr != line }

/-! ### The directory's record of sharers (R86, R145) -/

/-- The enabled cores of a compute die. -/
def dieCores (s : State) (d : Nat) : List Nat := ((List.range 256).map fun i => 256 * d + i).filter (coreEnabled s)
/-- The core whose home slice serves a line (R86; log 7). -/
def homeCore (s : State) (d line : Nat) : Nat :=
  let l := dieCores s d
  (l[homeHash d line % l.length]?).getD (256 * d)
/-- The entries of a die, and the state with them replaced. -/
def dirOf (s : State) (d : Nat) : List DirEntry := s.dirs[d]?.getD []
def putDir (s : State) (d : Nat) (l : List DirEntry) : State := { s with dirs := s.dirs.setIfInBounds d l }
/-- A request put into a die's queue. -/
def askDir (s : State) (d : Nat) (r : DirReq) : State :=
  { s with dirReqs := s.dirReqs.setIfInBounds d ((s.dirReqs[d]?.getD []) ++ [r]) }
/-- Where the list record of an entry lies: in the pinned region of the line's home core. -/
def listKey (s : State) (h : Nat) (list : Nat) : Option Nat :=
  ((getCore s h).pins[7]).map fun r => localKey h (r.dbase.toNat + 64 * list)
/-- The MASK of a list record changed (R145). -/
def modMask (s : State) (h list : Nat) (f : Nat → Nat) : State :=
  match listKey s h list with
  | none => s
  | some a => { s with mem := memWrite s.mem (a + 32) 32 (f (memRead s.mem (a + 32) 32)) }
/-- Bit i of a number cleared. -/
def clearBit (i x : Nat) : Nat := if x.testBit i then x - 2 ^ i else x
/-- The entry of a line gone from a die's directory, with the sharers that its list record names. -/
def dropEntry (s : State) (d line : Nat) : State :=
  let s1 := match (dirOf s d).find? fun e => e.line == line with
    | some e => if e.st = 3 then modMask s (homeCore s d line) e.list.toNat fun _ => 0 else s
    | none => s
  putDir s1 d ((dirOf s1 d).filter fun e => e.line != line)
/-- A core no longer shares a line: its pointer goes, or its bit of the list record's MASK; a broadcast entry names every core. -/
def removeSharer (s : State) (k line : Nat) : State :=
  let d := homeDie (line * 128)
  if remoteKey k (line * 128) then s
  else
    match (dirOf s d).find? fun e => e.line == line with
    | none => s
    | some e =>
      if e.st = 4 then s
      else if e.st = 3 then modMask s (homeCore s d line) e.list.toNat (clearBit (k % 256))
      else
        let p := e.ptrs.filter fun i => i != k % 256
        putDir s d ((dirOf s d).filterMap fun x => if x.line ≠ line then some x else if p.isEmpty then none else some { x with ptrs := p })

/-! ### Writes at the homes -/

/-- An access of core k that no route is left for: the machine check that comes next (R18, R326). -/
def noRoute (s : State) (k : Nat) (ctx : CtxId) (addr : Nat) : State :=
  { s with agenda := .happen (.machineCheck k (.requester 7 0 ctx 0 (BitVec.ofNat 64 addr))) :: s.agenda }
/-- The die from which core k's accesses go out. -/
def outDie (k : Nat) : Nat := if k < 1032 then dieOf k else 4
/-- The die, or the hub, at which a key has its home. -/
def keyDie (key : Nat) : Nat := if key < 2 ^ 48 then min 4 (homeDie key) else if key < 2 ^ 49 then 4 else dieOf ((key - 2 ^ 49) / 2 ^ 19)
/-- Whether some core holds an own-homed line of a list with its zero flag set. -/
def zeroHeld (s : State) (lines : List Nat) : Bool :=
  (allCores s).any fun c => c.l1.any fun l => l.zero && !l.st.remote && lines.contains l.addr
/-- The zero-flagged own-homed copies of written lines recalled, since they stand for zeros (R81). -/
def recallZero (s : State) (lines : List Nat) : State :=
  if zeroHeld s lines then
    mapCores s fun c => { c with l1 := c.l1.filter fun l => !(l.zero && !l.st.remote && lines.contains l.addr) }
  else s
/-- Bytes written at their homes. -/
def homePut (s : State) (bytes : List (Nat × Byte)) : State :=
  recallZero { s with mem := memSetAll s.mem bytes } (bytes.map fun b => b.1 / 128).dedup
/-- A number of `n` bytes written at its home by a unit of the hub. -/
def putNum (s : State) (key n x : Nat) : State :=
  recallZero { s with mem := memWrite s.mem key n x } ((List.range ((key + n - 1) / 128 + 1 - key / 128)).map fun i => key / 128 + i)
/-- Bytes of core k performed at their homes, where a route remains (R18). -/
def writeHome (s : State) (k : Nat) (ctx : CtxId) (bytes : List (Nat × Byte)) : State :=
  let there := fun (b : Nat × Byte) => reaches s (outDie k) (keyDie b.1)
  let s1 := homePut s (bytes.filter there)
  match bytes.find? fun b => !(there b) with
  | none => s1
  | some b => noRoute s1 k ctx b.1
/-- One line of core k written back: a remote one's dirty bytes go to their home (R84). -/
def writeBackLine (s : State) (k line : Nat) : State :=
  match (getCore s k).l1.find? fun l => l.addr == line && l.st == .rd with
  | some l => writeHome s k l.ctx l.dirtyCells
  | none => s
/-- One line of core k evicted (R84). -/
def evictLine (s : State) (k line : Nat) : State := removeSharer (dropLine (writeBackLine s k line) k line) k line

/-! ### Room in a set (R80, R81) -/

/-- The set of a line: PA bits [15:7]. -/
def l1Set (line : Nat) : Nat := line % 512
/-- The lines of which one leaves when `line` comes in: a data slot is needed unless its zero flag is set, and a tag unless it is held. -/
def victimLines (c : Core) (line : Nat) (zero : Bool) : List Line :=
  let peers := c.l1.filter fun l => l1Set l.addr == l1Set line && l.addr != line
  let slots := peers.filter fun l => !l.zero
  if !zero && decide (16 ≤ slots.length) then slots
  else if !(c.l1.any fun l => l.addr == line) && decide (24 ≤ peers.length) then peers
  else []
/-- Room made for a line in core k's L1: the victim is not architectural, and is a free choice (log 81). -/
def makeWay (s : State) (k line : Nat) (zero : Bool) : State :=
  let l := victimLines (getCore s k) line zero
  match l[(freeWord s.free).toNat % l.length]? with
  | some v => evictLine { s with free := s.free + 1 } k v.addr
  | none => s

/-! ### Delay accounts (R158, R159) -/

/-- The delay account of a key as core k sees it, if an access to it is counted; `shared`: a core's L1, or the home, supplies it. -/
def accountOf (k : Nat) (shared : Bool) (key : Nat) : Option Nat :=
  if key < 0xC000000000 then some (if shared then 104 + homeDie key else channelOf key)
  else if key < 2 ^ 48 then some 109
  else if key < 2 ^ 49 then some 108
  else if (key - 2 ^ 49) / 2 ^ 19 = k then none
  else some (96 + (key - 2 ^ 49) / 2 ^ 19 % 8)
/-- Whether another listed core holds a line that its own die homes (for the choice of E or S, and of the delay account): a copy in S supplies
it too (log 108). -/
def heldElsewhere (s : State) (line : Nat) : Bool :=
  s.rest.any fun p => p.1 != s.core.id && p.2.l1.any fun l => l.addr == line && !l.st.remote
/-- An account that no access counts in (R158). -/
def noAccount : Nat := 110
/-- A response on its way to the focus core. -/
def respond (s : State) (account : Nat) (line : Option Nat) : State :=
  onCore s fun c => { c with responses := c.responses ++ [⟨account, line⟩] }
/-- An access of the focus core that fills no line, counted (R159): a line that another core's L1 holds comes from its home. -/
def countAccess (s : State) (key : Nat) : State :=
  match accountOf s.core.id (heldElsewhere s (key / 128)) key with
  | some a => respond s a none
  | none => s

/-! ### Loads -/

/-- Whether a key is LPDDR-6's (R90). -/
def lpddr (key : Nat) : Bool := decide (key < 0xC000000000)
/-- What a load does to the L1 and the delay accounts for one line of a global page that may be cached (R82, R83): a hit, where the line
holds every byte it needs, does nothing; a miss fetches the line. A prefetch counts in no account (R211). -/
def touchLine (s : State) (line : Nat) (need : Nat → Bool) (counted : Bool) : State :=
  let key := line * 128
  let other := heldElsewhere s line
  let account := if counted then (accountOf s.core.id other key).getD noAccount else noAccount
  let s1 := if lpddr key && !other then countBytes s 128 else s
  if remoteKey s.core.id key then
    let l := (remoteLine s.core key).getD (Line.fresh line .rc (curCtx s))
    if (List.range 128).all fun i => !(need i) || l.valid.getLsbD i then s
    else
      let s2 := makeWay s1 s1.core.id line false
      respond (onCore s2 fun c => putLine c (l.fill s2.mem)) account (some line)
  else if s.core.l1.any fun l => l.addr == line then s
  else
    let s2 := makeWay s1 s1.core.id line false
    let s3 := respond (onCore s2 fun c => putLine c (Line.fresh line (if other then .s else .e) (curCtx s))) account (some line)
    askDir s3 (homeDie key) ⟨s.core.id, line, false, false⟩

/-- The lines an access's bytes lie in, each once, in order. -/
def linesOf (l : List Spot) : List Nat := ((l.map fun x => x.key / 128).dedup)
/-- Whether a byte may be held in the L1 (R80, R92). -/
def Spot.cached (x : Spot) : Bool := decide (x.key < 2 ^ 48) && !x.hs
/-- What a load leaves besides its value: lines filled, responses counted; bytes all forwarded from the store buffer are served
within the core. -/
def touchLoad (s : State) (l : List Spot) : State :=
  let rest := l.filter fun x => (buffered s.core x.key).isNone
  let s1 := (linesOf (rest.filter Spot.cached)).foldl
    (fun acc line => touchLine acc line (fun i => rest.any fun x => x.key == line * 128 + i) true) s
  match rest.filter fun x => !x.cached with
  | [] => s1
  | x :: r => countAccess (countBytes s1 ((x :: r).filter fun y => lpddr y.key).length) x.key

/-- Whether an access at an address that is a multiple of its size is performed whole (R208). -/
def aligned (a : Word) (n : Nat) : Bool := a.toNat % n == 0
/-- A plain load of `n` bytes as a number, and the state after it (R207): where it misses, the fetched bytes stand under the dirty ones (R83). -/
def load (s : State) (a : Word) (n align : Nat) : Eff (Nat × State) :=
  match resolve s (coreAcc s) a n align false with
  | .error e => .error e
  | .ok (l, s1) =>
    let s2 := touchLoad s1 l
    .ok (ofBytes (l.map (loadByte s2.mem s2.core (aligned a n))), s2)
/-- A byte of the misaligned load at core k's PC read ahead of the others (R208). -/
def readEarly (s : State) (k key : Nat) : State :=
  modCore s k fun c => { c with early := assocSet c.early key (viewByte s.mem c ⟨key, false⟩) }

/-! ### Stores (R208, R295) -/

/-- A store put into the focus core's store buffer; a full one is waited for (R121). -/
def pushStore (s : State) (l : List (Spot × Byte)) (zline whole : Bool) : Eff State :=
  if 16 ≤ s.core.storeBuf.length then .error (.wait .storeBuffer)
  else
    let p : PendStore :=
      ⟨l.map fun x => (x.1.key, x.2), curCtx s, (l.filter fun x => x.1.hs).map fun x => x.1.key, whole, zline⟩
    .ok (onCore (countBytes s (l.filter fun x => lpddr x.1.key).length) fun c => { c with storeBuf := c.storeBuf ++ [p] })
/-- A plain store of the low `n` bytes of a number (R207). -/
def store (s : State) (a : Word) (n align x : Nat) : Eff State :=
  match resolve s (coreAcc s) a n align true with
  | .error e => .error e
  | .ok (l, s1) => pushStore s1 (l.zip (toBytes n x)) false (aligned a n)

/-- A byte of a pending store that goes to the core's own remote line (R83); any other is performed at its home. -/
def PendStore.toLine (p : PendStore) (k : Nat) (b : Nat × Byte) : Bool := remoteKey k b.1 && !(p.uncached.contains b.1)
/-- One byte of a performed store in a remote line: the line is RD from then on, and its dirty bytes are the storing context's. -/
def putRemote (c : Core) (ctx : CtxId) (b : Nat × Byte) : Core :=
  let l := (remoteLine c b.1).getD (Line.fresh (b.1 / 128) .rd ctx)
  putLine c { l.put (b.1 % 128) b.2 true with st := .rd, ctx := ctx }
/-- Room made for a remote line that takes stored bytes: dirty bytes of another context in it are written back first, so that a kill
discards each context's own alone (R305). -/
def readyRemote (s : State) (k : Nat) (ctx : CtxId) (zero : Bool) (line : Nat) : State :=
  let s1 := makeWay s k line zero
  if (getCore s1 k).l1.any fun l => l.addr == line && l.st == .rd && l.ctx != ctx then
    modCore (writeBackLine s1 k line) k fun c =>
      { c with l1 := c.l1.map fun l => if l.addr = line then { l with st := .rc, dirty := 0 } else l }
  else s1
/-- The own-homed line a performed store leaves in M (R82), and the directory told. -/
def ownStore (s : State) (k : Nat) (zero : Bool) (ctx : CtxId) (line : Nat) : State :=
  let s1 := modCore (makeWay s k line zero) k fun c => putLine c { Line.fresh line .m ctx with zero := zero }
  askDir s1 (homeDie (line * 128)) ⟨k, line, true, false⟩
/-- The stores of one entry performed for core k: remote-homed bytes go to its line (R83), all others to their homes. -/
def performStore (s : State) (k : Nat) (p : PendStore) : State :=
  let remote := p.bytes.filter (p.toLine k)
  let direct := p.bytes.filter fun b => !(p.toLine k b)
  let s1 := writeHome s k p.ctx direct
  let s2 := ((remote.map fun b => b.1 / 128).dedup).foldl (fun acc line => readyRemote acc k p.ctx p.zline line) s1
  let s3 := modCore s2 k fun c =>
    let c1 := remote.foldl (fun acc b => putRemote acc p.ctx b) c
    if p.zline then { c1 with l1 := c1.l1.map fun l => if remote.any (fun b => b.1 / 128 == l.addr) then { l with zero := true } else l }
    else c1
  let own := ((direct.filter fun b => decide (b.1 < 2 ^ 48) && !(p.uncached.contains b.1)).map fun b => b.1 / 128).dedup
  own.foldl (fun acc line => ownStore acc k p.zline p.ctx line) s3

/-- The oldest store of core k performed. -/
def drainOne (s : State) (k : Nat) : State :=
  match (getCore s k).storeBuf with
  | [] => s
  | p :: r => performStore (modCore s k fun c => { c with storeBuf := r }) k p
/-- What STORE_BUFFER_DRAIN performs: the oldest store of core k, or, where that is misaligned, one byte of it (R208); one whose line an overflow
task holds waits (R86). -/
def drainStep (s : State) (k : Nat) : State :=
  match (getCore s k).storeBuf with
  | [] => s
  | p :: r =>
    let i := (freeWord s.free).toNat % p.bytes.length
    if storeHeld s k p then s
    else if p.whole ∨ p.bytes.length ≤ 1 then drainOne s k
    else
      performStore (modCore { s with free := s.free + 1 } k fun c => { c with storeBuf := { p with bytes := dropAt p.bytes i } :: r }) k
        { p with bytes := (p.bytes.drop i).take 1 }
/-- Several stores of core k performed, oldest first. -/
def drainN (s : State) (k : Nat) : Nat → State
  | 0 => s
  | n + 1 => drainN (drainOne s k) k n
/-- Every store of core k performed, in order (R192, R222). -/
def drainAll (s : State) (k : Nat) : State := drainN s k (getCore s k).storeBuf.length

/-! ### Releases and acquires (R84, R222) -/

/-- Whether a scope reaches remote-homed lines (R84). -/
def wideScope : Scope → Bool
  | .pkg | .sys => true
  | .core | .clus | .die => false

/-- The dirty bytes of core k's remote lines performed at their homes. -/
def flushRemote (s : State) (k : Nat) : State :=
  ((getCore s k).l1.filter fun l => l.st == .rd).foldl (fun acc l => writeHome acc k l.ctx l.dirtyCells) s
/-- A release of core k at a scope: its earlier stores performed; at PKG and SYS its RD lines written back and kept as RC. -/
def release (s : State) (k : Nat) (sc : Scope) : State :=
  let s1 := drainAll s k
  if wideScope sc then
    modCore (flushRemote s1 k) k fun c =>
      { c with l1 := c.l1.map fun l => if l.st = .rd then { l with st := .rc, dirty := 0 } else l }
  else s1
/-- An acquire of core k at a scope: at PKG and SYS its RD lines are written back and every remote line is dropped. -/
def acquire (s : State) (k : Nat) (sc : Scope) : State :=
  if wideScope sc then
    modCore (flushRemote s k) k fun c => { c with l1 := c.l1.filter fun l => !l.st.remote }
  else s

/-! ### Accesses of engines and hub units -/

/-- The bytes of an access by a unit beside the core, coherent with the L1 of core `w.core` (R264). -/
def unitRead (s : State) (w : Acc) (a : Word) (n align : Nat) : Eff (List Byte × State) :=
  match resolve s w a n align false with
  | .error e => .error e
  | .ok (l, s1) => .ok (l.map fun x => viewByte s1.mem (getCore s1 w.core) x, s1)
/-- Bytes written by a unit beside the core: at their homes, and in the core's own line where it holds one (R264). -/
def unitPut (s : State) (k : Nat) (bytes : List (Nat × Byte)) : State :=
  let zero := fun (line : Nat) => (getCore s k).l1.any fun l => l.addr == line && l.zero && l.st.remote
  let s1 := (((bytes.map fun b => b.1 / 128).dedup).filter zero).foldl (fun acc line => makeWay acc k line false) (homePut s bytes)
  modCore s1 k fun c => bytes.foldl (fun acc b =>
    match remoteLine acc b.1 with
    | some l => putLine acc { l.put (b.1 % 128) b.2 false with st := l.st, dirty := l.dirty &&& ~~~(BitVec.ofNat 128 (2 ^ (b.1 % 128))) }
    | none => acc) c
/-- An access by a unit beside the core that writes bytes. -/
def unitWrite (s : State) (w : Acc) (a : Word) (align : Nat) (bytes : List Byte) : Eff State :=
  match resolve s w a bytes.length align true with
  | .error e => .error e
  | .ok (l, s1) => .ok (unitPut s1 w.core ((l.map Spot.key).zip bytes))
/-- A read by a hub unit or a walker for a context: it sees memory at the homes. -/
def hubRead (s : State) (w : Acc) (a : Word) (n align : Nat) : Eff (List Byte × State) :=
  match resolve s w a n align false with
  | .error e => .error e
  | .ok (l, s1) => .ok (l.map fun x => memGet s1.mem x.key, s1)
/-- A write by a hub unit for a context, performed at the homes. -/
def hubWrite (s : State) (w : Acc) (a : Word) (align : Nat) (bytes : List Byte) : Eff State :=
  match resolve s w a bytes.length align true with
  | .error e => .error e
  | .ok (l, s1) => .ok (homePut s1 ((l.map Spot.key).zip bytes))
/-- The accessor of a hub unit for a context; it has no core and uses the hub's translation cache. -/
def hubAcc (ctx : CtxId) : Acc := ⟨ctx, 1032, true, true, true⟩

end Sys2Proof.Machine
end

