-- ==== Sys2Proof/Machine/CopyWork.lean ====
section
/-!
DEFINITION. Sys2Proof/Machine/CopyWork.lean: what the copy engine's commands do (spec/12 R263 to R267; R79, R125, R152, R153): the checks
made when a copy starts, its beats, and its end.
-/
namespace Sys2Proof.Machine

/-! ### Control and shape words (R263) -/

/-- LEN of a control word. -/
def cpLen (c : Copy) : Nat := field c.ctl.toNat 0 32
/-- TAG of a control word. -/
def cpTag (c : Copy) : Nat := field c.ctl.toNat 32 7
/-- The arrival word a copy names, if it names one. -/
def cpAw (c : Copy) : Option (BitVec 24) := if c.ctl.getLsbD 39 then some (c.ctl.extractLsb' 40 24) else none
/-- Whether a copy's rows come from its shape word. -/
def shaped (c : Copy) : Bool := c.kind == .cpy2 || c.kind == .cpyg
/-- The rows of a copy. -/
def cpRows (c : Copy) : Nat := if shaped c then field c.shape.toNat 0 16 else 1
/-- The source address of row i (R264); none for zeros. -/
def cpSource (c : Copy) (i : Nat) : Option Word :=
  match c.kind with
  | .cpy | .cpyb => some c.src
  | .cpy2 => some (c.src + BitVec.ofNat 64 (i * field c.shape.toNat 16 24))
  | .cpyg => some (c.src + BitVec.ofNat 64 (c.index.getD i 0 * field c.shape.toNat 40 24))
  | .cpyz => none
/-- Where row i starts in the destination stream (R264, R266). -/
def cpRowAt (c : Copy) (i : Nat) : Nat :=
  match c.kind with
  | .cpy2 => i * field c.shape.toNat 40 24
  | .cpyg => i * cpLen c
  | .cpy | .cpyz | .cpyb => 0
/-- The stream extent (R266). -/
def cpExtent (c : Copy) : Nat := cpRowAt c (cpRows c - 1) + cpLen c
/-- The ranks CPYB writes to (R264), ascending. -/
def cpRanks (c : Copy) : List Nat := (List.range 8).filter fun r => c.shape.getLsbD r

/-- The tail advanced over arrived slots (R125). -/
def tailAdvance (r : RingEntry) : Nat → RingEntry
  | 0 => r
  | n + 1 =>
    if r.arrived.getLsbD r.tail.toNat then
      tailAdvance { r with
        arrived := r.arrived &&& ~~~(BitVec.ofNat 64 (2 ^ r.tail.toNat))
        tail := BitVec.ofNat 6 ((r.tail.toNat + 1) % r.count.toNat), filled := r.filled + 1 } n
    else r
/-- The ARRIVED bits of a ring's slots set, and the tail advanced over them (R125, R266). -/
def arriveSlots (c : Core) (dest : CopyDest) : Core :=
  match dest with
  | .addr _ => c
  | .ring r _ _ n first k =>
    match c.rings[r]? with
    | none => c
    | some e =>
      let bits := (List.range k).foldl (fun m i => m ||| BitVec.ofNat 64 (2 ^ ((first + i) % n))) e.arrived
      { c with rings := c.rings.setIfInBounds r (tailAdvance { e with arrived := bits } 64) }
/-- A copy that leaves the engine: it is counted out of its launch, and its ring's slots arrive (R155, R266, R267). -/
def copyGone (s : State) (k : Nat) (x : Copy) : State :=
  countDown (modCore s k fun c => arriveSlots c x.dest) x.rcd.ctx x.rcd.lid 1
/-! ### The checks made when a copy starts (R264) -/

/-- Every byte of a range checked under R69 to R75, R94 and R95, as one access of a row; a cold page passes, and stalls the copy when it
is reached. -/
def checkPages (s : State) (w : Acc) (write : Bool) : Nat → Nat → Nat → Eff Unit
  | 0, _, _ => .ok ()
  | n + 1, a, len =>
    if len = 0 then .ok ()
    else
      let here := min len (2 ^ 16 - a % 2 ^ 16)
      match translate s w a here write (BitVec.ofNat 64 a) with
      | .error (.fault c x) => .error (.fault c x)
      | _ => checkPages s w write n (a + here) (len - here)
/-- The checks of a row of n bytes. -/
def checkRange (s : State) (w : Acc) (a : Word) (n : Nat) (write : Bool) : Eff Unit :=
  match checkWindow a n 1 with
  | .error e => .error e
  | .ok .global => checkPages s w write (n / 2 ^ 16 + 2) a.toNat n
  | .ok .local =>
    let la := a.toNat - localBase
    if la.testBit 19 ∨ 2 ^ 19 < la % 2 ^ 19 + n then .error (.fault .lmAddr a)
    else
      match peerStop s w.core (localCore w.core la) w.ctx a with
      | some e => .error e
      | none => .ok ()
  | .ok .ember =>
    match emberDenied s w.ctx (a.toNat - emberBase) n with
    | some g => .error (.fault .pagePerm (BitVec.ofNat 64 (max a.toNat (emberBase + g * 2 ^ 16))))
    | none => .ok ()
/-- An arrival word at a local address (R152): the core that holds it and its key. -/
def arrivalAt (s : State) (w : Acc) (aw : BitVec 24) : Eff Nat :=
  if aw.toNat % 8 ≠ 0 then .error (.fault .engineCmd 0)
  else if aw.getLsbD 19 then .error (.fault .lmAddr (BitVec.ofNat 64 (localBase + aw.toNat)))
  else
    let k := localCore w.core aw.toNat
    match peerStop s w.core k w.ctx (BitVec.ofNat 64 (localBase + aw.toNat)) with
    | some e => .error e
    | none => .ok (localKey k (aw.toNat % 2 ^ 19))
/-- The local address of an offset of a cluster rank, as a generic address (R73). -/
def rankAddr (r off : Nat) : Word := BitVec.ofNat 64 (localBase + 2 ^ 23 + r * 2 ^ 20 + off % 2 ^ 20)
/-- The index list of a CPYG, read from local memory (R264). -/
def readList (s : State) (w : Acc) (c : Copy) : Eff (List Nat) := do
  let a := BitVec.ofNat 64 (localBase + field c.shape.toNat 16 24)
  let (bytes, _) ← unitRead s w a (4 * cpRows c) 4
  .ok ((List.range (cpRows c)).map fun i => ofBytes ((bytes.drop (4 * i)).take 4))
/-- A list of checks, in order. -/
def checkAll : List (Eff Unit) → Eff Unit
  | [] => .ok ()
  | .error e :: _ => .error e
  | .ok _ :: r => checkAll r
/-- What one row of a copy is checked for. -/
def checkRow (s : State) (w : Acc) (c : Copy) (i : Nat) : List (Eff Unit) :=
  let n := cpLen c
  (match cpSource c i with | some a => [checkRange s w a n false] | none => []) ++
    (match c.dest with
      | .addr d =>
        if c.kind = .cpyb then (cpRanks c).map fun r => checkRange s w (rankAddr r d.toNat) n true
        else [checkRange s w (d + BitVec.ofNat 64 (cpRowAt c i)) n true]
      | .ring _ _ _ _ _ _ => [])
/-- The checks of CPYB's destination and mask (R263, R264); the code of a D outside the local window is log 110. -/
def checkCast (c : Copy) : Eff Unit :=
  if c.kind = .cpyb then
    match c.dest with
    | .addr d =>
      if c.shape.toNat / 256 ≠ 0 ∨ c.shape.toNat % 256 = 0 then .error (.fault .engineCmd 0)
      else
        match windowOf d.toNat with
        | none => .error (.fault .windowNone d)
        | some .local => .ok ()
        | some .global => .error (.fault .lmAddr d)
        | some .ember => .error (.fault .lmAddr d)
    | .ring _ _ _ _ _ _ => .ok ()
  else .ok ()
/-- The arrival words a copy names: CPYB one per destination. -/
def arrivals (c : Copy) (aw : BitVec 24) : List (BitVec 24) :=
  if c.kind = .cpyb then (cpRanks c).map fun r => BitVec.ofNat 24 (2 ^ 23 + r * 2 ^ 20 + aw.toNat % 2 ^ 20) else [aw]
/-- A copy as it starts (R264, R266): its index list read and every check made. A LEN of 0 moves nothing and names no address, but its
arrival word must be aligned all the same (R152). -/
def startCopy (s : State) (c : Copy) : Eff Copy := do
  let w := engineAcc s c.rcd
  need (!(shaped c) || decide (cpRows c ≠ 0)) .engineCmd 0
  checkCast c
  need ((cpAw c).all fun aw => aw.toNat % 8 == 0) .engineCmd 0
  if cpLen c = 0 then .ok c
  else
    checkAll (match cpAw c with | some aw => (arrivals c aw).map fun x => (arrivalAt s w x).map fun _ => () | none => [])
    match c.dest with
    | .ring _ _ slot _ _ k => need (decide (cpExtent c ≤ k * slot)) .engineCmd 0
    | .addr _ => .ok ()
    let list ← if c.kind = .cpyg then readList s w c else .ok []
    let c1 := { c with index := list }
    checkAll ((List.range (cpRows c1)).flatMap fun i => checkRow s w c1 i)
    .ok c1

/-! ### Beats (R79, R264, R265) -/

/-- How many destinations a copy's pieces go to. -/
def fan (c : Copy) : Nat := if c.kind = .cpyb then (cpRanks c).length else 1
/-- The pieces of 64 bytes or fewer of a row. -/
def pieces (c : Copy) : Nat := ceilDiv (cpLen c) 64
/-- The number of beats of a copy. -/
def beatCount (c : Copy) : Nat := if cpLen c = 0 then 0 else cpRows c * pieces c * fan c
/-- The row, the offset in the row and the destination number of a beat. -/
def beatAt (c : Copy) (b : Nat) : Nat × Nat × Nat :=
  let p := b / fan c
  (p / pieces c, 64 * (p % pieces c), b % fan c)
/-- The 4 KiB chunk a beat belongs to: by its first byte's place among the bytes moved. -/
def chunkOf (c : Copy) (b : Nat) : Nat :=
  let (i, j, _) := beatAt c b
  (i * cpLen c + j) / 4096
/-- The first beat that is not complete. -/
def firstBeat (c : Copy) : Nat := ((List.range (c.done.length + 1)).find? fun b => !(c.done.contains b)).getD c.done.length
/-- Whether every beat is complete, or a stopped copy stands at the end of a chunk (R267). -/
def copyEnded (c : Copy) : Bool :=
  let b := firstBeat c
  decide (beatCount c ≤ b) ||
    (c.cancelled && (b == 0 || chunkOf c b != chunkOf c (b - 1)) && c.done.all fun x => decide (chunkOf c x < chunkOf c b))
/-- The beat an arbiter picks: a beat of the current chunk that is not complete. -/
def pickBeat (c : Copy) (n : Nat) : Nat :=
  let f := firstBeat c
  let b := f + n
  if b < beatCount c ∧ chunkOf c b = chunkOf c f ∧ ¬ b ∈ c.done then b else f

/-- The destination of n bytes from stream byte q on, as a list of spots, and the state after translation. -/
def beatDest (s : State) (w : Acc) (c : Copy) (rank q n : Nat) : Eff (List Spot × State) :=
  match c.dest with
  | .ring _ base slot cnt first _ =>
    .ok ((List.range n).map (fun i => ⟨localKey w.core (base + (first + (q + i) / slot) % cnt * slot + (q + i) % slot), false⟩), s)
  | .addr d =>
    if c.kind = .cpyb then resolve s w (rankAddr rank (d.toNat + q)) n 1 true
    else resolve s w (d + BitVec.ofNat 64 q) n 1 true
/-- Whether an earlier beat of the same copy wrote stream byte q (R264): rows of a CPY2 may overlap. -/
def wroteBefore (c : Copy) (row q : Nat) : Bool :=
  c.kind == .cpy2 && decide (field c.shape.toNat 40 24 < cpLen c) &&
    (List.range (cpRows c)).any fun i =>
      i != row && decide (cpRowAt c i ≤ q) && decide (q < cpRowAt c i + cpLen c) && c.done.contains (i * pieces c + (q - cpRowAt c i) / 64)

/-- An arrival word after b more units (R153): the new word, and whether GEN changed. -/
def arrivalStep (word : Nat) (b : Nat) : Nat × Bool :=
  let target := field word 40 24
  let c := field word 16 24 + b
  if target = 0 then (word / 2 ^ 40 * 2 ^ 40 + min c (2 ^ 24 - 1) * 2 ^ 16 + word % 2 ^ 16, false)
  else (target * 2 ^ 40 + c % target * 2 ^ 16 + (word % 2 ^ 16 + c / target) % 2 ^ 16, decide (target ≤ c))
/-- An arrival word updated by core k's engine, as a release at a scope where GEN changes (R153, R265): what the release performs comes before
the update, which reads the word and writes it in one. -/
def arrive (s : State) (k : Nat) (key b : Nat) (sc : Scope) : State :=
  let s1 := if (arrivalStep (memRead s.mem key 8) b).2 then release s k sc else s
  { s1 with mem := memWrite s1.mem key 8 (arrivalStep (memRead s1.mem key 8) b).1 }

/-- The bytes of a beat that have reached the banks before it completes (R79). -/
def landedOf (c : Copy) (b : Nat) : BitVec 64 := (assocGet c.landed b).getD 0
/-- The bytes of a beat that `pick` names, by their place in the beat and their key, written unless they have been before: a byte is written
once, whatever else writes it meanwhile (R79). Answers the number of bytes of the beat, the rank it goes to, and which bytes have landed. -/
def moveBeat (s : State) (c : Copy) (b : Nat) (pick : Nat → Nat → Bool) : Eff (Nat × Nat × BitVec 64 × State) := do
  let w := engineAcc s c.rcd
  let (i, j, r) := beatAt c b
  let n := min 64 (cpLen c - j)
  let rank := (cpRanks c).getD r 0
  let (bytes, s1) ← match cpSource c i with
    | some a => unitRead s w (a + BitVec.ofNat 64 j) n 1
    | none => .ok (List.replicate n 0, s)
  let q := cpRowAt c i + j
  let (dst, s2) ← keeping s1 (beatDest s1 w c rank q n)
  let now := fun (p : (Nat × Byte) × Nat) => pick p.2 p.1.1 && !((landedOf c b).getLsbD p.2)
  let pairs := (((dst.map Spot.key).zip bytes).zipIdx).filter now
  let kept := fun (p : (Nat × Byte) × Nat) => !(wroteBefore c i (q + p.2) && freeChoice (s.free + p.2))
  let mask := pairs.foldl (fun m p => m ||| BitVec.ofNat 64 (2 ^ p.2)) (landedOf c b)
  .ok (n, rank, mask, unitPut s2 w.core ((pairs.filter kept).map Prod.fst))
/-- The LPDDR-6 bytes of a beat, counted for its launch (R314). -/
def tallyBeat (s : State) (c : Copy) (n : Nat) : State := modLaunch s c.rcd.ctx c.rcd.lid fun l => { l with bytes := l.bytes + n }
/-- The arrival word a beat to a rank counts in. -/
def beatArrival (c : Copy) (aw : BitVec 24) (rank : Nat) : BitVec 24 :=
  if c.kind = .cpyb then BitVec.ofNat 24 (2 ^ 23 + rank * 2 ^ 20 + aw.toNat % 2 ^ 20) else aw

/-- The LPDDR-6 bytes among n bytes at an address. -/
def lpddrBytes (s : State) (w : Acc) (a : Word) (n : Nat) : Nat :=
  match resolve s w a n 1 false with
  | .ok (l, _) => (l.filter fun x => lpddr x.key).length
  | .error _ => 0
/-- The LPDDR-6 bytes that a beat reads and writes (R314). -/
def beatLpddr (s : State) (c : Copy) (b n : Nat) : Nat :=
  let w := engineAcc s c.rcd
  let (i, j, _) := beatAt c b
  let from_ := match cpSource c i with | some a => lpddrBytes s w (a + BitVec.ofNat 64 j) n | none => 0
  let to_ := match c.dest with
    | .addr d => if c.kind = .cpyb then 0 else lpddrBytes s w (d + BitVec.ofNat 64 (cpRowAt c i + j)) n
    | .ring _ _ _ _ _ _ => 0
  from_ + to_
/-- A beat completed: marked, and counted in its arrival word (R153, R265). -/
def beatDone (s : State) (k i : Nat) (c : Copy) (b n rank : Nat) : State :=
  let s1 := modCore s k fun x => { x with flight := x.flight.set i { c with done := c.done ++ [b], landed := assocDel c.landed b } }
  let s2 := tallyBeat s1 c (beatLpddr s1 c b n)
  match cpAw c with
  | none => s2
  | some aw =>
    match arrivalAt s2 (engineAcc s2 c.rcd) (beatArrival c aw rank) with
    | .ok key => arrive s2 k key n c.scope
    | .error _ => s2
/-- Beat b of copy i of core k completed: every byte of it that has not landed is written. -/
def finishBeat (s : State) (k i : Nat) (c : Copy) (b : Nat) : Eff State :=
  (moveBeat s c b fun _ _ => true).map fun r => beatDone r.2.2.2 k i c b r.1 r.2.1
/-- Some bytes of beat b of copy i of core k reach the banks before the beat completes (R79). -/
def landBytes (s : State) (k i : Nat) (c : Copy) (b : Nat) (pick : Nat → Nat → Bool) : Eff State :=
  (moveBeat s c b pick).map fun r =>
    modCore r.2.2.2 k fun x => { x with flight := x.flight.set i { c with landed := assocSet c.landed b r.2.2.1 } }
/-- The beats of core k's copies of which a part has landed: the copy's place and the beat. -/
def partBeats (c : Core) : List (Nat × Nat) := (c.flight.zipIdx).flatMap fun p => p.1.landed.map fun l => (p.2, l.1)
/-- Whether a byte that `hit` names is among the bytes of beat b that have landed. -/
def landedOn (s : State) (c : Copy) (b : Nat) (hit : Nat → Bool) : Bool :=
  let w := engineAcc s c.rcd
  let (i, j, r) := beatAt c b
  match beatDest s w c ((cpRanks c).getD r 0) (cpRowAt c i + j) (min 64 (cpLen c - j)) with
  | .ok (l, _) => (l.zipIdx).any fun p => hit p.1.key && (landedOf c b).getLsbD p.2
  | .error _ => false
/-- A word of local memory about to be taken by an atomic: a copy's write that has reached some of its bytes reaches the others first, so
that it lands wholly before (R221). -/
def settleWord (s : State) (key n : Nat) : State :=
  if key < 2 ^ 49 then s
  else
    let hit := fun (x : Nat) => decide (key ≤ x) && decide (x < key + n)
    ((allCores s).flatMap fun c => (partBeats c).map fun p => (c.id, p)).foldl (fun acc x =>
      match (getCore acc x.1).flight[x.2.1]? with
      | none => acc
      | some c =>
        if landedOn acc c x.2.2 hit then
          match landBytes acc x.1 x.2.1 c x.2.2 fun _ y => hit y with
          | .ok t => t
          | .error _ => acc
        else acc) s

/-! ### Stopping (R47, R267) -/

/-- Copy i of core k run to the end of its current 4 KiB chunk and taken out; an access that stops ends it there. -/
def stopAtChunk (s : State) (k i : Nat) : Nat → State
  | 0 => s
  | n + 1 =>
    match (getCore s k).flight[i]? with
    | none => s
    | some c =>
      let out := fun (t : State) => copyGone (modCore t k fun x => { x with flight := dropAt x.flight i }) k c
      if copyEnded { c with cancelled := true } then out s
      else
        match finishBeat s k i c (firstBeat c) with
        | .ok t => stopAtChunk t k i n
        | .error _ => out s
/-- The copies of core k that `p` picks stopped at once: queued ones never start, those in flight end with their current chunk. -/
def endCopies (s : State) (k : Nat) (p : Copy → Bool) : State :=
  let c := getCore s k
  let s1 := (c.cq.filter p).foldl (fun acc x => copyGone acc k x) (modCore s k fun c => { c with cq := c.cq.filter fun x => !(p x) })
  c.flight.foldl (fun acc x =>
    if p x then
      match (getCore acc k).flight.findIdx? fun y => y.rcd == x.rcd && y.src == x.src && y.ctl == x.ctl with
      | some i => stopAtChunk acc k i (beatCount x + 1)
      | none => acc
    else acc) s1

end Sys2Proof.Machine
end

