-- ==== Sys2Proof/Machine/Formats.lean ====
section
/-!
DEFINITION. Sys2Proof/Machine/Formats.lean: the floating-point formats (R98), rounding (R99, R100) and exact arithmetic on
their values. A value is a NaN, an infinity, or an exact number m * 2^e with a sign, so every operation is exact until the one
rounding its entry names. The transcendental functions are formed in fixed point with 192 fraction bits before their rounding
(R205, R235; log 20).
-/
namespace Sys2Proof.Machine

/-- The floating-point formats of R98. -/
inductive Fmt where
  | f32 | b16 | h16 | e5 | e4 | f4
deriving DecidableEq, Repr

/-- Exponent bits, fraction bits and bias (R98). -/
def Fmt.ebits : Fmt → Nat
  | .f32 => 8 | .b16 => 8 | .h16 => 5 | .e5 => 5 | .e4 => 4 | .f4 => 2
def Fmt.fbits : Fmt → Nat
  | .f32 => 23 | .b16 => 7 | .h16 => 10 | .e5 => 2 | .e4 => 3 | .f4 => 1
def Fmt.bias : Fmt → Nat
  | .f32 => 127 | .b16 => 127 | .h16 => 15 | .e5 => 15 | .e4 => 7 | .f4 => 1
/-- The width of a format. -/
def Fmt.bits (f : Fmt) : Nat := 1 + f.ebits + f.fbits
/-- The largest finite magnitude pattern (R98). -/
def Fmt.maxFinite : Fmt → Nat
  | .f32 => 0x7F7FFFFF | .b16 => 0x7F7F | .h16 => 0x7BFF | .e5 => 0x7B | .e4 => 0x7E | .f4 => 0x7
/-- The canonical NaN (R100); a NaN converted to F4 is 0. -/
def Fmt.nan : Fmt → Nat
  | .f32 => 0x7FC00000 | .b16 => 0x7FC0 | .h16 => 0x7E00 | .e5 => 0x7E | .e4 => 0x7F | .f4 => 0
/-- What a positive result past the largest finite value becomes under rne (R99), sign aside; E4 gives its NaN. -/
def Fmt.inf : Fmt → Nat
  | .f32 => 0x7F800000 | .b16 => 0x7F80 | .h16 => 0x7C00 | .e5 => 0x7C | .e4 => 0x7F | .f4 => 0x7
/-- Whether the format has an infinity (R98). -/
def Fmt.hasInf : Fmt → Bool
  | .f32 | .b16 | .h16 | .e5 => true
  | .e4 | .f4 => false

/-- The format of a TYPE; the types that are no format read as F32 and are never used so. -/
def fmtOf : Ty → Fmt
  | .b16 => .b16 | .h16 => .h16 | .e4 => .e4 | .e5 => .e5 | .f4 => .f4
  | .f32 | .i8 | .n8 | .i16 | .n16 | .i32 | .n32 | .i64 | .n64 | .b4 | .b8 => .f32

/-- A floating-point value: NaN, an infinity, or (-1)^neg * mant * 2^exp. -/
inductive FVal where
  | nan
  | inf (neg : Bool)
  | fin (neg : Bool) (mant : Nat) (exp : Int)
deriving DecidableEq, Repr

/-- The value of a pattern (R98). -/
def fdecode (f : Fmt) (x : Nat) : FVal :=
  let e := field x f.fbits f.ebits
  let m := field x 0 f.fbits
  let neg := x.testBit (f.ebits + f.fbits)
  if f.hasInf ∧ e = 2 ^ f.ebits - 1 then (if m = 0 then .inf neg else .nan)
  else if f = .e4 ∧ e = 15 ∧ m = 7 then .nan
  else if e = 0 then .fin neg m (1 - (f.bias : Int) - f.fbits)
  else .fin neg (2 ^ f.fbits + m) ((e : Int) - f.bias - f.fbits)

/-- The pattern of a sign and a magnitude. -/
def withSign (f : Fmt) (neg : Bool) (u : Nat) : Nat := if neg then u + 2 ^ (f.ebits + f.fbits) else u

/-- m * 2^e rounded to a multiple of 2^q, to nearest with ties to even: the multiple. -/
def roundQuantum (m : Nat) (e q : Int) : Nat :=
  if q ≤ e then m * 2 ^ (e - q).toNat
  else
    let k := (q - e).toNat
    let n := m / 2 ^ k
    let r := m % 2 ^ k
    if 2 ^ k < 2 * r ∨ (2 * r = 2 ^ k ∧ n % 2 = 1) then n + 1 else n

/-- rne and rnes (R99): a sign and m * 2^e rounded to a format; `sat` gives the largest finite value where rne overflows. -/
def roundMag (f : Fmt) (sat neg : Bool) (m : Nat) (e : Int) : Nat :=
  if m = 0 then withSign f neg 0
  else
    let qmin : Int := 1 - (f.bias : Int) - f.fbits
    let q := max ((Nat.log2 m : Int) + e - f.fbits) qmin
    let u := (q - qmin).toNat * 2 ^ f.fbits + roundQuantum m e q
    if u ≤ f.maxFinite then withSign f neg u
    else if sat ∨ f = .f4 then withSign f neg f.maxFinite
    else if f = .e4 then f.nan
    else withSign f neg f.inf

/-- A value rounded to a format (R99, R100): rne, or rnes where `sat`. -/
def fround (f : Fmt) (sat : Bool) (v : FVal) : Nat :=
  match v with
  | .nan => f.nan
  | .inf neg => if sat ∨ f = .f4 then withSign f neg f.maxFinite else if f = .e4 then f.nan else withSign f neg f.inf
  | .fin neg m e => roundMag f sat neg m e

/-- The integer value of a finite value times 2^-e0, for e0 at most its exponent. -/
def scaled (neg : Bool) (m : Nat) (e e0 : Int) : Int :=
  let x : Int := ((m * 2 ^ (e - e0).toNat : Nat) : Int)
  if neg then -x else x

/-- The exact sum (R202): ∞ - ∞ is NaN, an exact zero is +0 unless both addends are -0. -/
def fadd (a b : FVal) : FVal :=
  match a, b with
  | .nan, _ => .nan
  | _, .nan => .nan
  | .inf x, .inf y => if x = y then .inf x else .nan
  | .inf x, .fin _ _ _ => .inf x
  | .fin _ _ _, .inf y => .inf y
  | .fin nx mx ex, .fin ny my ey =>
    let e := min ex ey
    let t := scaled nx mx ex e + scaled ny my ey e
    if t = 0 then .fin (mx == 0 && my == 0 && nx && ny) 0 e
    else .fin (decide (t < 0)) t.natAbs e

/-- The value with its sign inverted; a NaN stays. -/
def fneg : FVal → FVal
  | .nan => .nan
  | .inf n => .inf !n
  | .fin n m e => .fin (!n) m e

/-- The exact product (R202): 0 × ∞ is NaN. -/
def fmul (a b : FVal) : FVal :=
  match a, b with
  | .nan, _ => .nan
  | _, .nan => .nan
  | .inf x, .inf y => .inf (x != y)
  | .inf x, .fin n m _ => if m = 0 then .nan else .inf (x != n)
  | .fin n m _, .inf y => if m = 0 then .nan else .inf (n != y)
  | .fin nx mx ex, .fin ny my ey => .fin (nx != ny) (mx * my) (ex + ey)

/-- A quotient with 64 extra bits and a sticky bit, so that one rounding of it to F32 is the rounding of a / b (R202). -/
def fdiv (a b : FVal) : FVal :=
  match a, b with
  | .nan, _ => .nan
  | _, .nan => .nan
  | .inf _, .inf _ => .nan
  | .inf x, .fin n _ _ => .inf (x != n)
  | .fin n _ _, .inf y => .fin (n != y) 0 0
  | .fin nx mx ex, .fin ny my ey =>
    if my = 0 then (if mx = 0 then .nan else .inf (nx != ny))
    else
      let q := mx * 2 ^ 64 / my
      let r := mx * 2 ^ 64 % my
      .fin (nx != ny) (2 * q + if r = 0 then 0 else 1) (ex - ey - 65)

/-- The bits of a square root, from bit b down: r is the root so far. -/
def isqrtFrom (n : Nat) : Nat → Nat → Nat
  | 0, r => if (r + 1) * (r + 1) ≤ n then r + 1 else r
  | b + 1, r =>
    let c := r + 2 ^ (b + 1)
    isqrtFrom n b (if c * c ≤ n then c else r)
/-- The floor of the square root. -/
def isqrt (n : Nat) : Nat := isqrtFrom n (Nat.log2 n / 2 + 1) 0

/-- A square root with extra bits and a sticky bit (R202). -/
def fsqrt (a : FVal) : FVal :=
  match a with
  | .nan => .nan
  | .inf neg => if neg then .nan else .inf false
  | .fin neg m e =>
    if m = 0 then .fin neg 0 e
    else if neg then .nan
    else
      let odd := e % 2 = 1
      let n := (if odd then 2 * m else m) * 2 ^ 80
      let e' := if odd then e - 1 else e
      let r := isqrt n
      .fin false (2 * r + if r * r = n then 0 else 1) (e' / 2 - 41)

/-- 1 / √a with extra bits and a sticky bit (R235). -/
def frsqrt (a : FVal) : FVal :=
  match a with
  | .nan => .nan
  | .inf neg => if neg then .nan else .fin false 0 0
  | .fin neg m e =>
    if m = 0 then .inf neg
    else if neg then .nan
    else
      let odd := e % 2 = 1
      let n := if odd then 2 * m else m
      let e' := if odd then e - 1 else e
      let r := isqrt (2 ^ 160 / n)
      .fin false (2 * r + if r * r * n = 2 ^ 160 then 0 else 1) (-(e' / 2) - 81)

/-! ### 2^x and log2 x in fixed point (R205) -/

/-- Fraction bits of the fixed-point forms. -/
def fixBits : Nat := 192
/-- Σ of z^(2k+1) / (2k+1) for n terms, in fixed point: `p` is the present power, `z2` is z². -/
def atanhSum : Nat → Nat → Nat → Nat → Nat
  | 0, _, _, _ => 0
  | n + 1, k, p, z2 => p / (2 * k + 1) + atanhSum n (k + 1) (p * z2 / 2 ^ fixBits) z2
/-- The natural logarithm of num / den, 1 ≤ num / den ≤ 2, in fixed point. -/
def lnFix (num den : Nat) : Nat :=
  let z := (num - den) * 2 ^ fixBits / (num + den)
  2 * atanhSum 70 0 z (z * z / 2 ^ fixBits)
/-- ln 2 in fixed point. -/
def ln2Fix : Nat := lnFix 2 1
/-- Σ of x^k / k! for n terms, in fixed point. -/
def expSum : Nat → Nat → Nat → Nat → Nat
  | 0, _, _, _ => 0
  | n + 1, k, t, x => t + expSum n (k + 1) (t * x / 2 ^ fixBits / (k + 1)) x

/-- 2^a: exact for an integer a, else with a sticky bit; past the F32 range the limits of R205. -/
def fexp2 (a : FVal) : FVal :=
  match a with
  | .nan => .nan
  | .inf neg => if neg then .fin false 0 0 else .inf false
  | .fin neg m e =>
    if m = 0 then .fin false 1 0
    else
      let x := scaled neg m e (min e (-(fixBits : Int)))
      let d := (max (-e) (fixBits : Int)).toNat
      let n := x / ((2 ^ d : Nat) : Int)
      let f := (x % ((2 ^ d : Nat) : Int)).toNat
      if 128 ≤ n then .inf false
      else if n < -150 then .fin false 0 0
      else if f = 0 then (if n = -150 then .fin false 0 0 else .fin false 1 n)
      else
        let y := (f * 2 ^ fixBits / 2 ^ d) * ln2Fix / 2 ^ fixBits
        .fin false (2 * expSum 60 0 (2 ^ fixBits) y + 1) (n - fixBits - 1)

/-- log2 a: exact for a power of two, else with a sticky bit (R205). -/
def flog2 (a : FVal) : FVal :=
  match a with
  | .nan => .nan
  | .inf neg => if neg then .nan else .inf false
  | .fin neg m e =>
    if m = 0 then .inf true
    else if neg then .nan
    else
      let l := Nat.log2 m
      let k : Int := (l : Int) + e
      if m = 2 ^ l then .fin (decide (k < 0)) k.natAbs 0
      else
        let fr := lnFix m (2 ^ l) * 2 ^ fixBits / ln2Fix
        let v : Int := k * ((2 ^ fixBits : Nat) : Int) + (fr : Int)
        .fin (decide (v < 0)) (2 * v.natAbs + 1) (-(fixBits : Int) - 1)

/-! ### Integers -/

/-- The value of an integer. -/
def fofInt (x : Int) : FVal := .fin (decide (x < 0)) x.natAbs 0
/-- A finite value rounded to an integer: to nearest with ties to even, or truncated towards zero. -/
def toInteger (trunc neg : Bool) (m : Nat) (e : Int) : Int :=
  let n := if trunc then (if 0 ≤ e then m * 2 ^ e.toNat else m / 2 ^ (-e).toNat) else roundQuantum m e 0
  if neg then -(n : Int) else n
/-- FCVTFI and FCVTFIZ (R204): saturated to lo..hi, an infinity to the limit of its sign, a NaN to 0. -/
def ftoInt (trunc : Bool) (lo hi : Int) (v : FVal) : Int :=
  match v with
  | .nan => 0
  | .inf neg => if neg then lo else hi
  | .fin neg m e => clampInt lo hi (toInteger trunc neg m e)

/-! ### Comparison, minimum and maximum (R201, R203) -/

/-- Whether a is below b, for values that are no NaN. -/
def fless (a b : FVal) : Bool :=
  match a, b with
  | .nan, _ => false
  | _, .nan => false
  | .inf x, .inf y => x && !y
  | .inf x, .fin _ _ _ => x
  | .fin _ _ _, .inf y => !y
  | .fin nx mx ex, .fin ny my ey =>
    let e := min ex ey
    decide (scaled nx mx ex e < scaled ny my ey e)
/-- Whether a value is a NaN. -/
def FVal.isNan : FVal → Bool
  | .nan => true
  | .inf _ | .fin _ _ _ => false

/-- The order of patterns that are no NaN, with -0 below +0 (R203). -/
def orderKey (f : Fmt) (x : Nat) : Int :=
  let mag := x % 2 ^ (f.ebits + f.fbits)
  if x.testBit (f.ebits + f.fbits) then -(mag : Int) - 1 else mag
/-- FMIN (R203), on patterns. -/
def fminBits (f : Fmt) (a b : Nat) : Nat :=
  if (fdecode f a).isNan then (if (fdecode f b).isNan then f.nan else b)
  else if (fdecode f b).isNan then a
  else if orderKey f b < orderKey f a then b else a
/-- FMAX (R203), on patterns. -/
def fmaxBits (f : Fmt) (a b : Nat) : Nat :=
  if (fdecode f a).isNan then (if (fdecode f b).isNan then f.nan else b)
  else if (fdecode f b).isNan then a
  else if orderKey f a < orderKey f b then b else a
/-- FABS (R203). -/
def fabsBits (f : Fmt) (a : Nat) : Nat := if (fdecode f a).isNan then f.nan else a % 2 ^ (f.ebits + f.fbits)
/-- FNEG (R203). -/
def fnegBits (f : Fmt) (a : Nat) : Nat :=
  if (fdecode f a).isNan then f.nan
  else if a.testBit (f.ebits + f.fbits) then a % 2 ^ (f.ebits + f.fbits) else a % 2 ^ (f.ebits + f.fbits) + 2 ^ (f.ebits + f.fbits)

/-! ### Two-operand arithmetic on patterns, with the one rounding -/

def addBits (f : Fmt) (a b : Nat) : Nat := fround f false (fadd (fdecode f a) (fdecode f b))
def subBits (f : Fmt) (a b : Nat) : Nat := fround f false (fadd (fdecode f a) (fneg (fdecode f b)))
def mulBits (f : Fmt) (a b : Nat) : Nat := fround f false (fmul (fdecode f a) (fdecode f b))
def fmaBits (f : Fmt) (a b d : Nat) : Nat := fround f false (fadd (fmul (fdecode f a) (fdecode f b)) (fdecode f d))

/-- A pattern of one format rounded to another (R237). -/
def convert (src dst : Fmt) (sat : Bool) (x : Nat) : Nat := fround dst sat (fdecode src x)

/-- An F32 converted to B16 by stochastic rounding with a 16-bit random word (R114): the magnitude is truncated and moved one
unit away from zero when the word is below the 16 bits discarded; past the largest finite value that is the infinity. -/
def stochB16 (x rnd : Nat) : Nat :=
  match fdecode .f32 x with
  | .nan => Fmt.nan .b16
  | .inf neg => withSign .b16 neg (Fmt.inf .b16)
  | .fin neg _ _ =>
    let mag := x % 2 ^ 31
    withSign .b16 neg (mag / 2 ^ 16 + if rnd < mag % 2 ^ 16 then 1 else 0)

/-! ### Requantisation (R115, R116) -/

/-- mulhr(a, b). -/
def mulhr (a b : Int) : Int := clampInt (-(2 ^ 31)) (2 ^ 31 - 1) ((a * b + 2 ^ 30) / 2 ^ 31)
/-- rshr(x, s). -/
def rshr (x : Int) (s : Nat) : Int := if s = 0 then x else (x + 2 ^ (s - 1)) / 2 ^ s

end Sys2Proof.Machine
end

