-- ==== Sys2Proof/Machine/Types.lean ====
section
/-!
DEFINITION. Sys2Proof/Machine/Types.lean: the TYPEs (R97): their widths, and the integers that patterns hold at them (R182).
-/
namespace Sys2Proof.Machine

/-! ### Integer types (R97, R182) -/

/-- The width of a TYPE in bits; a 4-bit type occupies a lane of 8 bits (R52, R97). -/
def Ty.width : Ty → Nat
  | .i8 | .n8 | .e4 | .e5 | .f4 | .b4 | .b8 => 8
  | .i16 | .n16 | .b16 | .h16 => 16
  | .i32 | .n32 | .f32 => 32
  | .i64 | .n64 => 64
/-- Whether a TYPE is two's complement. -/
def Ty.signed : Ty → Bool
  | .i8 | .i16 | .i32 | .i64 => true
  | .n8 | .n16 | .n32 | .n64 | .f32 | .b16 | .h16 | .e4 | .e5 | .f4 | .b4 | .b8 => false
/-- The integer a pattern holds at a TYPE: its low w bits, signed or unsigned (R182). -/
def intAt (t : Ty) (x : Nat) : Int :=
  if Ty.signed t then signedOf (Ty.width t) (x % 2 ^ Ty.width t) else ((x % 2 ^ Ty.width t : Nat) : Int)
/-- The least value of an integer TYPE. -/
def tyMin (t : Ty) : Int := if Ty.signed t then -(2 ^ (Ty.width t - 1) : Nat) else 0
/-- The greatest value of an integer TYPE. -/
def tyMax (t : Ty) : Int := if Ty.signed t then (2 ^ (Ty.width t - 1) : Nat) - 1 else (2 ^ Ty.width t : Nat) - 1
/-- sat(x, T) of R6. -/
def satInt (t : Ty) (x : Int) : Int := clampInt (tyMin t) (tyMax t) x
/-- An integer result mod 2^w, extended to 64 bits: by sign for an I type, with zeros for an N type (R51, R182). -/
def extend (t : Ty) (x : Int) : Word :=
  let low := wrap (Ty.width t) x
  if Ty.signed t then BitVec.ofInt 64 (signedOf (Ty.width t) low) else BitVec.ofNat 64 low

end Sys2Proof.Machine
end

