-- ==== Sys2Proof/Machine/Blocks.lean ====
section
/-!
DEFINITION. Sys2Proof/Machine/Blocks.lean: block formats (R101 to R109), the sums of the matrix engine (R110 to R112) and the long
accumulator (R117 to R119). A block is the number its 64 bytes hold.
-/
namespace Sys2Proof.Machine

/-- The class of a block format code (R101). -/
inductive BlkClass where
  | either | b4 | b8
deriving DecidableEq, Repr

/-- The class of a code, or none for a code that is not in the table (R101). -/
def blkClass (fmt : Nat) : Option BlkClass :=
  if fmt = 0x00 then some .either
  else if fmt = 0x10 ∨ fmt = 0x11 then some .b4
  else if fmt = 0x20 ∨ fmt = 0x21 ∨ fmt = 0x22 then some .b8
  else none
/-- FMT of a block. -/
def blkFmt (x : Nat) : Nat := field x 0 8
/-- The check of a block read under a TYPE, B4 or B8 (R101, R103, R106): the fault, or none. -/
def blkCheck (t : Ty) (x : Nat) : Option FCode :=
  match blkClass (blkFmt x) with
  | none => some .blockFormat
  | some .either => none
  | some .b4 => if x.testBit 31 then some .blockFormat else if t = .b4 then none else some .blockMix
  | some .b8 => if t = .b8 then none else some .blockMix

/-- A UE4M3 block scale (R102). -/
def ue4m3 (b : Nat) : FVal :=
  let e := field b 3 4
  let m := field b 0 3
  if e = 0 then .fin false m (-9) else .fin false (8 + m) ((e : Int) - 10)

/-- c(n) of the Q4 codebook (R107). -/
def codebook : List Int := [-256, -179, -135, -102, -73, -48, -23, 0, 20, 41, 62, 85, 111, 142, 183, 256]
/-- The level of a code, c(n) / 256. -/
def codeLevel (n : Nat) : FVal :=
  let c := codebook.getD n 0
  .fin (decide (c < 0)) c.natAbs (-8)

/-- The number of elements of a block: 120 in a 4-bit block, 62 in an 8-bit one; a zero block has as many as its TYPE (R101). -/
def blkCount (t : Ty) : Nat := if t = .b4 then 120 else 62
/-- level_k or elem_k of R111: the code's level, the F4 value, or the E4, E5 or I8 element. -/
def blkElem (x j : Nat) : FVal :=
  let f := blkFmt x
  if f = 0x10 then codeLevel (field x (32 + 4 * j) 4)
  else if f = 0x11 then fdecode .f4 (field x (32 + 4 * j) 4)
  else if f = 0x20 then fdecode .e4 (field x (16 + 8 * j) 8)
  else if f = 0x21 then fdecode .e5 (field x (16 + 8 * j) 8)
  else fofInt (signedOf 8 (field x (16 + 8 * j) 8))
/-- 2^(-a_g) of a 4-bit block's element, 1 of an 8-bit block's, times the block scale (R103, R104). -/
def blkScale (x j : Nat) : FVal :=
  let sc := ue4m3 (field x 8 8)
  if blkClass (blkFmt x) = some .b4 then fmul (.fin false 1 (-(field x (16 + 3 * (j / 24)) 3 : Nat))) sc else sc

/-- An element of a block decoded to F32 with its super-scale (R105, R108, R239). -/
def blkDecode (t : Ty) (x j : Nat) (super : Nat) : Nat :=
  if blkFmt x = 0 ∨ blkCount t ≤ j then 0
  else fround .f32 false (fmul (fmul (blkElem x j) (blkScale x j)) (fdecode .f32 super))

/-- Twice the upper end of the interval of each code but the last (R107). -/
def codeEnds : List Int := [-435, -314, -237, -175, -121, -71, -23, 20, 61, 103, 147, 196, 253, 325, 439]
/-- Whether an F32 value is an infinity. -/
def FVal.isInf : FVal → Bool
  | .inf _ => true
  | .nan | .fin _ _ _ => false
/-- Whether an F32 value is zero. -/
def FVal.isZero : FVal → Bool
  | .fin _ m _ => m == 0
  | .nan | .inf _ => false
/-- Whether a value is below zero. -/
def FVal.isNeg : FVal → Bool
  | .fin n _ _ => n
  | .inf n => n
  | .nan => false
/-- VENCQ's code of a value under a full group scale (R109): 256 v / s against each interval's end, exactly. -/
def blkEncode (v s : FVal) : Nat :=
  if v.isNan || s.isNan || s.isZero || (v.isInf && s.isInf) then 7
  else
    (codeEnds.filter fun t =>
      let edge := fmul (.fin (decide (t < 0)) t.natAbs (-1)) s
      let x := fmul (.fin false 1 8) v
      if s.isNeg then fless x edge else fless edge x).length

/-! ### The matrix engine's sums (R110 to R112) -/

/-- K elements of one operation by A type (R110). -/
def kOf (ta : Ty) : Nat :=
  match ta with
  | .b16 | .h16 => 128
  | .b4 => 480
  | .b8 => 248
  | .i8 | .n8 | .i16 | .n16 | .i32 | .n32 | .i64 | .n64 | .f32 | .e4 | .e5 | .f4 => 256
/-- Bytes of a B element. -/
def bSize (tb : Ty) : Nat := Ty.width tb / 8
/-- -0, which adds nothing. -/
def noSum : FVal := .fin true 0 0
/-- The exact sum of products of two lists. -/
def dotF : List FVal → List FVal → FVal → FVal
  | a :: r, b :: t, acc => dotF r t (fadd acc (fmul a b))
  | _, _, acc => acc
/-- Whether an A type's K-row is made of blocks. -/
def isBlk (ta : Ty) : Bool := ta == .b4 || ta == .b8
/-- The value of a B element: an integer, or a format's. -/
def elemB (tb : Ty) (x : Nat) : FVal := if tb = .i8 then fofInt (signedOf 8 x) else fdecode (fmtOf tb) x

/-- The integer sum (R111). -/
def dotI (ta : Ty) : List Nat → List Nat → Int → Int
  | a :: r, b :: t, acc => dotI ta r t (acc + intAt ta a * intAt .i8 b)
  | _, _, acc => acc

/-- F32 sums over groups of g consecutive k, each group exact, rounded into acc (R111). -/
def groupSums (g : Nat) : Nat → List FVal → List FVal → Nat → Nat
  | 0, _, _, acc => acc
  | n + 1, a, b, acc =>
    groupSums g n (a.drop g) (b.drop g) (fround .f32 false (dotF (a.take g) (b.take g) (fdecode .f32 acc)))

/-- One scale group of a block: t := rne(scale × Σ, F32), acc := rne(acc + t, F32) (R111). -/
def scaleGroup (x lo n : Nat) (b : List FVal) (super : FVal) (acc : Nat) : Nat :=
  let sum := dotF ((List.range n).map fun i => blkElem x (lo + i)) b noSum
  let t := fround .f32 false (fmul (fmul (blkScale x lo) super) sum)
  addBits .f32 acc t
/-- One block of a K-row: five groups of 24, or one of 62; a zero block is skipped (R112). `b` holds the B column from the
block's first k on. -/
def blockSum (ta : Ty) (x : Nat) (b : List FVal) (super : FVal) (acc : Nat) : Nat :=
  if blkFmt x = 0 then acc
  else if ta = .b4 then
    (List.range 5).foldl (fun a g => scaleGroup x (24 * g) 24 ((b.drop (24 * g)).take 24) super a) acc
  else scaleGroup x 0 62 (b.take 62) super acc
/-- The four blocks of a K-row. -/
def blockSums (ta : Ty) (super : FVal) : List Nat → List FVal → Nat → Nat
  | [], _, acc => acc
  | x :: r, b, acc => blockSums ta super r (b.drop (blkCount ta)) (blockSum ta x b super acc)

/-- A number's consecutive elements of w bits from bit 0 up. -/
def chunks (w n x : Nat) : List Nat := (List.range n).map fun i => field x (w * i) w

/-- One accumulator entry after one K-row and one B column (R111): `row` is the K-row's 2,048 bits, `col` the column's elements
in increasing k, `super` the row's super-scale. -/
def accumulate (ta tb : Ty) (row : Nat) (col : List Nat) (super : Nat) (acc : Nat) : Nat :=
  if ta = .i8 ∨ ta = .n8 then wrap 32 (dotI ta (chunks 8 256 row) col (acc : Int))
  else if isBlk ta then blockSums ta (fdecode .f32 super) (chunks 512 4 row) (col.map (elemB tb)) acc
  else if ta = .b16 ∨ ta = .h16 then
    groupSums 8 16 ((chunks 16 128 row).map (fdecode (fmtOf ta))) (col.map (elemB tb)) acc
  else groupSums 16 16 ((chunks 8 256 row).map (fdecode (fmtOf ta))) (col.map (elemB tb)) acc

/-- The first block fault of a K-row and its index (R106). -/
def rowFault (ta : Ty) (row : Nat) : Option (FCode × Nat) :=
  ((chunks 512 4 row).zipIdx).findSome? fun p => (blkCheck ta p.1).map fun c => (c, p.2)

/-! ### The long accumulator (R117 to R119), a number below 2^640 -/

/-- Bits [639:638] = 01. -/
def longPoisoned (n : Nat) : Bool := field n 638 2 == 1
/-- LWADD (R118, R241) on patterns at a TYPE. -/
def longAdd (t : Ty) (n x y : Nat) : Nat :=
  if longPoisoned n then n
  else
    match fdecode (fmtOf t) x, fdecode (fmtOf t) y with
    | .fin nx mx ex, .fin ny my ey =>
      wrap 640 ((n : Int) + scaled (nx != ny) (mx * my) (ex + ey) (-298))
    | _, _ => n % 2 ^ 576 + 0x4000000000000000 * 2 ^ 576
/-- LRND (R119). -/
def longRound (n : Nat) : Nat :=
  if longPoisoned n then 0x7FC00000
  else
    let v := signedOf 640 n
    fround .f32 false (.fin (decide (v < 0)) v.natAbs (-298))

end Sys2Proof.Machine
end

