-- ==== Sys2Proof/Machine/MatrixWork.lean ====
section
/-!
DEFINITION. Sys2Proof/Machine/MatrixWork.lean: what the matrix engine's commands do (spec/12 R256 to R261; R37, R87, R110 to R112, R116),
for the events of EvEngine.lean and for the end of work (R47).
-/
namespace Sys2Proof.Machine

/-- The cores of a gang (R36). -/
def gangCores (g : Gang) : List Nat := (List.range (2 ^ g.log)).map fun i => g.base + i
/-- Whether a generic address lies in the local window and names core k itself: P = 0, or P = 1 with the own rank where `peer` (R74). -/
def namesOwn (k : Nat) (a : Word) (peer : Bool) : Bool :=
  let la := a.toNat - localBase
  decide (localBase ≤ a.toNat) && decide (la < 2 ^ 24) && (!(la.testBit 23) || (peer && field la 20 3 == rankOf k))
/-- Where `n` bytes at a generic address lie in core k's own local memory. -/
def ownLocal (k : Nat) (a : Word) (n : Nat) (peer : Bool) : Option Nat :=
  let la := a.toNat - localBase
  if namesOwn k a peer && decide (la % 2 ^ 20 + n ≤ 2 ^ 19) then some (la % 2 ^ 20) else none

/-! ### The accumulator store (R87) -/

/-- An entry of the accumulator store. -/
def accGet (l : List (Nat × BitVec 32)) (k : Nat) : BitVec 32 := (assocGet l k).getD 0
/-- A value put into the store at its place among rising numbers. -/
def accPut : List (Nat × BitVec 32) → Nat → BitVec 32 → List (Nat × BitVec 32)
  | [], k, x => [(k, x)]
  | p :: r, k, x => if k ≤ p.1 then (k, x) :: (if k = p.1 then r else p :: r) else p :: accPut r k x
/-- The store with one entry written, kept rising and without zero entries. -/
def accSet (l : List (Nat × BitVec 32)) (k : Nat) (x : BitVec 32) : List (Nat × BitVec 32) :=
  if x = 0 then l.filter fun p => p.1 != k else accPut l k x
/-- The number of an entry. -/
def accKey (row col : Nat) : Nat := 256 * row + col

/-! ### Placement (R257) -/

/-- ROW0, CBLK and NBLK of a placement word. -/
def row0 (d : Word) : Nat := field d.toNat 0 7
def cblk (d : Word) : Nat := field d.toNat 8 3
def nblk (d : Word) : Nat := field d.toNat 11 3
/-- The placement of a command that reaches `width` column blocks from CBLK. -/
def placed (m : MatrixCmd) (width : Nat) : Bool :=
  !(m.rcd.d.getLsbD 7) && decide (row0 m.rcd.d + m.hm1 + 1 ≤ 128) && decide (cblk m.rcd.d + width ≤ 8)

/-! ### What a command does -/

/-- A fault of a matrix command: its code and address. -/
abbrev MFault := FCode × Word

/-- Where an engine's operand of n bytes lies in its core's own local memory (R258, R259, R261), checked in the order of R72. -/
def engineLocal (k : Nat) (a : Word) (n align : Nat) : Except MFault Nat :=
  match checkWindow a n align with
  | .error (.fault c x) => .error (c, x)
  | .error _ => .error (.lmAddr, a)
  | .ok _ =>
    match ownLocal k a n true with
    | some off => .ok off
    | none => .error (.lmAddr, a)
/-- Bytes of core k's local memory. -/
def localBytes (m : List Host.Cell) (k off n : Nat) : List Byte := (List.range n).map fun i => memGet m (localKey k (off + i))
/-- Bytes of core k's local memory as a number. -/
def localNat (m : List Host.Cell) (k off n : Nat) : Nat := memRead m (localKey k off) n

/-- MLDA's tile (R258): K x 32 elements. -/
def tileSize (ta tb : Ty) : Nat := kOf ta * 32 * bSize tb
/-- Column c of a tile, as patterns in increasing k. -/
def tileCol (l : Latch) (c : Nat) : List Nat :=
  (List.range (kOf l.ta)).map fun k => ofBytes ((l.tile.drop ((32 * k + c) * bSize l.tb)).take (bSize l.tb))
/-- Whether a latch serves an operation (R258). -/
def latchFits (l : Option Latch) (ta tb : Ty) : Bool :=
  match l with
  | some x => x.ta == ta && x.tb == tb
  | none => false

/-- The K-rows and super-scales of a command, checked (R259, R106): row i's bits and super-scale. -/
def matrixRows (m : List Host.Cell) (k : Nat) (ta : Ty) (cmd : MatrixCmd) : Except MFault (List (Nat × Nat)) := do
  let h := cmd.hm1 + 1
  let a ← engineLocal k cmd.rcd.a (256 * h) 64
  let rows := (List.range h).map fun i => localNat m k (a + 256 * i) 256
  if isBlk ta then
    let b ← engineLocal k cmd.rcd.b (4 * h) 4
    match (rows.zipIdx).findSome? fun p => (rowFault ta p.1).map fun f => (f.1, 256 * p.2 + 64 * f.2) with
    | some (c, o) => .error (c, cmd.rcd.a + BitVec.ofNat 64 o)
    | none => .ok ((rows.zipIdx).map fun p => (p.1, localNat m k (b + 4 * p.2) 4))
  else .ok (rows.map fun r => (r, 0))

/-- The products of the rows with one tile, added into one column block (R259, R111). -/
def accBlock (acc : List (Nat × BitVec 32)) (l : Latch) (rows : List (Nat × Nat)) (r0 blk : Nat) : List (Nat × BitVec 32) :=
  (List.range 32).foldl (fun acc c =>
    let col := tileCol l c
    (rows.zipIdx).foldl (fun acc p =>
      let key := accKey (r0 + p.2) (32 * blk + c)
      accSet acc key (BitVec.ofNat 32 (accumulate l.ta l.tb p.1.1 col p.1.2 (accGet acc key).toNat))) acc) acc

/-- The entries of an accumulator copy, row by row (R261): each row's from its first block on. -/
def copyEntries (cmd : MatrixCmd) : List Nat :=
  (List.range (cmd.hm1 + 1)).flatMap fun i =>
    (List.range (32 * (nblk cmd.rcd.d + 1))).map fun j => accKey (row0 cmd.rcd.d + i) (32 * cblk cmd.rcd.d + j)
/-- MSTQ's element (R116). -/
def requant (x : BitVec 32) (mult : Int) (shift : Nat) : Nat :=
  wrap 8 (clampInt (-128) 127 (rshr (mulhr x.toInt mult) shift))
/-- The bytes an accumulator copy writes for an entry (R261). -/
def entryBytes (op : MOp) (b : Word) (x : BitVec 32) : List Byte :=
  match op with
  | .mstq => toBytes 1 (requant x (signedOf 32 (field b.toNat 0 32)) (field b.toNat 32 5))
  | .mstb => toBytes 2 (convert .f32 .b16 false x.toNat)
  | _ => toBytes 4 x.toNat

/-- An accumulator copy to memory (R261): its placement and B are checked before its address (log 112). -/
def copyOut (s : State) (k : Nat) (cmd : MatrixCmd) : Except MFault State := do
  if !(placed cmd (nblk cmd.rcd.d + 1)) then .error (.engineCmd, 0)
  else if cmd.op = .mstq ∧ field cmd.rcd.b.toNat 37 27 ≠ 0 then .error (.engineCmd, 0)
  else
    let bytes := (copyEntries cmd).flatMap fun e => entryBytes cmd.op cmd.rcd.b (accGet (getCore s k).acc e)
    let off ← engineLocal k cmd.rcd.a bytes.length 16
    .ok { s with mem := memSetAll s.mem (bytes.zipIdx.map fun p => (localKey k (off + p.2), p.1)) }
/-- MLDC and MZERO. -/
def copyIn (s : State) (k : Nat) (cmd : MatrixCmd) : Except MFault State := do
  if !(placed cmd (nblk cmd.rcd.d + 1)) then .error (.engineCmd, 0)
  else
    let es := copyEntries cmd
    if cmd.op = .mzero then
      .ok (modCore s k fun c => { c with acc := es.foldl (fun acc e => accSet acc e 0) c.acc })
    else
      let off ← engineLocal k cmd.rcd.a (4 * es.length) 16
      .ok (modCore s k fun c => { c with
        acc := es.zipIdx.foldl (fun acc p => accSet acc p.1 (BitVec.ofNat 32 (localNat s.mem k (off + 4 * p.2) 4))) c.acc })

/-- MMA (R259). -/
def multiply (s : State) (k : Nat) (ta tb : Ty) (cmd : MatrixCmd) : Except MFault State := do
  match (getCore s k).latch with
  | none => .error (.engineCmd, 0)
  | some l =>
    if !(placed cmd 1) || decide (nblk cmd.rcd.d ≠ 0) || !(latchFits (some l) ta tb) then .error (.engineCmd, 0)
    else
      let rows ← matrixRows s.mem k ta cmd
      .ok (modCore s k fun c => { c with acc := accBlock c.acc l rows (row0 cmd.rcd.d) (cblk cmd.rcd.d) })

/-- A command other than MGANG performed on core k. -/
def performMatrix (s : State) (k : Nat) (cmd : MatrixCmd) : Except MFault State :=
  match cmd.op with
  | .mlda tb ta => do
    let off ← engineLocal k cmd.rcd.a (tileSize ta tb) 64
    .ok (modCore s k fun c => { c with latch := some ⟨tb, ta, localBytes s.mem k off (tileSize ta tb)⟩ })
  | .mma ta tb => multiply s k ta tb cmd
  | .mstf | .mstq | .mstb => copyOut s k cmd
  | .mzero | .mldc => copyIn s k cmd
  | .mgang _ _ => .ok s

/-! ### MGANG (R260) -/

/-- One member's share: its rows against every member's tile, in the order of its steps. -/
def gangShare (s : State) (ta : Ty) (latches : List Latch) (k : Nat) (cmd : MatrixCmd) : Except MFault State := do
  let g := latches.length
  let rows ← matrixRows s.mem k ta cmd
  .ok (modCore s k fun c =>
    { c with acc := (List.range g).foldl (fun acc i =>
        let t := (cmd.member + g - i) % g
        match latches[t]? with
        | some l => accBlock acc l rows (row0 cmd.rcd.d) (cblk cmd.rcd.d + t)
        | none => acc) c.acc })
/-- The check of one member's copy: its placement and latch, which a first command of another context finds cleared (R258), and the same
operation as the others'. -/
def gangFits (s : State) (ta tb : Ty) (hm1 g : Nat) (k : Nat) (cmd : MatrixCmd) : Bool :=
  cmd.op == .mgang ta tb && cmd.hm1 == hm1 && placed cmd g && nblk cmd.rcd.d == 0
    && latchFits (if cmd.zero then none else (getCore s k).latch) ta tb
/-- Every member's share, lowest member first. -/
def gangAll (s : State) (ta : Ty) (latches : List Latch) : List (Nat × MatrixCmd) → Except (OpRec × MFault) State
  | [] => .ok s
  | (k, m) :: r =>
    match gangShare s ta latches k m with
    | .error f => .error (m.rcd, f)
    | .ok s1 => gangAll s1 ta latches r

/-- The types of a gang operation. -/
def gangTypes (m : MatrixCmd) : Option (Ty × Ty) :=
  match m.op with
  | .mgang ta tb => some (ta, tb)
  | .mlda _ _ | .mma _ _ | .mzero | .mstf | .mstq | .mstb | .mldc => none
/-- The operations of a multiplication, counted for its launch: two for each multiply-accumulate (R314). -/
def tallyMatrix (s : State) (m : MatrixCmd) (g : Nat) : State :=
  let n := match m.op with
    | .mma ta _ | .mgang ta _ => 2 * 32 * kOf ta * (m.hm1 + 1) * g
    | .mlda _ _ | .mzero | .mstf | .mstq | .mstb | .mldc => 0
  modLaunch s m.rcd.ctx m.rcd.lid fun l => { l with ops := l.ops + n }

/-! ### The end of an operation -/

/-- A command's end: the engine is free, and the command is counted out of its launch (R155). -/
def matrixGone (s : State) (k : Nat) (m : MatrixCmd) : State :=
  countDown (modCore s k fun c => { c with mrun := none }) m.rcd.ctx m.rcd.lid 1
/-- The gang operation running on every core of a gang performed (R260), and the fault of one of its commands. -/
def finishGang (s : State) (g : Gang) (ta : Ty) : State × Option (OpRec × MFault) :=
  let l := (gangCores g).filterMap fun j => (getCore s j).mrun.map fun m => (j, m)
  let latches := l.filterMap fun p => (getCore s p.1).latch
  let s1 := l.foldl (fun acc p => matrixGone acc p.1 p.2) s
  match gangAll s1 ta latches l with
  | .ok s2 => (l.foldl (fun acc p => tallyMatrix acc p.2 latches.length) s2, none)
  | .error e => (s1, some e)
/-- The running operation of core k performed (log 16), with its gang's where it is one, and the fault it ends in. -/
def finishMatrix (s : State) (k : Nat) : State × Option (OpRec × MFault) :=
  match (getCore s k).mrun with
  | none => (s, none)
  | some m =>
    match gangTypes m, m.gang with
    | some (ta, _), some g => finishGang s g ta
    | _, _ =>
      match performMatrix s k m with
      | .ok s1 => (tallyMatrix (matrixGone s1 k m) m 1, none)
      | .error f => (matrixGone s k m, some (m.rcd, f))

end Sys2Proof.Machine
end

