-- ==== Sys2Proof/Machine/Ops.lean ====
section
/-!
DEFINITION. Sys2Proof/Machine/Ops.lean: the named operations over the state: trace records, the journal and the fault queue, ending a
launch, the machine check, taking a fault, moving the PC, taking a trap and returning from one. Instructions and events are written over
these.
-/
namespace Sys2Proof.Machine

/-! ### The hub's cycle count, VFSTATE, and trace records -/

/-- VFSTATE [31:0] of a cluster (R65). -/
def vfstate (c : Cluster) : BitVec 32 :=
  railCode c.rail ++ c.vcode ++ c.fstep ++ (if c.gen then 1#1 else 0#1) ++ (if c.locking then 1#1 else 0#1) ++ 0#9
/-- The header word of a trace record (R374). -/
def traceHeader (cyc : Word) (core : BitVec 11) (kind len : BitVec 4) : Word :=
  cyc.extractLsb' 0 36 ++ 0#1 ++ core ++ kind ++ len ++ 0xC4#8
/-- Whether cluster c writes records of a kind (R376, R377): bit `en` of EN, or a running capture for the kinds it takes. -/
def traces (c : Cluster) (en : Nat) (inCapture : Bool) : Bool := c.en.getLsbD en || (c.capt && inCapture)
/-- A record of core k with its words after VFSTATE, put on the way to its cluster's buffer (R374 to R376). -/
def traceRec (s : State) (k : Nat) (kind : BitVec 4) (words : List Word) : State :=
  let c := getCluster s (clusterOf k)
  let hdr := traceHeader c.cycle (BitVec.ofNat 11 k) kind (BitVec.ofNat 4 (words.length + 2))
  { s with traceQ := s.traceQ ++ [⟨c.buf, hdr :: (vfstate c).zeroExtend 64 :: words⟩] }

/-! ### The command journal (R131, R132) -/

/-- The slot key of the entry of a sequence number. -/
def journalSlot (s : State) (seq : Word) : Nat :=
  s.hub.journal.base.toNat + 32 * (seq.toNat % s.hub.journal.entries)
/-- Whether the entry a new sequence number would overwrite is still accepted or started (R131). -/
def journalBusy (s : State) : Bool :=
  let j := s.hub.journal
  j.live.any fun e => e.1.toNat + j.entries == j.nextSeq.toNat
/-- One 32-byte entry written, with WAKELOST as its LOST field (R130, R131). -/
def journalWrite (s : State) (digest : BitVec 128) (ctx : CtxId) (q : BitVec 4) (st : BitVec 2) (status : BitVec 16) (evt : Bool) :
    State :=
  let j := s.hub.journal
  let up := s.hub.apertureUp
  let low : BitVec 64 := status ++ st ++ ctx ++ q ++ (if up then s.hub.wakeLost else 0) ++ (if evt then 1#1 else 0#1) ++ 0#15
  let entry : BitVec 256 := digest ++ j.nextSeq ++ low
  let s1 := if j.entries = 0 then s else putNum s (journalSlot s j.nextSeq) 32 entry.toNat
  { s1 with hub := { s.hub with wakeLost := if up then 0 else s.hub.wakeLost, journal := { j with nextSeq := j.nextSeq + 1 } } }
/-- Waiting event entries written while their slots are free (R132). -/
def journalFlushN (s : State) : Nat → State
  | 0 => s
  | n + 1 =>
    match s.hub.journal.events with
    | [] => s
    | e :: r =>
      if journalBusy s then s
      else
        let s1 := { s with hub := { s.hub with journal := { s.hub.journal with events := r } } }
        journalFlushN (journalWrite s1 0 e.1 0 2 e.2 true) n
/-- Every waiting event entry that can be written, written. -/
def journalFlush (s : State) : State := journalFlushN s s.hub.journal.events.length
/-- An event entry, which waits behind earlier ones (R132). -/
def journalEvent (s : State) (ctx : CtxId) (status : BitVec 16) : State :=
  journalFlush { s with hub := { s.hub with journal := { s.hub.journal with events := s.hub.journal.events ++ [(ctx, status)] } } }
/-- A command may be accepted: no event entry waits, and its slot is free (R131, R132). -/
def journalReady (s : State) : Bool := s.hub.journal.events.isEmpty && !journalBusy s
/-- The entry of an accepted command written; its sequence number is the journal's next. -/
def journalAccept (s : State) (digest : BitVec 128) (ctx : CtxId) (q : BitVec 4) : State :=
  let seq := s.hub.journal.nextSeq
  let s1 := journalWrite s digest ctx q 0 0 false
  { s1 with hub := { s1.hub with journal := { s1.hub.journal with live := (seq, ctx, q) :: s1.hub.journal.live } } }
/-- STATE and STATUS of an entry rewritten (R131). -/
def journalMark (s : State) (seq : Word) (st : BitVec 2) (status : BitVec 16) : State :=
  let j := s.hub.journal
  if j.entries = 0 then s
  else
    let a := journalSlot s seq
    let old := BitVec.ofNat 64 (memRead s.mem a 8)
    let new : BitVec 64 := status ++ st ++ old.extractLsb' 0 46
    putNum s a 8 new.toNat
/-- A command's entry in state started (R131). -/
def journalStart (s : State) (seq : Option Word) : State :=
  match seq with
  | some q => journalMark s q 1 0
  | none => s
/-- A command's entry ended: retired (2) or faulted (3), with its STATUS; it no longer holds its slot (R131). -/
def journalEnd (s : State) (seq : Option Word) (st : BitVec 2) (status : BitVec 16) : State :=
  match seq with
  | some q =>
    let s1 := journalMark s q st status
    journalFlush { s1 with hub := { s1.hub with journal :=
      { s1.hub.journal with live := s1.hub.journal.live.filter fun e => e.1 != q } } }
  | none => s

/-! ### Fault records, guilt and bars (R129, R160, R324) -/

/-- The contents of a fault record (R324). -/
structure FaultRec where
  pc : BitVec 56
  cause : BitVec 8
  lid : Lid
  actid : BitVec 32
  stepno : BitVec 32
  core : BitVec 11
  imp : Bool
  unit : BitVec 3
  cyc : BitVec 17
  addr : Word
  op0 : Word
  op1 : Word
  op2 : Word
  op3 : Word
deriving DecidableEq, Repr

/-- The 512 bits of a fault record (R324). -/
def FaultRec.bits (r : FaultRec) : BitVec 512 :=
  r.op3 ++ r.op2 ++ r.op1 ++ r.op0 ++ r.addr ++ r.cyc ++ r.unit ++ (if r.imp then 1#1 else 0#1) ++ r.core ++ r.stepno ++
    r.actid ++ r.lid ++ r.cause ++ r.pc

/-- A record appended to the context's fault queue, or dropped when it is full (R129). -/
def appendRecord (s : State) (ctx : CtxId) (r : FaultRec) : State :=
  match getCtx s ctx with
  | none => s
  | some c =>
    let size := 2 ^ c.faultLsize.toNat
    if size ≤ (c.faultWr - c.faultRd).toNat then
      modCtx s ctx fun c => { c with faultDrop := satAdd c.faultDrop 1 }
    else
      let slot := c.faultBase.toNat + 64 * (c.faultWr.toNat % size)
      modCtx (putNum s slot 64 r.bits.toNat) ctx fun c => { c with faultWr := c.faultWr + 1 }

/-- One more guilt; past the limit every queue of the context is barred (R160). -/
def addGuilt (s : State) (ctx : CtxId) : State :=
  modCtx s ctx fun c =>
    let g := satAdd c.guilt 1
    let bar := decide (c.guiltLimit.toNat < g.toNat)
    { c with guilt := g, queues := c.queues.map fun q => { q with barred := q.barred || bar } }

/-- ERRSTAT of a queue set (R126). -/
def setErr (s : State) (ctx : CtxId) (q : BitVec 4) (e : BitVec 16) : State :=
  modQueue s ctx q fun x => { x with errstat := e }

/-! ### Ending a launch (R47, R48) -/

/-- Whether a task belongs to a launch. -/
def TaskInfo.ofLaunch (t : TaskInfo) (ctx : CtxId) (lid : Lid) : Bool := t.ctx == ctx && t.lid == lid

/-- A channel whose message is no longer wanted: beats vanish as they arrive, and a message that has arrived whole frees it
(R32). -/
def dropChannel (c : Channel) : Option Channel :=
  if c.arrived = c.hdr.len.toNat ∧ c.waiting = false then none else some { c with discard := true, beats := [], waiting := false }

/-- What a running task leaves when it ends: its message's remaining beats are discarded (R32), its loop is off (R188), and a trap of its own
that has not been entered goes with it (R22). -/
def clearTask (c : Core) : Core :=
  match c.task with
  | none => c
  | some t =>
    { c with
      task := none, blocked := none, loop := { c.loop with on := false }, loopBuf := [], ibuf := [], early := [],
      svcq := c.svcq.filter fun r => !r.own,
      sending := none, invalidating := none, watchResult := none, trapDue := none, atBarrier := false, cutAck := none, cutGoal := none,
      lastEntry := t.info.entry.extractLsb' 0 56, lastAct := t.actid,
      chans := match t.info.chan with
        | none => c.chans
        | some n => c.chans.set n.val (c.chans[n.val].filterMap fun ch => if some ch.hdr = t.info.msg then dropChannel ch else some ch) }

/-- The rings, routes and clamps of the launches that a test picks are released (R133, R134, R144). -/
def releaseTables (gone : CtxId × Lid → Bool) (c : Core) : Core :=
  let owned := fun (i : Fin 16) => match c.ringOwners[i] with | some o => gone o | none => false
  { c with
    rings := Vector.ofFn fun i => if owned i then { c.rings[i] with valid := false } else c.rings[i]
    ringOwners := Vector.ofFn fun i => if owned i then none else c.ringOwners[i]
    ringDecls := c.ringDecls.filter fun o => !(gone o)
    routes := c.routes.filter fun r => !(gone (r.ctx, r.lid))
    clamps := c.clamps.map fun k => if gone (k.ctx, k.lid) then { k with valid := false } else k }
/-- What a core drops of a launch that ends (R47): queued entries, the running task, queued engine commands, which go unperformed (R122,
R124), a sweep; its rings, routes and clamps are released. -/
def endOnCore (ctx : CtxId) (lid : Lid) (c : Core) : Core :=
  let c1 := match c.task with
    | some t => if t.info.ofLaunch ctx lid then clearTask c else c
    | none => c
  let mine := fun (r : OpRec) => r.ctx == ctx && r.lid == lid
  releaseTables (fun o => o == (ctx, lid)) { c1 with
    runq := c1.runq.filter fun e => !(e.task.ofLaunch ctx lid)
    deque := c1.deque.filter fun t => !(t.ofLaunch ctx lid)
    vq := c1.vq.filter fun m => !(m.ctx == ctx && m.lid == lid)
    mq := c1.mq.filter fun m => !(mine m.rcd)
    cq := c1.cq.filter fun m => !(mine m.rcd)
    kq := c1.kq.filter fun m => match m with | .decl _ r => !(mine r) | .sweep _ r => !(mine r)
    sweep := match c1.sweep with | some w => if mine w.rcd then none else some w | none => none
    chans := c1.chans.map fun l => l.filterMap fun ch =>
      if ch.ctx = ctx ∧ ch.lid = lid ∧ ch.clamp = none then dropChannel ch else some ch
    reserved := match c1.reserved with
      | some r => if r.ctx = ctx ∧ r.lid = lid then none else some r
      | none => none }

/-- The matrix operation of core k whose record `mine` names runs to its end, and its copies stop at the ends of their chunks (R47). -/
def stopEngines (s : State) (k : Nat) (mine : OpRec → Bool) : State :=
  let s1 := match (getCore s k).mrun with
    | some m => if mine m.rcd then (finishMatrix s k).1 else s
    | none => s
  endCopies s1 k fun x => mine x.rcd
/-- Core k's part in the end of a launch that is still at work there: the stores of its running task are performed at SYS (R301), and its
engine commands stop (R47). -/
def stopWork (ctx : CtxId) (lid : Lid) (s : State) (k : Nat) : State :=
  let s1 := match (getCore s k).task with
    | some t => if t.info.ofLaunch ctx lid then release s k .sys else s
    | none => s
  stopEngines s1 k fun r => r.ctx == ctx && r.lid == lid

/-- The entry of a launch or graph taken out of the stores (R127). -/
def dropPending (s : State) (ctx : CtxId) (ident : BitVec 32) (isGraph : Bool) : State :=
  { s with stores := s.stores.map fun l => l.filter fun p => !(p.ctx == ctx && p.ident == ident && p.isGraph == isGraph) }

/-- A launch leaves the levels above it (R46): its graph's, its phase's and its job's counter. -/
def leaveLevels (s : State) (l : Launch) (fault : Option (BitVec 16)) : State :=
  let s1 := match l.graph with
    | some g => modGraph s l.ctx g fun x => { x with count := x.count - 1, faultSeen := x.faultSeen.or fault }
    | none => s
  let less := fun (p : Phase) => if l.phase = some p.num then { p with count := p.count - 1 } else p
  let s2 := modCtx s1 l.ctx fun c => { c with phases := c.phases.map less }
  modQueue s2 l.ctx l.queue fun q => { q with count := q.count - 1 }

/-- The cores on which a launch has a task, or one that waits there to start. -/
def launchCores (s : State) (ctx : CtxId) (lid : Lid) : List Nat :=
  ((allCores s).filter fun c =>
    (c.task.any fun t => t.info.ofLaunch ctx lid) || (c.runq.any fun e => e.task.ofLaunch ctx lid) || c.deque.any fun t => t.ofLaunch ctx lid).map Core.id
/-- Cores held for any unit of the entry that pre-empted to free them, as long as it is in its store (R317). -/
def claimCores (s : State) (st : Nat) (w : CtxId × Lid) (l : List Nat) : State :=
  let hold := fun (c : Core) => if c.reserved.isNone then { c with reserved := some ⟨st, w.1, w.2, none⟩ } else c
  if (s.stores[st]?.getD []).any fun e => !e.isGraph && e.ctx == w.1 && e.ident == w.2 then l.foldl (fun acc k => modCore acc k hold) s else s
/-- The cores of a launch that ends inside a pre-emption's cut go to the entry that pre-empted it (R317). -/
def claimFreed (ctx : CtxId) (lid : Lid) (cores : List Nat) (s : State) : State :=
  (s.cuts.flatMap fun c => c.claims.filter fun x => x.2.2.2.contains (ctx, lid)).foldl (fun acc x => claimCores acc x.1 (x.2.1, x.2.2.1) cores) s
/-- A launch retired (R46, R47, R131): its work stopped, out of the levels above it, its journal entry ended, no longer listed. -/
def retireLaunch (s : State) (l : Launch) (st : BitVec 2) (status : BitVec 16) : State :=
  let s0 := ((allCores s).map Core.id).foldl (stopWork l.ctx l.lid) s
  let s1 := mapCores s0 (endOnCore l.ctx l.lid)
  let s2 := claimFreed l.ctx l.lid (launchCores s l.ctx l.lid) (dropPending s1 l.ctx l.lid false)
  let s3 := leaveLevels s2 l (if st = 3 then some status else none)
  let s4 := journalEnd s3 l.jseq st status
  { s4 with launches := s4.launches.filter fun x => !(x.ctx == l.ctx && x.lid == l.lid) }

/-- The first fault of a launch: its record, its guilt, ERRSTAT and the end of the launch (R48, R129, R323). A fault of a
launch that is no longer listed writes nothing. -/
def faultLaunch (s : State) (ctx : CtxId) (r : FaultRec) (c : FCode) : State :=
  match getLaunch s ctx r.lid with
  | none => s
  | some l =>
    let s1 := appendRecord s ctx r
    let s2 := if c = .machineCheck then s1 else addGuilt s1 ctx
    let s3 := setErr s2 ctx l.queue 1
    retireLaunch s3 l 3 (c.code.zeroExtend 16)

/-- The record of a precise fault of the focus core's task (R324): OP0 to OP3 are zero. -/
def preciseRec (s : State) (t : Task) (pc : Word) (c : FCode) (u : UnitCode) (addr : Word) : FaultRec :=
  { pc := pc.extractLsb' 0 56, cause := c.code, lid := t.info.lid, actid := t.actid, stepno := t.stepno,
    core := BitVec.ofNat 11 s.core.id, imp := false, unit := u.code,
    cyc := (getCluster s (clusterOf s.core.id)).cycle.extractLsb' 0 17, addr := addr, op0 := 0, op1 := 0, op2 := 0, op3 := 0 }
/-- The record of an imprecise fault of an engine command (R245, R324). -/
def impreciseRec (s : State) (o : OpRec) (c : FCode) (u : UnitCode) (addr : Word) : FaultRec :=
  { pc := o.pc.extractLsb' 0 56, cause := c.code, lid := o.lid, actid := o.actid, stepno := o.stepno,
    core := BitVec.ofNat 11 o.core, imp := true, unit := u.code,
    cyc := (getCluster s (clusterOf o.core)).cycle.extractLsb' 0 17, addr := addr, op0 := o.d, op1 := o.a, op2 := o.a2, op3 := o.b }
/-- Whether the code's faults are imprecise whoever finds them (R323). -/
def FCode.imprecise : FCode → Bool
  | .engineCmd | .stepMismatch | .machineCheck => true
  | .illegalInsn | .illegalOperand | .align | .windowNone | .windowStraddle | .lmAddr | .pageInvalid | .pagePerm | .paramUnbound
  | .ringMisuse | .blockFormat | .blockMix | .hang | .dramAsleep => false
/-- The record of a fault found by a hub unit or a walker (R323, R324): no core, the hub's cycle count. -/
def hubRec (s : State) (pc : BitVec 56) (lid : Lid) (c : FCode) (u : UnitCode) (addr : Word) : FaultRec :=
  { pc := pc, cause := c.code, lid := lid, actid := 0, stepno := 0, core := 0x7FF, imp := c.imprecise, unit := u.code,
    cyc := s.hub.cycle.extractLsb' 0 17, addr := addr, op0 := 0, op1 := 0, op2 := 0, op3 := 0 }

/-! ### Machine checks (R326) -/

/-- A context killed (R305, R326): unperformed stores and dirty bytes discarded, its launches and graphs ended with MACHINE_CHECK and no
guilt, its copies stopped as under CANCEL, its queues barred. -/
def killContext (s : State) (ctx : CtxId) : State :=
  let s1 := mapCores s fun c =>
    { c with storeBuf := c.storeBuf.filter fun p => p.ctx != ctx
             l1 := c.l1.filter fun l => !(l.ctx == ctx && l.st == .rd) }
  let s2 := modCtx { s1 with graphs := s1.graphs.map fun g => if g.ctx = ctx then { g with ended := some (3, 0x20) } else g } ctx fun c =>
    { c with queues := c.queues.map fun q => { q with barred := true } }
  (s2.launches.filter fun l => l.ctx == ctx).foldl
    (fun acc l => faultLaunch acc ctx (hubRec acc 0 l.lid .machineCheck .scalar 0) .machineCheck) s2

/-- Core k halts at once and its machine-check block is filled: FCODE by a check of source 9 alone. -/
def haltCore (s : State) (k : Nat) (src : BitVec 8) (bank : BitVec 16) (fcode : BitVec 8) (synd addr : Word) : State :=
  let cyc := (getCluster s (clusterOf k)).cycle
  modCore s k fun c =>
    { c with halted := true, bank := .user, blocked := none
             mcb := { c.mcb with
               valid := true, src := src, bank := bank, fcode := if src = 9 then fcode else c.mcb.fcode
               synd := synd, maddr := addr, mcyc := cyc } }
/-- A machine check on core k: the core halts, its block is filled, and the context that owns it, or whose access failed, is killed. -/
def machineCheck (s : State) (k : Nat) (src : BitVec 8) (bank : BitVec 16) (fcode : BitVec 8) (synd addr : Word) (ctx : CtxId) :
    State :=
  killContext (haltCore s k src bank fcode synd addr) ctx

/-! ### Taking a fault -/

/-- A fault of what runs on the focus core (R321, R323): a service task's is a machine check with SRC 9 (R326); a coal
handler's ends the sweep's launch as a fault of the rake (R42); the user task's ends its launch, precisely, at `pc`. An access that no
route is left for is a machine check of the core, source 7 (R18). -/
def raiseAt (s : State) (pc : Word) (u : UnitCode) (c : FCode) (addr : Word) : State :=
  if c = .machineCheck then machineCheck s s.core.id 7 0 0 0 addr (curWork s).1
  else
  match s.core.bank with
  | .service => machineCheck s s.core.id 9 0 c.code 0 addr (curCtx s)
  | .coal =>
    match s.core.sweep with
    | some w => faultLaunch s w.rcd.ctx (impreciseRec s w.rcd c .rake addr) c
    | none => s
  | .user =>
    match s.core.task with
    | some t => faultLaunch s t.info.ctx (preciseRec s t pc c u addr) c
    | none => s

/-- A fault of the instruction at the PC. -/
def raise (s : State) (u : UnitCode) (c : FCode) (addr : Word) : State := raiseAt s s.core.pc u c addr

/-- A fault of an engine command (R245), or the machine check of an access of it that no route is left for (R18). -/
def raiseEngine (s : State) (o : OpRec) (u : UnitCode) (c : FCode) (addr : Word) : State :=
  if c = .machineCheck then machineCheck s o.core 7 0 0 0 addr o.ctx else faultLaunch s o.ctx (impreciseRec s o c u addr) c

/-- The running task stands in a wait: nothing else changes, and its instruction is tried again (R22). -/
def standIn (s : State) (w : Wait) : State := onCore s fun c => { c with blocked := some w }

/-- The 64-byte submission entry of a command (R369), as NVMe lays it out (log 54): opcode 2 reads and 1 writes, the namespace, the frame as the
one data pointer, the first logical block, and the number of blocks less one. -/
def submission (n : Nvme) (m : PageMove) : Nat :=
  (if m.out then 1 else 2) + n.nextCid.toNat * 2 ^ 16 + n.ns.toNat * 2 ^ 32 + m.frame.toNat * 2 ^ 208 + m.lba.toNat * 2 ^ 320
    + (65536 / n.block - 1) * 2 ^ 384
/-- The frame that the cold-page engine takes for a fetch: one of LPDDR-6, which the spec leaves to it (log 53). -/
def freeFrame (n : Nat) : BitVec 32 := BitVec.ofNat 32 ((freeWord n).toNat % 0xC00000)
/-- The cold-page engine's command i, if it is among the depth - 1 that may be outstanding and has not been issued: its entry is written and the
doorbell rung (R369). -/
def issueMove (s : State) (i : Nat) : State :=
  match s.hub.nvme, s.hub.moves[i]? with
  | some n, some m =>
    if m.cid.isSome ∨ n.depth ≤ i + 1 then s
    else
      let x := { m with cid := some n.nextCid, frame := if m.out then m.frame else freeFrame s.free }
      let tail := (n.tail + 1) % n.depth
      { putNum s (n.sq.toNat + 64 * n.tail) 64 (submission n x) with
        free := s.free + 1
        hub := { s.hub with moves := s.hub.moves.set i x
                            nvme := some { n with tail := tail, rang := BitVec.ofNat 32 tail, nextCid := n.nextCid + 1 } } }
  | _, _ => s
/-- Every command of the engine that may be outstanding issued, in order (R121, R369). -/
def pumpMoves (s : State) : State := (List.range s.hub.moves.length).foldl issueMove s

/-- A fetch of a cold page asked for; an access to a page already being fetched joins that fetch (R95). -/
def askFetch (s : State) (m : PageMove) (w : Waiter) : State :=
  let join := fun (f : PageMove) => if f.out = false ∧ f.at_ = m.at_ ∧ ¬ (w ∈ f.waiters) then { f with waiters := f.waiters ++ [w] } else f
  if s.hub.moves.any (fun f => !f.out && f.at_ == m.at_) then { s with hub := { s.hub with moves := s.hub.moves.map join } }
  else pumpMoves { s with hub := { s.hub with moves := s.hub.moves ++ [{ m with waiters := [w] }] } }
/-- Who waits where the focus core's access meets a cold page: what the instruction at `pc` would fault as. -/
def coreWaiter (s : State) (u : UnitCode) (pc addr : Word) : Waiter :=
  match s.core.bank, s.core.sweep with
  | .coal, some w => .engine .rake w.rcd none addr
  | _, _ => .core s.core.id (match s.core.task with | some t => t.actid | none => 0) (s.core.bank == .service) u pc addr
/-- A channel asked out of self-refresh (R353). -/
def askChannel (s : State) (ch : Nat) : State :=
  if ch ∈ s.hub.wanted then s else { s with hub := { s.hub with wanted := s.hub.wanted ++ [ch] } }
/-- What the focus core does when an operation of the instruction at `pc` stops: its fault, or its wait, after what its translations left. -/
def stopAt (s : State) (pc : Word) (u : UnitCode) (e : Stop) : State :=
  match e with
  | .fault c a => raiseAt s pc u c a
  | .wait w => standIn s w
  | .cold m => standIn (askFetch s m (coreWaiter s u pc m.va)) .coldPage
  | .asleep ch => standIn (askChannel s ch) .memory
  | .after t x => stopAt t pc u x

/-- What an instruction's operation ends in, as the next state: its effect, its fault, or its wait. -/
def settle (s : State) (u : UnitCode) (r : Eff State) : State :=
  match r with
  | .ok s' => s'
  | .error e => stopAt s s.core.pc u e

/-! ### Moving the PC -/

/-- The PC moved on by the instruction at the old PC. -/
def toPc (s : State) (pc : Word) : State := onCore s fun c => { c with srcPc := c.pc, pc := pc, blocked := none, early := [] }

/-- The instruction after this one (R163), with the end of a loop iteration (R188); a coal handler's is counted (R42). -/
def advance (s : State) : State :=
  match s.core.bank with
  | .coal => onCore s fun c => { c with coal := { c.coal with pc := c.coal.pc + 12, ran := c.coal.ran + 1 } }
  | .service => toPc s (s.core.pc + 12)
  | .user =>
    let next := s.core.pc + 12
    let l := s.core.loop
    if l.on ∧ next = l.stop then
      if l.rem = 1 then onCore (toPc s next) fun c => { c with loop := { c.loop with rem := 0, on := false }, loopBuf := [] }
      else onCore (toPc s l.start) fun c => { c with loop := { c.loop with rem := c.loop.rem - 1 } }
    else toPc s next

/-- A taken branch or jump (R186, R188): to an address outside the body it ends the loop; a service task has no loop. -/
def jumpTo (s : State) (target : Word) : State :=
  let l := s.core.loop
  if s.core.bank = .user ∧ l.on ∧ ¬ (l.start.toNat ≤ target.toNat ∧ target.toNat < l.stop.toNat) then
    onCore (toPc s target) fun c => { c with loop := { c.loop with on := false }, loopBuf := [] }
  else toPc s target

/-! ### Taking a trap and returning from one (R55, R57, R64, R287) -/

/-- A byte of the focus core's own local memory, as stores still in its buffer leave it. -/
def ownByte (s : State) (off : Nat) : Byte := viewByte s.mem s.core ⟨localKey s.core.id off, false⟩
/-- `n` bytes of the focus core's own local memory as a number. -/
def ownRead (s : State) (off n : Nat) : Nat := ofBytes ((List.range n).map fun i => ownByte s (off + i))

/-- The 64-bit words of a bank from a local record: word i at bytes 8i to 8i + 7, word 0 kept zero (R55, R141). -/
def recordGlobals (s : State) (off : Nat) : Vector Word 8 :=
  Vector.ofFn fun i => if i.val = 0 then 0 else BitVec.ofNat 64 (ownRead s (off + 8 * i.val) 8)

/-- A trap may be raised when a reserved service entry is free (R25). -/
def svcRoom (s : State) : Bool := decide (s.core.svcq.length < 4)
/-- A trap of the user task's own instruction is entered before any service task that waits (R322). -/
def raiseOwn (s : State) (r : SvcReq) : State := onCore s fun c => { c with svcq := r :: c.svcq }

/-- Entering the service bank for a trap (R55, R64): TRAPPC is the PC the trap names, or the interrupted task's next one; the whole address at
which the task stands, and the instruction that produced it, are kept for ERET (log 34); the trap registers and the bank are set, and
the PC is the pinned handler's entry. -/
def takeTrap (s : State) (r : SvcReq) (p : Pin) : State :=
  let gs := recordGlobals s p.record.toNat
  onCore s fun c =>
    { c with
      bank := .service
      svc := { w := (Vector.replicate 24 0).set 0 r.info, link := 0, g := gs, p := predsZero, cause := r.cause, tcode := r.tcode,
               trapPc := (r.pc.getD c.pc).extractLsb' 0 56, resume := some c.pc, resumeSrc := c.srcPc, trapInfo := r.info,
               launchScratch := none, hadTask := c.task.isSome }
      srcPc := p.entry.zeroExtend 64
      pc := p.entry.zeroExtend 64
      blocked := none
      early := [] }

/-- ERET (R287): the user's bank again, where the task stood, or at the PC that SWR has put into TRAPPC (log 34), which then counts as the
instruction that produced it (R164; log 34); the trap registers read zero in user tasks. -/
def returnTrap (s : State) : State :=
  onCore s fun c =>
    let written := c.svc.trapPc.zeroExtend 64
    { c with bank := .user, pc := c.svc.resume.getD written, blocked := none, early := []
             srcPc := match c.svc.resume with | some _ => c.svc.resumeSrc | none => written
             trapDue := match c.svc.resume with | some _ => c.trapDue | none => none
             svc := { c.svc with launchScratch := none } }

end Sys2Proof.Machine
end

