-- ==== Sys2Proof/WellFormed.lean ====
section
/-!
DEFINITION. Sys2Proof/WellFormed.lean: what the type of an instruction leaves open and the spec's encoding tables forbid: the
TYPE lists, the COUNT ranges, register pairs and quads, the guard GN = 1 with GP = 0, the accepted matrix pairs, and the types
of a long immediate (R167, R168, R170 and the tables of spec/10 to spec/12).
-/
namespace Sys2Proof

/-- GN = 1 with GP = 0 is no guard (R168). -/
def Hdr.wf (h : Hdr) : Bool := !(h.gn && h.gp == 0)

/-! The TYPE lists of the encoding tables. -/

/-- "all" of R195 and R227. -/
def tyAll : List Ty := [.i8, .n8, .i16, .n16, .i32, .n32, .i64, .n64]
/-- "I" of R195 and R227. -/
def tyI : List Ty := [.i8, .i16, .i32, .i64]
/-- "N" of R195 and R227. -/
def tyN : List Ty := [.n8, .n16, .n32, .n64]
/-- The integer side of FCVTIF, FCVTFI and FCVTFIZ (R202). -/
def tyCvt : List Ty := [.i32, .n32, .i64, .n64]
/-- The data types of a load or store (R206). -/
def tyMem : List Ty := [.i8, .n8, .i16, .n16, .i32, .n32, .i64, .n64, .f32]
/-- The types of an atomic (R218). -/
def tyA : List Ty := [.i32, .n32, .i64, .n64]
/-- The types of AMIN and AMAX (R218). -/
def tyAI : List Ty := [.i32, .i64]
/-- The types of AMINN and AMAXN (R218). -/
def tyAN : List Ty := [.n32, .n64]
/-- The types of VMACW and VDOT4 (R227). -/
def tyB8i : List Ty := [.i8, .n8]
/-- The types of VNARS and VWID (R227). -/
def tyNarI : List Ty := [.i8, .i16, .i32]
/-- The types of VNARN and VWIDN (R227). -/
def tyNarN : List Ty := [.n8, .n16, .n32]
/-- The floating-point lane formats (R233), also the sources of the conversions to 8 and 4 bits (R237). -/
def tyFv : List Ty := [.f32, .b16, .h16]
/-- The integer side of VCVTFI and VCVTIF (R233). -/
def tyC32 : List Ty := [.i32, .n32]
/-- The sources of VWIDF (R233). -/
def tyWidf : List Ty := [.b16, .h16, .e4, .e5, .f4]
/-- The block types (R239, R246). -/
def tyBlk : List Ty := [.b4, .b8]
/-- The types of LWADD (R233). -/
def tyLw : List Ty := [.f32, .b16]
/-- The data types of the vector memory instructions (R246). -/
def tyData : List Ty := [.i8, .n8, .i16, .n16, .i32, .n32, .i64, .n64, .f32, .b16, .h16, .e4, .e5]
/-- The types of VSRED and VSMAC (R252). -/
def tyStr : List Ty := [.i32, .n32, .f32]

/-- The parts of a conversion to an 8-bit lane: the ratio of the lane widths (R237). -/
def cvtParts (t : Ty) : Nat := if t = .f32 then 4 else 2
/-- The parts of VWIDF (R237). -/
def widfParts (t : Ty) : Nat := if t = .b16 || t = .h16 then 2 else 4
/-- The parts of VDECQ (R239). -/
def decqParts (t : Ty) : Nat := if t = .b4 then 8 else 4

/-- The pairs (A type, B type) the matrix engine accepts (R256, R111). -/
def mmaPair (ta tb : Ty) : Bool :=
  match ta, tb with
  | .i8, .i8 | .n8, .i8 | .e4, .e4 | .e4, .e5 | .e5, .e4 | .e5, .e5 | .b16, .b16 | .h16, .h16
  | .b4, .i8 | .b4, .b16 | .b8, .i8 | .b8, .b16 => true
  | _, _ => false

/-- B of MMA and MGANG is a register exactly when the A type is a block type (R256). -/
def superScaleWf (ta : Ty) (b : Option WG) : Bool := b.isSome == (ta == .b4 || ta == .b8)

/-- A vector register number that may head a pair (R53, VLD2). -/
def vEven (d : V) : Bool := d.val % 2 == 0
/-- A vector register number that may head a quad (R53, VMACW). -/
def vQuad (d : V) : Bool := d.val % 4 == 0
/-- A register that heads a w/g pair (R220, R243): even, and so at most w22 or g6. -/
def WG.isPair : WG → Bool
  | .w n => n.val % 2 == 0
  | .g n => n.val % 2 == 0
/-- The ring handle of RADVC and RADVP names no slot offset (R251). -/
def Ring.offZero (q : Ring) : Bool := q.o == 0
/-- The ring handle of RSTAT names no slot offset and one slot (R251). -/
def Ring.statOk (q : Ring) : Bool := q.o == 0 && (q.kf == 0 || q.kf == 1)
/-- COUNT of VLD2: 1 to 63 with a register address, 0 with a ring handle (R248). -/
def vld2Count (a : WGQ) (k : BitVec 6) : Bool :=
  match a with
  | .reg _ => k != 0
  | .ring _ => k == 0
/-- ORD and SCOPE of SEND and SENDL: RLX with CORE, or REL (R252). -/
def sendOrd (ord : Ord) (sc : Scope) : Bool :=
  match ord with
  | .rlx => sc == .core
  | .rel => true
  | .acq | .ar => false
/-- The range of LOOP's M (R188): 2 to 65 as a signed offset. -/
def loopRange (off : BitVec 20) : Bool := decide (2 ≤ off.toNat) && decide (off.toNat ≤ 65)

/-- With a long immediate the instruction operates at I64 (R167). -/
def longTy (t : Ty) (b : WGIL) : Bool :=
  match b with
  | .long _ => t == .i64
  | .reg _ | .imm _ => true
/-- With a long immediate ICMP operates at I64 or N64 (R167). -/
def icmpLongTy (t : Ty) (b : WGIL) : Bool :=
  match b with
  | .long _ => t == .i64 || t == .n64
  | .reg _ | .imm _ => true

/-- Whether SWR may name the register: access RW or RP (R62). -/
def SReg.writable : SReg → Bool
  | .launch | .wstack | .wspill | .trappc | .link | .stallbank | .stalleng => true
  | .core | .rank | .clus | .die | .island | .ctxid | .actid | .entry | .arg | .msgtag | .msgsrc | .msglen | .stepno
  | .trapcause | .trapinfo | .cycle | .vfstate | .caps | .msimg => false

/-- Whether SWR of the register is privileged: access RP (R62). -/
def SReg.isRP : SReg → Bool
  | .launch | .wstack | .wspill | .trappc => true
  | .link | .stallbank | .stalleng | .core | .rank | .clus | .die | .island | .ctxid | .actid | .entry | .arg | .msgtag
  | .msgsrc | .msglen | .stepno | .trapcause | .trapinfo | .cycle | .vfstate | .caps | .msimg => false

/-- An instruction some word encodes. A device event has no operand the spec encodes, and nothing to check. -/
def Instr.wf : Instr → Bool
  | .illegal _ => true
  | .nop h => h.wf
  | .br h _ => h.wf
  | .brz h _ _ => h.wf
  | .brnz h _ _ => h.wf
  | .brdec h _ _ => h.wf
  | .jmp h _ => h.wf
  | .call h _ => h.wf
  | .callr h _ => h.wf
  | .ret h => h.wf
  | .loop h off _ => h.wf && loopRange off
  | .lbrk h => h.wf
  | .fork h _ _ _ _ => h.wf
  | .join h _ => h.wf
  | .endTask h => h.wf
  | .step h => h.wf
  | .trap h _ => h.wf
  | .iadd h t _ _ b => h.wf && longTy t b && tyAll.contains t
  | .isub h t _ _ _ => h.wf && tyAll.contains t
  | .iadds h t _ _ _ => h.wf && tyAll.contains t
  | .isubs h t _ _ _ => h.wf && tyAll.contains t
  | .ineg h t _ _ => h.wf && tyAll.contains t
  | .iabs h t _ _ => h.wf && tyI.contains t
  | .imin h t _ _ _ => h.wf && tyI.contains t
  | .imax h t _ _ _ => h.wf && tyI.contains t
  | .iminn h t _ _ _ => h.wf && tyN.contains t
  | .imaxn h t _ _ _ => h.wf && tyN.contains t
  | .iand h t _ _ b => h.wf && longTy t b && tyAll.contains t
  | .ior h t _ _ b => h.wf && longTy t b && tyAll.contains t
  | .ixor h t _ _ b => h.wf && longTy t b && tyAll.contains t
  | .iandn h t _ _ _ => h.wf && tyAll.contains t
  | .ishl h t _ _ _ => h.wf && tyAll.contains t
  | .ishr h t _ _ _ => h.wf && tyN.contains t
  | .isar h t _ _ _ => h.wf && tyI.contains t
  | .irot h t _ _ _ => h.wf && tyAll.contains t
  | .iext h _ _ _ _ => h.wf
  | .iextn h _ _ _ _ => h.wf
  | .iins h _ _ _ _ => h.wf
  | .icnt h t _ _ _ => h.wf && tyN.contains t
  | .imov h t _ b => h.wf && longTy t b && tyAll.contains t
  | .isel h t _ _ _ _ => h.wf && tyAll.contains t
  | .imul h t _ _ _ => h.wf && tyAll.contains t
  | .imulh h t _ _ _ => h.wf && tyI.contains t
  | .imulhn h t _ _ _ => h.wf && tyN.contains t
  | .imad h t _ _ _ => h.wf && tyAll.contains t
  | .idiv h t _ _ _ => h.wf && tyI.contains t
  | .idivn h t _ _ _ => h.wf && tyN.contains t
  | .irem h t _ _ _ => h.wf && tyI.contains t
  | .iremn h t _ _ _ => h.wf && tyN.contains t
  | .ilea h _ _ _ _ => h.wf
  | .idxt h _ _ _ => h.wf
  | .icmp h t _ _ _ b => h.wf && icmpLongTy t b && tyAll.contains t
  | .fcmp h _ _ _ _ => h.wf
  | .pand h _ _ _ => h.wf
  | .por h _ _ _ => h.wf
  | .pxor h _ _ _ => h.wf
  | .pnot h _ _ => h.wf
  | .pget h _ _ => h.wf
  | .pset h _ _ => h.wf
  | .pfirst h _ _ => h.wf
  | .pcnt h _ _ => h.wf
  | .fadd h _ _ _ => h.wf
  | .fsub h _ _ _ => h.wf
  | .fmul h _ _ _ => h.wf
  | .ffma h _ _ _ => h.wf
  | .fdiv h _ _ _ => h.wf
  | .fsqrt h _ _ => h.wf
  | .fmin h _ _ _ => h.wf
  | .fmax h _ _ _ => h.wf
  | .fabs h _ _ => h.wf
  | .fneg h _ _ => h.wf
  | .fcvtif h t _ _ => h.wf && tyCvt.contains t
  | .fcvtfi h t _ _ => h.wf && tyCvt.contains t
  | .fcvtfiz h t _ _ => h.wf && tyCvt.contains t
  | .frcp h _ _ => h.wf
  | .fexp2 h _ _ => h.wf
  | .flog2 h _ _ => h.wf
  | .ld h t _ _ _ => h.wf && tyMem.contains t
  | .st h t _ _ _ => h.wf && tyMem.contains t
  | .ldl h t _ _ _ => h.wf && tyMem.contains t
  | .stl h t _ _ _ => h.wf && tyMem.contains t
  | .ldpw h t _ _ _ => h.wf && tyMem.contains t
  | .pref h _ _ => h.wf
  | .zline h _ _ => h.wf
  | .wbline h _ _ => h.wf
  | .invline h _ _ => h.wf
  | .aadd h t _ _ _ _ _ => h.wf && tyA.contains t
  | .amin h t _ _ _ _ _ => h.wf && tyAI.contains t
  | .amax h t _ _ _ _ _ => h.wf && tyAI.contains t
  | .aminn h t _ _ _ _ _ => h.wf && tyAN.contains t
  | .amaxn h t _ _ _ _ _ => h.wf && tyAN.contains t
  | .aand h t _ _ _ _ _ => h.wf && tyA.contains t
  | .aor h t _ _ _ _ _ => h.wf && tyA.contains t
  | .axor h t _ _ _ _ _ => h.wf && tyA.contains t
  | .aswp h t _ _ _ _ _ => h.wf && tyA.contains t
  | .acas h t _ _ d _ _ => h.wf && tyA.contains t && d.isPair
  | .ldacq h t _ _ _ _ => h.wf && tyMem.contains t
  | .strel h t _ _ _ _ => h.wf && tyMem.contains t
  | .fence h ord _ => h.wf && ord != .rlx
  | .waita h _ _ _ _ => h.wf
  | .gbar h => h.wf
  | .vadd h t _ _ _ => h.wf && tyAll.contains t
  | .vsub h t _ _ _ => h.wf && tyAll.contains t
  | .vadds h t _ _ _ => h.wf && tyI.contains t
  | .vaddsn h t _ _ _ => h.wf && tyN.contains t
  | .vsubs h t _ _ _ => h.wf && tyAll.contains t
  | .vmul h t _ _ _ => h.wf && tyAll.contains t
  | .vmulh h t _ _ _ => h.wf && tyAll.contains t
  | .vmulhr h _ _ _ => h.wf
  | .vmad h t _ _ _ => h.wf && tyAll.contains t
  | .vmacw h t d _ _ => h.wf && tyB8i.contains t && vQuad d
  | .vdot4 h t _ _ _ => h.wf && tyB8i.contains t
  | .vmin h t _ _ _ => h.wf && tyI.contains t
  | .vmax h t _ _ _ => h.wf && tyI.contains t
  | .vminn h t _ _ _ => h.wf && tyN.contains t
  | .vmaxn h t _ _ _ => h.wf && tyN.contains t
  | .vabs h t _ _ => h.wf && tyI.contains t
  | .vand h t _ _ _ => h.wf && tyAll.contains t
  | .vor h t _ _ _ => h.wf && tyAll.contains t
  | .vxor h t _ _ _ => h.wf && tyAll.contains t
  | .vshl h t _ _ _ => h.wf && tyAll.contains t
  | .vshr h t _ _ _ => h.wf && tyN.contains t
  | .vsar h t _ _ _ => h.wf && tyI.contains t
  | .vrshr h t _ _ _ => h.wf && tyI.contains t
  | .vnars h t p _ _ => h.wf && tyNarI.contains t && decide (p.toNat < 2)
  | .vnarn h t p _ _ => h.wf && tyNarN.contains t && decide (p.toNat < 2)
  | .vwid h t p _ _ => h.wf && tyNarI.contains t && decide (p.toNat < 2)
  | .vwidn h t p _ _ => h.wf && tyNarN.contains t && decide (p.toNat < 2)
  | .vcmp h t _ _ _ _ => h.wf && tyAll.contains t
  | .vsel h t _ _ _ _ => h.wf && tyAll.contains t
  | .vsplat h t _ _ => h.wf && tyAll.contains t
  | .vperm h t _ _ _ => h.wf && tyAll.contains t
  | .vslide h t _ _ _ => h.wf && tyAll.contains t
  | .viota h t _ _ => h.wf && tyAll.contains t
  | .vredadd h t _ _ => h.wf && tyAll.contains t
  | .vredmax h t _ _ => h.wf && tyAll.contains t
  | .vredmin h t _ _ => h.wf && tyAll.contains t
  | .vmovs h t _ _ _ => h.wf && tyAll.contains t
  | .vclr h t _ => h.wf && tyAll.contains t
  | .vfadd h t _ _ _ => h.wf && tyFv.contains t
  | .vfsub h t _ _ _ => h.wf && tyFv.contains t
  | .vfmul h t _ _ _ => h.wf && tyFv.contains t
  | .vffma h t _ _ _ => h.wf && tyFv.contains t
  | .vfmin h t _ _ _ => h.wf && tyFv.contains t
  | .vfmax h t _ _ _ => h.wf && tyFv.contains t
  | .vfabs h t _ _ => h.wf && tyFv.contains t
  | .vfneg h t _ _ => h.wf && tyFv.contains t
  | .vfrcp h _ _ => h.wf
  | .vfrsq h _ _ => h.wf
  | .vfexp2 h _ _ => h.wf
  | .vflog2 h _ _ => h.wf
  | .vfcmp h t _ _ _ _ => h.wf && tyFv.contains t
  | .vfradd h _ _ => h.wf
  | .vfrmax h _ _ => h.wf
  | .vcvtfi h t _ _ => h.wf && tyC32.contains t
  | .vcvtif h t _ _ => h.wf && tyC32.contains t
  | .vcvtfb h p _ _ => h.wf && decide (p.toNat < 2)
  | .vcvtfbs h p _ _ => h.wf && decide (p.toNat < 2)
  | .vcvtfh h p _ _ => h.wf && decide (p.toNat < 2)
  | .vcvte4s h t p _ _ => h.wf && tyFv.contains t && decide (p.toNat < (cvtParts t))
  | .vcvte4o h t p _ _ => h.wf && tyFv.contains t && decide (p.toNat < (cvtParts t))
  | .vcvte5s h t p _ _ => h.wf && tyFv.contains t && decide (p.toNat < (cvtParts t))
  | .vcvte5o h t p _ _ => h.wf && tyFv.contains t && decide (p.toNat < (cvtParts t))
  | .vcvtf4s h t p _ _ => h.wf && tyFv.contains t && decide (p.toNat < (cvtParts t))
  | .vwidf h t p _ _ => h.wf && tyWidf.contains t && decide (p.toNat < (widfParts t))
  | .vdecq h t p _ _ _ => h.wf && tyBlk.contains t && decide (p.toNat < (decqParts t))
  | .vencq h p _ _ _ => h.wf && decide (p.toNat < 4)
  | .lwadd h t _ _ _ => h.wf && tyLw.contains t
  | .lrnd h _ _ => h.wf
  | .lclr h _ => h.wf
  | .vld h t _ _ _ => h.wf && tyData.contains t
  | .vld2 h t k d a _ => h.wf && tyData.contains t && vld2Count a k && vEven d
  | .vst h t _ _ _ => h.wf && tyData.contains t
  | .vlds h t _ _ _ => h.wf && tyData.contains t
  | .vsts h t _ _ _ => h.wf && tyData.contains t
  | .vgath h t _ _ _ => h.wf && tyData.contains t
  | .vscat h t _ _ _ => h.wf && tyData.contains t
  | .vldb h t _ _ _ => h.wf && tyBlk.contains t
  | .radvc h a => h.wf && a.offZero
  | .radvp h a => h.wf && a.offZero
  | .rstat h _ a => h.wf && a.statOk
  | .send h ord sc _ _ => h.wf && sendOrd ord sc
  | .sendl h ord sc _ _ _ => h.wf && sendOrd ord sc
  | .vsred h t _ _ => h.wf && tyStr.contains t
  | .vsmac h t _ _ _ => h.wf && tyStr.contains t
  | .vsmov h _ _ => h.wf
  | .chend h _ => h.wf
  | .mlda h ta tb _ => h.wf && mmaPair ta tb
  | .mgang h ta tb hm1 _ _ b => h.wf && mmaPair ta tb && superScaleWf ta b && decide (hm1.toNat < 32)
  | .mma h ta tb hm1 _ _ b => h.wf && mmaPair ta tb && superScaleWf ta b && decide (hm1.toNat < 32)
  | .mzero h hm1 _ => h.wf && decide (hm1.toNat < 32)
  | .mstf h hm1 _ _ => h.wf && decide (hm1.toNat < 32)
  | .mstq h hm1 _ _ _ => h.wf && decide (hm1.toNat < 32)
  | .mstb h hm1 _ _ => h.wf && decide (hm1.toNat < 32)
  | .mldc h hm1 _ _ => h.wf && decide (hm1.toNat < 32)
  | .mwait h => h.wf
  | .mstat h _ => h.wf
  | .cpy h _ _ _ _ => h.wf
  | .cpy2 h _ _ a _ => h.wf && a.isPair
  | .cpyg h _ _ a _ => h.wf && a.isPair
  | .cpyz h _ _ _ => h.wf
  | .cpyb h _ _ a _ => h.wf && a.isPair
  | .cwait h _ => h.wf
  | .cstat h _ _ => h.wf
  | .ccancel h _ _ => h.wf
  | .rkdecl h c _ => h.wf && decide (c.toNat < 4)
  | .rksweep h c => h.wf && decide (c.toNat < 4)
  | .rkwake h c _ _ => h.wf && decide (c.toNat < 4)
  | .rknext h => h.wf
  | .rkwait h c => h.wf && decide (c.toNat < 4)
  | .rkstat h c _ => h.wf && decide (c.toNat < 4)
  | .spawn h _ _ _ => h.wf
  | .launch h _ _ => h.wf
  | .glaunch h _ _ _ => h.wf
  | .cancel h _ _ _ => h.wf
  | .bind h _ a _ => h.wf && a.isPair
  | .unbind h _ _ => h.wf
  | .compl h _ _ _ => h.wf
  | .kindle h _ _ _ _ _ => h.wf
  | .migrate h _ _ => h.wf
  | .tkcmt h cnt _ _ _ => h.wf && decide (1 ≤ cnt.toNat) && decide (cnt.toNat ≤ 16)
  | .tkwset h idx _ _ _ => h.wf && decide (idx.toNat < 5)
  | .tkwclr h idx _ _ => h.wf && decide (idx.toNat < 5)
  | .notify h _ _ => h.wf
  | .idle h => h.wf
  | .srd h _ _ => h.wf
  | .swr h d _ => h.wf && d.writable
  | .tlbinv h _ _ _ => h.wf
  | .seed h _ => h.wf
  | .rand h _ => h.wf
  | .lturn h _ _ _ => h.wf
  | .pwrreq h _ _ => h.wf
  | .railsel h _ _ _ => h.wf
  | .trmark h _ => h.wf
  | .bkpt h _ => h.wf
  | .eret h => h.wf
  | .pinset h idx _ _ => h.wf && decide (1 ≤ idx.toNat) && decide (idx.toNat ≤ 7)
  | .dlyrd h d _ => h.wf && d.isPair
  | .dlyclr h _ => h.wf
  | .mcrd h _ _ => h.wf
  | .halt h => h.wf
  | .csync h => h.wf
  | .deviceReset => true
  | .nextTaskChoice => true
  | .steal => true
  | .serviceTaskEntry => true
  | .stepWatchdogExpiry => true
  | .messageHeaderArrival => true
  | .headerQueueEntry => true
  | .messageBeatArrival => true
  | .sendTailInjected => true
  | .storeBufferDrain => true
  | .memoryResponse => true
  | .directoryRequest => true
  | .l1Eviction => true
  | .translationWalkComplete => true
  | .coldPageFetchComplete => true
  | .pageOutStart => true
  | .pageOutComplete => true
  | .vectorCmdTake => true
  | .matrixCmdStart => true
  | .matrixCmdComplete => true
  | .copyCmdAccept => true
  | .copyBeatComplete => true
  | .copyComplete => true
  | .rakeCmdTake => true
  | .rakeBeatSample => true
  | .rakeSweepEnd => true
  | .watchUnitCommit => true
  | .workRetire => true
  | .graphLaunchNode => true
  | .graphCondNode => true
  | .graphWhileNode => true
  | .graphJoinallNode => true
  | .graphEndNode => true
  | .graphNodeRetry => true
  | .doorbellWrite => true
  | .launchPacket => true
  | .graphPacket => true
  | .phasePacket => true
  | .waitPacket => true
  | .waitWordPoll => true
  | .signalPacket => true
  | .signalAfterWrite => true
  | .queueClose => true
  | .schedulingPass => true
  | .localMemoryClearDone => true
  | .priorityAging => true
  | .headReservation => true
  | .intensityClassify => true
  | .thermalReading => true
  | .thermalStepUp => true
  | .stopRequest => true
  | .cutAcknowledge => true
  | .cutSecondStage => true
  | .cutComplete => true
  | .cutResume => true
  | .migrationTransferComplete => true
  | .clusterIdleEntry => true
  | .smooredEntry => true
  | .coldEntry => true
  | .firmwarePowerCommand => true
  | .kindleDeferredChoice => true
  | .clusterWakeComplete => true
  | .kholdTimeout => true
  | .channelWakeComplete => true
  | .channelSelfRefreshEntry => true
  | .railSwitch => true
  | .railSwitchGateEnd => true
  | .generatorHandover => true
  | .currentSample => true
  | .packagePowerWindow => true
  | .droopDetect => true
  | .laneGroupRetire => true
  | .linkTurnApply => true
  | .turnDeadTimeEnd => true
  | .hostWakeWrite => true
  | .apertureUp => true
  | .hostMemAccess => true
  | .heartbeatTimeout => true
  | .liveUpdate => true
  | .attestationRequest => true
  | .machineCheck => true
  | .coreRestart => true
  | .traceRecordWrite => true
  | .traceSampleTimer => true
  | .captureEnd => true
  | .debugCoreStop => true
  | .debugCoreResume => true
  | .firmwareRegisterWrite => true
  | .tlbInvalidationComplete => true
  | .clusterStateChangeFinished => true

/-- An instruction some word encodes. -/
abbrev WellFormed (i : Instr) : Prop := i.wf = true

end Sys2Proof
end

