-- ==== Sys2Proof/Decode.lean ====
section
/-!
DEFINITION. Sys2Proof/Decode.lean: the 96-bit instruction word (R163), the operand kinds (R166, R167), the modifier (R170) and
the decode order of R173, and after it the encoder, from the same encoding tables of spec/10 to spec/12.
A word is read in two layers: 96 bits to fields (R163), and fields to an instruction. Steps 1 to 5 of R173 refuse with `insn`,
step 7 with `operand`; step 6, which asks what runs, stands between them in Machine/Ops.lean and the meanings.
-/
namespace Sys2Proof

/-- Why a word is no instruction: steps 1 to 5 of R173 (ILLEGAL_INSN), or step 7 (ILLEGAL_OPERAND). -/
inductive DecErr where
  | insn
  | operand
deriving DecidableEq, Repr

/-- The fields of a word (R163); `op` is CLASS and FUNC. -/
structure Fields where
  op : BitVec 10
  gn : BitVec 1
  gp : BitVec 3
  hint : BitVec 8
  d : BitVec 18
  a : BitVec 18
  b : BitVec 18
  m : BitVec 20
deriving DecidableEq, Repr

/-- The fields of a 96-bit word (R163). -/
def fieldsOf (w : BitVec 96) : Fields :=
  { op := w.extractLsb' 86 10, gn := w.extractLsb' 85 1, gp := w.extractLsb' 82 3, hint := w.extractLsb' 74 8,
    d := w.extractLsb' 56 18, a := w.extractLsb' 38 18, b := w.extractLsb' 20 18, m := w.extractLsb' 0 20 }

/-- The 96-bit word of the fields (R163). -/
def wordOf (f : Fields) : BitVec 96 := f.op ++ f.gn ++ f.gp ++ f.hint ++ f.d ++ f.a ++ f.b ++ f.m

/-! ### Operands (R166): the kind in bits [17:14], the payload in bits [13:0] -/

/-- The kind of an operand. -/
def opKind (x : BitVec 18) : Nat := (x.extractLsb' 14 4).toNat
/-- The payload of an operand. -/
def opPay (x : BitVec 18) : BitVec 14 := x.extractLsb' 0 14
/-- An operand of a kind and a payload. -/
def mkOp (kind : BitVec 4) (pay : BitVec 14) : BitVec 18 := kind ++ pay

/-- A payload below `n`, as a number; any other payload is out of range (R166). -/
def payBelow (x : BitVec 18) (n : Nat) : Except DecErr (Fin n) :=
  if h : (opPay x).toNat < n then .ok ⟨(opPay x).toNat, h⟩ else .error .operand

/-- An operand position that must hold kind 0x0. -/
def decNone (x : BitVec 18) : Except DecErr Unit := if x = 0 then .ok () else .error .operand

/-- Kinds 0x1 and 0x2. -/
def decWG (x : BitVec 18) : Except DecErr WG :=
  match opKind x with
  | 1 => (payBelow x 24).map .w
  | 2 => (payBelow x 8).map .g
  | _ => .error .operand
/-- The word of a register operand. -/
def encWG : WG → BitVec 18
  | .w n => mkOp 1 (BitVec.ofNat 14 n.val)
  | .g n => mkOp 2 (BitVec.ofNat 14 n.val)

/-- Kinds 0x1, 0x2 and 0x8. -/
def decWGI (x : BitVec 18) : Except DecErr WGI :=
  match opKind x with
  | 8 => .ok (.imm (opPay x))
  | _ => (decWG x).map .reg
/-- The word of a register or short immediate operand. -/
def encWGI : WGI → BitVec 18
  | .reg r => encWG r
  | .imm v => mkOp 8 v

/-- A register or short immediate where a long immediate is accepted too. -/
def wgiToWgil : WGI → WGIL
  | .reg r => .reg r
  | .imm v => .imm v
/-- Whether B is a long immediate, kind 0x9 (R166, R167). -/
def isLong (x : BitVec 18) : Bool := opKind x == 9
/-- The value of a long immediate: payload [13:0] is value[33:20], M is value[19:0] (R166). -/
def longVal (b : BitVec 18) (m : BitVec 20) : BitVec 34 := opPay b ++ m
/-- The word of a B operand that may be a long immediate. -/
def encWGIL : WGIL → BitVec 18
  | .reg r => encWG r
  | .imm v => mkOp 8 v
  | .long v => mkOp 9 (v.extractLsb' 20 14)
/-- M of a word whose B may be a long immediate. -/
def longM (b : WGIL) (m : BitVec 20) : BitVec 20 :=
  match b with
  | .long v => v.extractLsb' 0 20
  | .reg _ | .imm _ => m

/-- Kind 0x3. -/
def decV (x : BitVec 18) : Except DecErr V := if opKind x = 3 then payBelow x 32 else .error .operand
/-- The word of a vector register operand. -/
def encV (n : V) : BitVec 18 := mkOp 3 (BitVec.ofNat 14 n.val)
/-- A vector register that heads a pair (R53). -/
def decVEven (x : BitVec 18) : Except DecErr V := do
  let v ← decV x
  if vEven v then .ok v else .error .operand
/-- A vector register that heads a quad (R53). -/
def decVQuad (x : BitVec 18) : Except DecErr V := do
  let v ← decV x
  if vQuad v then .ok v else .error .operand

/-- Kind 0x4. -/
def decP (x : BitVec 18) : Except DecErr P := if opKind x = 4 then payBelow x 8 else .error .operand
/-- The word of a predicate operand. -/
def encP (n : P) : BitVec 18 := mkOp 4 (BitVec.ofNat 14 n.val)

/-- A vector register or a scalar broadcast (R214). -/
def decVS (x : BitVec 18) : Except DecErr VS :=
  match opKind x with
  | 3 => (decV x).map .v
  | 8 => .ok (.imm (opPay x))
  | _ => (decWG x).map .reg
/-- The word of a vector or broadcast operand. -/
def encVS : VS → BitVec 18
  | .v n => encV n
  | .reg r => encWG r
  | .imm v => mkOp 8 v

/-- A vector register or a register broadcast (R233). -/
def decVWG (x : BitVec 18) : Except DecErr VWG :=
  match opKind x with
  | 3 => (decV x).map .v
  | _ => (decWG x).map .reg
/-- The word of a vector or register broadcast operand. -/
def encVWG : VWG → BitVec 18
  | .v n => encV n
  | .reg r => encWG r

/-- Kind 0x5: ring [3:0], slot count [9:4], slot offset [13:10]. -/
def decRing (x : BitVec 18) : Except DecErr Ring :=
  if opKind x = 5 then
    .ok ⟨((opPay x).extractLsb' 0 4).toFin, (opPay x).extractLsb' 4 6, (opPay x).extractLsb' 10 4⟩
  else .error .operand
/-- The word of a ring handle. -/
def encRing (q : Ring) : BitVec 18 := mkOp 5 (q.o ++ q.kf ++ BitVec.ofNat 4 q.ring.val)
/-- The ring handle of RADVC and RADVP (R251). -/
def decRingO0 (x : BitVec 18) : Except DecErr Ring := do
  let q ← decRing x
  if q.offZero then .ok q else .error .operand
/-- The ring handle of RSTAT (R251). -/
def decRingStat (x : BitVec 18) : Except DecErr Ring := do
  let q ← decRing x
  if q.statOk then .ok q else .error .operand

/-- A register or a ring handle. -/
def decWGQ (x : BitVec 18) : Except DecErr WGQ :=
  match opKind x with
  | 5 => (decRing x).map .ring
  | _ => (decWG x).map .reg
/-- The word of a register or ring handle operand. -/
def encWGQ : WGQ → BitVec 18
  | .reg r => encWG r
  | .ring q => encRing q

/-- A register or kind 0x0. -/
def decWGOpt (x : BitVec 18) : Except DecErr (Option WG) :=
  if x = 0 then .ok none else (decWG x).map some
/-- The word of an optional register. -/
def encWGOpt : Option WG → BitVec 18
  | none => 0
  | some r => encWG r
/-- B of MMA and MGANG: a register exactly when the A type is a block type (R256). -/
def decSuper (ta : Ty) (x : BitVec 18) : Except DecErr (Option WG) := do
  let b ← decWGOpt x
  if superScaleWf ta b then .ok b else .error .operand

/-- A vector register or kind 0x0. -/
def decVOpt (x : BitVec 18) : Except DecErr (Option V) :=
  if x = 0 then .ok none else (decV x).map some
/-- The word of an optional vector register. -/
def encVOpt : Option V → BitVec 18
  | none => 0
  | some n => encV n

/-- Kind 0x6. -/
def decChan (x : BitVec 18) : Except DecErr Chan := if opKind x = 6 then payBelow x 8 else .error .operand
/-- The word of an input channel operand. -/
def encChan (n : Chan) : BitVec 18 := mkOp 6 (BitVec.ofNat 14 n.val)

/-- Kind 0x7: window [2:0], offset in 8-byte units [13:3]. -/
def decPWin (x : BitVec 18) : Except DecErr PWin :=
  if opKind x = 7 then .ok ⟨((opPay x).extractLsb' 0 3).toFin, (opPay x).extractLsb' 3 11⟩ else .error .operand
/-- The word of a parameter window operand. -/
def encPWin (p : PWin) : BitVec 18 := mkOp 7 (p.off ++ BitVec.ofNat 3 p.win.val)

/-- A short immediate, kind 0x8. -/
def decImm (x : BitVec 18) : Except DecErr (BitVec 14) := if opKind x = 8 then .ok (opPay x) else .error .operand
/-- The word of a short immediate. -/
def encImm (v : BitVec 14) : BitVec 18 := mkOp 8 v

/-- The number of a special register (R62). -/
def SReg.num : SReg → Nat
  | .core => 0x00 | .rank => 0x01 | .clus => 0x02 | .die => 0x03 | .island => 0x04 | .ctxid => 0x05 | .actid => 0x08
  | .entry => 0x09 | .arg => 0x0A | .msgtag => 0x0B | .msgsrc => 0x0C | .msglen => 0x0D | .launch => 0x0E | .stepno => 0x0F
  | .wstack => 0x10 | .wspill => 0x11 | .link => 0x12 | .trapcause => 0x18 | .trappc => 0x19 | .trapinfo => 0x1A
  | .cycle => 0x20 | .vfstate => 0x21 | .stallbank => 0x28 | .stalleng => 0x29 | .caps => 0x30 | .msimg => 0x31
/-- The special register of a number, or none (R62). -/
def SReg.ofNum (n : Nat) : Option SReg :=
  match n with
  | 0x00 => some .core | 0x01 => some .rank | 0x02 => some .clus | 0x03 => some .die | 0x04 => some .island
  | 0x05 => some .ctxid | 0x08 => some .actid | 0x09 => some .entry | 0x0A => some .arg | 0x0B => some .msgtag
  | 0x0C => some .msgsrc | 0x0D => some .msglen | 0x0E => some .launch | 0x0F => some .stepno | 0x10 => some .wstack
  | 0x11 => some .wspill | 0x12 => some .link | 0x18 => some .trapcause | 0x19 => some .trappc | 0x1A => some .trapinfo
  | 0x20 => some .cycle | 0x21 => some .vfstate | 0x28 => some .stallbank | 0x29 => some .stalleng | 0x30 => some .caps
  | 0x31 => some .msimg
  | _ => none
/-- Kind 0xA: the number in payload [7:0], payload [13:8] zero (R62). -/
def decSReg (x : BitVec 18) : Except DecErr SReg :=
  if opKind x = 10 then
    match SReg.ofNum (opPay x).toNat with
    | some r => .ok r
    | none => .error .operand
  else .error .operand
/-- The word of a special register operand. -/
def encSReg (r : SReg) : BitVec 18 := mkOp 10 (BitVec.ofNat 14 r.num)
/-- The special register of SWR: one whose access is not R (R62). -/
def decSRegW (x : BitVec 18) : Except DecErr SReg := do
  let r ← decSReg x
  if r.writable then .ok r else .error .operand

/-- The first register of a pair: an even register (R220, R243). -/
def decPair (x : BitVec 18) : Except DecErr WG := do
  let r ← decWG x
  if r.isPair then .ok r else .error .operand

/-! ### The modifier (R170) -/

/-- TYPE, bits [19:16]. -/
def mTy (m : BitVec 20) : BitVec 4 := m.extractLsb' 16 4
/-- SUB, bits [15:12]. -/
def mSub (m : BitVec 20) : BitVec 4 := m.extractLsb' 12 4
/-- ORD, bits [11:9]. -/
def mOrd (m : BitVec 20) : BitVec 3 := m.extractLsb' 9 3
/-- SCOPE, bits [8:6]. -/
def mScope (m : BitVec 20) : BitVec 3 := m.extractLsb' 6 3
/-- COUNT, bits [5:0]. -/
def mCount (m : BitVec 20) : BitVec 6 := m.extractLsb' 0 6
/-- The modifier of five subfields. -/
def packM (ty sub : BitVec 4) (ord sc : BitVec 3) (cnt : BitVec 6) : BitVec 20 := ty ++ sub ++ ord ++ sc ++ cnt

/-- A check of step 5 of R173. -/
def stepM (ok : Bool) : Except DecErr Unit := if ok then .ok () else .error .insn
/-- The subfields an instruction does not use are zero; a `true` marks one it uses. -/
def unusedZero (m : BitVec 20) (ty sub ord sc cnt : Bool) : Except DecErr Unit :=
  stepM ((ty || mTy m == 0) && (sub || mSub m == 0) && (ord || mOrd m == 0) && (sc || mScope m == 0) && (cnt || mCount m == 0))
/-- An instruction that uses no subfield. -/
def noM (m : BitVec 20) : Except DecErr Unit := stepM (m == 0)

/-- The code of an element type (R97). -/
def Ty.code : Ty → BitVec 4
  | .i8 => 0 | .n8 => 1 | .i16 => 2 | .n16 => 3 | .i32 => 4 | .n32 => 5 | .i64 => 6 | .n64 => 7
  | .f32 => 8 | .b16 => 9 | .h16 => 10 | .e4 => 11 | .e5 => 12 | .f4 => 13 | .b4 => 14 | .b8 => 15
/-- The element type of a code (R97). -/
def tyOfCode (c : BitVec 4) : Ty :=
  match c.toNat with
  | 0 => .i8 | 1 => .n8 | 2 => .i16 | 3 => .n16 | 4 => .i32 | 5 => .n32 | 6 => .i64 | 7 => .n64
  | 8 => .f32 | 9 => .b16 | 10 => .h16 | 11 => .e4 | 12 => .e5 | 13 => .f4 | 14 => .b4 | _ => .b8
/-- TYPE, one of a list. -/
def tyIn (m : BitVec 20) (l : List Ty) : Except DecErr Ty :=
  if l.contains (tyOfCode (mTy m)) then .ok (tyOfCode (mTy m)) else .error .insn
/-- TYPE, exactly one. -/
def tyIs (m : BitVec 20) (t : Ty) : Except DecErr Unit := stepM (mTy m == t.code)
/-- TYPE, any code; a pair check follows. -/
def tyOf (m : BitVec 20) : Except DecErr Ty := .ok (tyOfCode (mTy m))
/-- SUB as a second TYPE (R171). -/
def subTy (m : BitVec 20) : Except DecErr Ty := .ok (tyOfCode (mSub m))

/-- The code of an ORD (R170). -/
def Ord.code : Ord → BitVec 3
  | .rlx => 0 | .acq => 1 | .rel => 2 | .ar => 3
/-- ORD; 4 to 7 are reserved. -/
def ordOf (m : BitVec 20) : Except DecErr Ord :=
  match (mOrd m).toNat with
  | 0 => .ok .rlx | 1 => .ok .acq | 2 => .ok .rel | 3 => .ok .ar | _ => .error .insn
/-- The code of a SCOPE (R170). -/
def Scope.code : Scope → BitVec 3
  | .core => 0 | .clus => 1 | .die => 2 | .pkg => 3 | .sys => 4
/-- SCOPE; 5 to 7 are reserved. -/
def scopeOf (m : BitVec 20) : Except DecErr Scope :=
  match (mScope m).toNat with
  | 0 => .ok .core | 1 => .ok .clus | 2 => .ok .die | 3 => .ok .pkg | 4 => .ok .sys | _ => .error .insn

/-- The code of a condition (R171). -/
def Cond.code : Cond → BitVec 4
  | .eq => 0 | .ne => 1 | .lt => 2 | .le => 3 | .gt => 4 | .ge => 5
/-- The condition of a code, or none. -/
def condOfNat (n : Nat) : Option Cond :=
  match n with
  | 0 => some .eq | 1 => some .ne | 2 => some .lt | 3 => some .le | 4 => some .gt | 5 => some .ge | _ => none
/-- SUB as a condition; 6 to 15 fault. -/
def subCond (m : BitVec 20) : Except DecErr Cond :=
  match condOfNat (mSub m).toNat with
  | some c => .ok c
  | none => .error .insn
/-- The code of a floating-point condition (R171). -/
def FCond.code : FCond → BitVec 4
  | .eq => 0 | .ne => 1 | .lt => 2 | .le => 3 | .un => 4 | .ord => 5
/-- SUB as a floating-point condition. -/
def subFCond (m : BitVec 20) : Except DecErr FCond :=
  match (mSub m).toNat with
  | 0 => .ok .eq | 1 => .ok .ne | 2 => .ok .lt | 3 => .ok .le | 4 => .ok .un | 5 => .ok .ord | _ => .error .insn
/-- The code of ICNT's kind (R197). -/
def CntKind.code : CntKind → BitVec 4
  | .pop => 0 | .clz => 1 | .ctz => 2
/-- SUB as ICNT's kind. -/
def subCnt (m : BitVec 20) : Except DecErr CntKind :=
  match (mSub m).toNat with
  | 0 => .ok .pop | 1 => .ok .clz | 2 => .ok .ctz | _ => .error .insn
/-- The code of a predicate in SUB (R197). -/
def pCode (p : P) : BitVec 4 := BitVec.ofNat 4 p.val
/-- SUB as a predicate; 8 to 15 fault. -/
def subP (m : BitVec 20) : Except DecErr P :=
  if h : (mSub m).toNat < 8 then .ok ⟨(mSub m).toNat, h⟩ else .error .insn
/-- The code of a level of work (R46, R271). -/
def Level.code : Level → BitVec 4
  | .unit => 0 | .launch => 1 | .graph => 2 | .phase => 3 | .job => 4
/-- SUB as a level. -/
def subLevel (m : BitVec 20) : Except DecErr Level :=
  match (mSub m).toNat with
  | 0 => .ok .unit | 1 => .ok .launch | 2 => .ok .graph | 3 => .ok .phase | 4 => .ok .job | _ => .error .insn
/-- The code of a wake class (R271). -/
def WakeClass.code : WakeClass → BitVec 4
  | .idle => 1 | .smoored => 2 | .cold => 3
/-- SUB as a wake class. -/
def subWake (m : BitVec 20) : Except DecErr WakeClass :=
  match (mSub m).toNat with
  | 1 => .ok .idle | 2 => .ok .smoored | 3 => .ok .cold | _ => .error .insn
/-- The code of TLBINV's kind (R280). -/
def InvKind.code : InvKind → BitVec 4
  | .page => 0 | .ctx => 1 | .all => 2
/-- SUB as TLBINV's kind. -/
def subInv (m : BitVec 20) : Except DecErr InvKind :=
  match (mSub m).toNat with
  | 0 => .ok .page | 1 => .ok .ctx | 2 => .ok .all | _ => .error .insn

/-- COUNT of VLD2, checked at step 5 against the kind of A alone (R248). -/
def vld2CountOf (f : Fields) : Except DecErr (BitVec 6) :=
  match opKind f.a with
  | 1 | 2 => if mCount f.m != 0 then .ok (mCount f.m) else .error .insn
  | 5 => if mCount f.m == 0 then .ok (mCount f.m) else .error .insn
  | _ => .ok (mCount f.m)

/-- D of ICMP with a long immediate: the condition in payload [13:11], N64 in [10], zero in [9:3], the predicate in [2:0] (R167). -/
def icmpLongD (x : BitVec 18) : Except DecErr (P × Ty × Cond) :=
  if opKind x = 4 ∧ (opPay x).extractLsb' 3 7 = 0 then
    match condOfNat ((opPay x).extractLsb' 11 3).toNat with
    | some c => .ok (((opPay x).extractLsb' 0 3).toFin, if (opPay x).getLsbD 10 then .n64 else .i64, c)
    | none => .error .operand
  else .error .operand
/-- D of ICMP: with a long immediate it carries the condition and the signedness. -/
def icmpD (d : P) (t : Ty) (c : Cond) (b : WGIL) : BitVec 18 :=
  match b with
  | .long _ => mkOp 4 (c.code.extractLsb' 0 3 ++ (if t = .n64 then 1#1 else 0#1) ++ 0#7 ++ BitVec.ofNat 3 d.val)
  | .reg _ | .imm _ => encP d

/-- The guard and hints of the fields. -/
def hdrOf (f : Fields) : Hdr := ⟨f.gn == 1, f.gp.toFin, f.hint⟩
/-- The fields of an instruction. -/
def mkFields (h : Hdr) (op : BitVec 10) (d a b : BitVec 18) (m : BitVec 20) : Fields :=
  ⟨op, if h.gn then 1 else 0, BitVec.ofNat 3 h.gp.val, h.hint, d, a, b, m⟩
/-- The fields of an ILLEGAL word. -/
def illegalFields (rest : BitVec 86) : Fields :=
  ⟨0, rest.extractLsb' 85 1, rest.extractLsb' 82 3, rest.extractLsb' 74 8, rest.extractLsb' 56 18, rest.extractLsb' 38 18,
    rest.extractLsb' 20 18, rest.extractLsb' 0 20⟩
/-- The bits of an ILLEGAL word below its opcode. -/
def illegalRest (f : Fields) : BitVec 86 := f.gn ++ f.gp ++ f.hint ++ f.d ++ f.a ++ f.b ++ f.m

/-! ### The classes (R174) -/

/-- Class 0x0 (control): the instruction of each function code the class assigns (R174). -/
def decodeClass0 (func : Nat) (h : Hdr) (f : Fields) : Except DecErr Instr :=
  match func with
  | 0x01 => do
      noM f.m
      decNone f.d
      decNone f.a
      decNone f.b
      .ok (.nop h)
  | 0x02 => do
      let off := f.m
      decNone f.d
      decNone f.a
      decNone f.b
      .ok (.br h off)
  | 0x03 => do
      let off := f.m
      decNone f.d
      let a ← decWG f.a
      decNone f.b
      .ok (.brz h off a)
  | 0x04 => do
      let off := f.m
      decNone f.d
      let a ← decWG f.a
      decNone f.b
      .ok (.brnz h off a)
  | 0x05 => do
      let off := f.m
      let d ← decWG f.d
      decNone f.a
      decNone f.b
      .ok (.brdec h off d)
  | 0x06 => do
      noM f.m
      decNone f.d
      let a ← decWG f.a
      decNone f.b
      .ok (.jmp h a)
  | 0x07 => do
      let off := f.m
      decNone f.d
      decNone f.a
      decNone f.b
      .ok (.call h off)
  | 0x08 => do
      noM f.m
      decNone f.d
      let a ← decWG f.a
      decNone f.b
      .ok (.callr h a)
  | 0x09 => do
      noM f.m
      decNone f.d
      decNone f.a
      decNone f.b
      .ok (.ret h)
  | 0x0A => do
      let off := f.m
      stepM (loopRange off)
      decNone f.d
      let a ← decWGI f.a
      decNone f.b
      .ok (.loop h off a)
  | 0x0B => do
      noM f.m
      decNone f.d
      decNone f.a
      decNone f.b
      .ok (.lbrk h)
  | 0x0C => do
      let off := f.m
      let d ← decWG f.d
      let a ← decWG f.a
      let b ← decWGI f.b
      .ok (.fork h off d a b)
  | 0x0D => do
      noM f.m
      decNone f.d
      let a ← decWG f.a
      decNone f.b
      .ok (.join h a)
  | 0x0E => do
      noM f.m
      decNone f.d
      decNone f.a
      decNone f.b
      .ok (.endTask h)
  | 0x0F => do
      noM f.m
      decNone f.d
      decNone f.a
      decNone f.b
      .ok (.step h)
  | 0x10 => do
      noM f.m
      decNone f.d
      let a ← decWGI f.a
      decNone f.b
      .ok (.trap h a)
  | _ => .error .insn

/-- Class 0x1 (integer): the instruction of each function code the class assigns (R174). -/
def decodeClass1 (func : Nat) (h : Hdr) (f : Fields) : Except DecErr Instr :=
  match func with
  | 0x00 => if isLong f.b then do
        let d ← decWG f.d
        let a ← decWG f.a
        .ok (.iadd h .i64 d a (.long (longVal f.b f.m)))
      else do
        unusedZero f.m true false false false false
        let t ← tyIn f.m tyAll
        let d ← decWG f.d
        let a ← decWG f.a
        let b ← decWGI f.b
        .ok (.iadd h t d a (wgiToWgil b))
  | 0x01 => do
      unusedZero f.m true false false false false
      let t ← tyIn f.m tyAll
      let d ← decWG f.d
      let a ← decWG f.a
      let b ← decWGI f.b
      .ok (.isub h t d a b)
  | 0x02 => do
      unusedZero f.m true false false false false
      let t ← tyIn f.m tyAll
      let d ← decWG f.d
      let a ← decWG f.a
      let b ← decWGI f.b
      .ok (.iadds h t d a b)
  | 0x03 => do
      unusedZero f.m true false false false false
      let t ← tyIn f.m tyAll
      let d ← decWG f.d
      let a ← decWG f.a
      let b ← decWGI f.b
      .ok (.isubs h t d a b)
  | 0x04 => do
      unusedZero f.m true false false false false
      let t ← tyIn f.m tyAll
      let d ← decWG f.d
      let a ← decWG f.a
      decNone f.b
      .ok (.ineg h t d a)
  | 0x05 => do
      unusedZero f.m true false false false false
      let t ← tyIn f.m tyI
      let d ← decWG f.d
      let a ← decWG f.a
      decNone f.b
      .ok (.iabs h t d a)
  | 0x06 => do
      unusedZero f.m true false false false false
      let t ← tyIn f.m tyI
      let d ← decWG f.d
      let a ← decWG f.a
      let b ← decWGI f.b
      .ok (.imin h t d a b)
  | 0x07 => do
      unusedZero f.m true false false false false
      let t ← tyIn f.m tyI
      let d ← decWG f.d
      let a ← decWG f.a
      let b ← decWGI f.b
      .ok (.imax h t d a b)
  | 0x08 => do
      unusedZero f.m true false false false false
      let t ← tyIn f.m tyN
      let d ← decWG f.d
      let a ← decWG f.a
      let b ← decWGI f.b
      .ok (.iminn h t d a b)
  | 0x09 => do
      unusedZero f.m true false false false false
      let t ← tyIn f.m tyN
      let d ← decWG f.d
      let a ← decWG f.a
      let b ← decWGI f.b
      .ok (.imaxn h t d a b)
  | 0x0A => if isLong f.b then do
        let d ← decWG f.d
        let a ← decWG f.a
        .ok (.iand h .i64 d a (.long (longVal f.b f.m)))
      else do
        unusedZero f.m true false false false false
        let t ← tyIn f.m tyAll
        let d ← decWG f.d
        let a ← decWG f.a
        let b ← decWGI f.b
        .ok (.iand h t d a (wgiToWgil b))
  | 0x0B => if isLong f.b then do
        let d ← decWG f.d
        let a ← decWG f.a
        .ok (.ior h .i64 d a (.long (longVal f.b f.m)))
      else do
        unusedZero f.m true false false false false
        let t ← tyIn f.m tyAll
        let d ← decWG f.d
        let a ← decWG f.a
        let b ← decWGI f.b
        .ok (.ior h t d a (wgiToWgil b))
  | 0x0C => if isLong f.b then do
        let d ← decWG f.d
        let a ← decWG f.a
        .ok (.ixor h .i64 d a (.long (longVal f.b f.m)))
      else do
        unusedZero f.m true false false false false
        let t ← tyIn f.m tyAll
        let d ← decWG f.d
        let a ← decWG f.a
        let b ← decWGI f.b
        .ok (.ixor h t d a (wgiToWgil b))
  | 0x0D => do
      unusedZero f.m true false false false false
      let t ← tyIn f.m tyAll
      let d ← decWG f.d
      let a ← decWG f.a
      let b ← decWGI f.b
      .ok (.iandn h t d a b)
  | 0x0E => do
      unusedZero f.m true false false false false
      let t ← tyIn f.m tyAll
      let d ← decWG f.d
      let a ← decWG f.a
      let b ← decWGI f.b
      .ok (.ishl h t d a b)
  | 0x0F => do
      unusedZero f.m true false false false false
      let t ← tyIn f.m tyN
      let d ← decWG f.d
      let a ← decWG f.a
      let b ← decWGI f.b
      .ok (.ishr h t d a b)
  | 0x10 => do
      unusedZero f.m true false false false false
      let t ← tyIn f.m tyI
      let d ← decWG f.d
      let a ← decWG f.a
      let b ← decWGI f.b
      .ok (.isar h t d a b)
  | 0x11 => do
      unusedZero f.m true false false false false
      let t ← tyIn f.m tyAll
      let d ← decWG f.d
      let a ← decWG f.a
      let b ← decWGI f.b
      .ok (.irot h t d a b)
  | 0x12 => do
      unusedZero f.m true false false false true
      tyIs f.m .i64
      let len := mCount f.m
      let d ← decWG f.d
      let a ← decWG f.a
      let b ← decWGI f.b
      .ok (.iext h len d a b)
  | 0x13 => do
      unusedZero f.m true false false false true
      tyIs f.m .n64
      let len := mCount f.m
      let d ← decWG f.d
      let a ← decWG f.a
      let b ← decWGI f.b
      .ok (.iextn h len d a b)
  | 0x14 => do
      unusedZero f.m true false false false true
      tyIs f.m .n64
      let len := mCount f.m
      let d ← decWG f.d
      let a ← decWG f.a
      let b ← decWGI f.b
      .ok (.iins h len d a b)
  | 0x15 => do
      unusedZero f.m true true false false false
      let t ← tyIn f.m tyN
      let k ← subCnt f.m
      let d ← decWG f.d
      let a ← decWG f.a
      decNone f.b
      .ok (.icnt h t k d a)
  | 0x16 => if isLong f.b then do
        let d ← decWG f.d
        decNone f.a
        .ok (.imov h .i64 d (.long (longVal f.b f.m)))
      else do
        unusedZero f.m true false false false false
        let t ← tyIn f.m tyAll
        let d ← decWG f.d
        decNone f.a
        let b ← decWGI f.b
        .ok (.imov h t d (wgiToWgil b))
  | 0x17 => do
      unusedZero f.m true true false false false
      let t ← tyIn f.m tyAll
      let pk ← subP f.m
      let d ← decWG f.d
      let a ← decWG f.a
      let b ← decWGI f.b
      .ok (.isel h t pk d a b)
  | _ => .error .insn

/-- Class 0x2 (multiply and address): the instruction of each function code the class assigns (R174). -/
def decodeClass2 (func : Nat) (h : Hdr) (f : Fields) : Except DecErr Instr :=
  match func with
  | 0x00 => do
      unusedZero f.m true false false false false
      let t ← tyIn f.m tyAll
      let d ← decWG f.d
      let a ← decWG f.a
      let b ← decWGI f.b
      .ok (.imul h t d a b)
  | 0x01 => do
      unusedZero f.m true false false false false
      let t ← tyIn f.m tyI
      let d ← decWG f.d
      let a ← decWG f.a
      let b ← decWGI f.b
      .ok (.imulh h t d a b)
  | 0x02 => do
      unusedZero f.m true false false false false
      let t ← tyIn f.m tyN
      let d ← decWG f.d
      let a ← decWG f.a
      let b ← decWGI f.b
      .ok (.imulhn h t d a b)
  | 0x03 => do
      unusedZero f.m true false false false false
      let t ← tyIn f.m tyAll
      let d ← decWG f.d
      let a ← decWG f.a
      let b ← decWGI f.b
      .ok (.imad h t d a b)
  | 0x04 => do
      unusedZero f.m true false false false false
      let t ← tyIn f.m tyI
      let d ← decWG f.d
      let a ← decWG f.a
      let b ← decWGI f.b
      .ok (.idiv h t d a b)
  | 0x05 => do
      unusedZero f.m true false false false false
      let t ← tyIn f.m tyN
      let d ← decWG f.d
      let a ← decWG f.a
      let b ← decWGI f.b
      .ok (.idivn h t d a b)
  | 0x06 => do
      unusedZero f.m true false false false false
      let t ← tyIn f.m tyI
      let d ← decWG f.d
      let a ← decWG f.a
      let b ← decWGI f.b
      .ok (.irem h t d a b)
  | 0x07 => do
      unusedZero f.m true false false false false
      let t ← tyIn f.m tyN
      let d ← decWG f.d
      let a ← decWG f.a
      let b ← decWGI f.b
      .ok (.iremn h t d a b)
  | 0x08 => do
      unusedZero f.m true false false false true
      tyIs f.m .i64
      let sh := mCount f.m
      let d ← decWG f.d
      let a ← decWG f.a
      let b ← decWGI f.b
      .ok (.ilea h sh d a b)
  | 0x09 => do
      noM f.m
      let d ← decWG f.d
      let a ← decPWin f.a
      let b ← decWG f.b
      .ok (.idxt h d a b)
  | _ => .error .insn

/-- Class 0x3 (predicates): the instruction of each function code the class assigns (R174). -/
def decodeClass3 (func : Nat) (h : Hdr) (f : Fields) : Except DecErr Instr :=
  match func with
  | 0x00 => if isLong f.b then do
        let (d, t, c) ← icmpLongD f.d
        let a ← decWG f.a
        .ok (.icmp h t c d a (.long (longVal f.b f.m)))
      else do
        unusedZero f.m true true false false false
        let t ← tyIn f.m tyAll
        let c ← subCond f.m
        let d ← decP f.d
        let a ← decWG f.a
        let b ← decWGI f.b
        .ok (.icmp h t c d a (wgiToWgil b))
  | 0x01 => do
      unusedZero f.m true true false false false
      tyIs f.m .f32
      let c ← subFCond f.m
      let d ← decP f.d
      let a ← decWG f.a
      let b ← decWG f.b
      .ok (.fcmp h c d a b)
  | 0x02 => do
      noM f.m
      let d ← decP f.d
      let a ← decP f.a
      let b ← decP f.b
      .ok (.pand h d a b)
  | 0x03 => do
      noM f.m
      let d ← decP f.d
      let a ← decP f.a
      let b ← decP f.b
      .ok (.por h d a b)
  | 0x04 => do
      noM f.m
      let d ← decP f.d
      let a ← decP f.a
      let b ← decP f.b
      .ok (.pxor h d a b)
  | 0x05 => do
      noM f.m
      let d ← decP f.d
      let a ← decP f.a
      decNone f.b
      .ok (.pnot h d a)
  | 0x06 => do
      noM f.m
      let d ← decWG f.d
      let a ← decP f.a
      decNone f.b
      .ok (.pget h d a)
  | 0x07 => do
      noM f.m
      let d ← decP f.d
      let a ← decWGI f.a
      decNone f.b
      .ok (.pset h d a)
  | 0x08 => do
      noM f.m
      let d ← decWG f.d
      let a ← decP f.a
      decNone f.b
      .ok (.pfirst h d a)
  | 0x09 => do
      noM f.m
      let d ← decWG f.d
      let a ← decP f.a
      decNone f.b
      .ok (.pcnt h d a)
  | _ => .error .insn

/-- Class 0x4 (scalar FP32): the instruction of each function code the class assigns (R174). -/
def decodeClass4 (func : Nat) (h : Hdr) (f : Fields) : Except DecErr Instr :=
  match func with
  | 0x00 => do
      unusedZero f.m true false false false false
      tyIs f.m .f32
      let d ← decWG f.d
      let a ← decWG f.a
      let b ← decWG f.b
      .ok (.fadd h d a b)
  | 0x01 => do
      unusedZero f.m true false false false false
      tyIs f.m .f32
      let d ← decWG f.d
      let a ← decWG f.a
      let b ← decWG f.b
      .ok (.fsub h d a b)
  | 0x02 => do
      unusedZero f.m true false false false false
      tyIs f.m .f32
      let d ← decWG f.d
      let a ← decWG f.a
      let b ← decWG f.b
      .ok (.fmul h d a b)
  | 0x03 => do
      unusedZero f.m true false false false false
      tyIs f.m .f32
      let d ← decWG f.d
      let a ← decWG f.a
      let b ← decWG f.b
      .ok (.ffma h d a b)
  | 0x04 => do
      unusedZero f.m true false false false false
      tyIs f.m .f32
      let d ← decWG f.d
      let a ← decWG f.a
      let b ← decWG f.b
      .ok (.fdiv h d a b)
  | 0x05 => do
      unusedZero f.m true false false false false
      tyIs f.m .f32
      let d ← decWG f.d
      let a ← decWG f.a
      decNone f.b
      .ok (.fsqrt h d a)
  | 0x06 => do
      unusedZero f.m true false false false false
      tyIs f.m .f32
      let d ← decWG f.d
      let a ← decWG f.a
      let b ← decWG f.b
      .ok (.fmin h d a b)
  | 0x07 => do
      unusedZero f.m true false false false false
      tyIs f.m .f32
      let d ← decWG f.d
      let a ← decWG f.a
      let b ← decWG f.b
      .ok (.fmax h d a b)
  | 0x08 => do
      unusedZero f.m true false false false false
      tyIs f.m .f32
      let d ← decWG f.d
      let a ← decWG f.a
      decNone f.b
      .ok (.fabs h d a)
  | 0x09 => do
      unusedZero f.m true false false false false
      tyIs f.m .f32
      let d ← decWG f.d
      let a ← decWG f.a
      decNone f.b
      .ok (.fneg h d a)
  | 0x0A => do
      unusedZero f.m true false false false false
      let t ← tyIn f.m tyCvt
      let d ← decWG f.d
      let a ← decWG f.a
      decNone f.b
      .ok (.fcvtif h t d a)
  | 0x0B => do
      unusedZero f.m true false false false false
      let t ← tyIn f.m tyCvt
      let d ← decWG f.d
      let a ← decWG f.a
      decNone f.b
      .ok (.fcvtfi h t d a)
  | 0x0C => do
      unusedZero f.m true false false false false
      let t ← tyIn f.m tyCvt
      let d ← decWG f.d
      let a ← decWG f.a
      decNone f.b
      .ok (.fcvtfiz h t d a)
  | 0x0D => do
      unusedZero f.m true false false false false
      tyIs f.m .f32
      let d ← decWG f.d
      let a ← decWG f.a
      decNone f.b
      .ok (.frcp h d a)
  | 0x0E => do
      unusedZero f.m true false false false false
      tyIs f.m .f32
      let d ← decWG f.d
      let a ← decWG f.a
      decNone f.b
      .ok (.fexp2 h d a)
  | 0x0F => do
      unusedZero f.m true false false false false
      tyIs f.m .f32
      let d ← decWG f.d
      let a ← decWG f.a
      decNone f.b
      .ok (.flog2 h d a)
  | _ => .error .insn

/-- Class 0x5 (loads and stores): the instruction of each function code the class assigns (R174). -/
def decodeClass5 (func : Nat) (h : Hdr) (f : Fields) : Except DecErr Instr :=
  match func with
  | 0x00 => do
      unusedZero f.m true false false false false
      let t ← tyIn f.m tyMem
      let d ← decWG f.d
      let a ← decWG f.a
      let b ← decWGI f.b
      .ok (.ld h t d a b)
  | 0x01 => do
      unusedZero f.m true false false false false
      let t ← tyIn f.m tyMem
      let d ← decWG f.d
      let a ← decWG f.a
      let b ← decWGI f.b
      .ok (.st h t d a b)
  | 0x02 => do
      unusedZero f.m true false false false false
      let t ← tyIn f.m tyMem
      let d ← decWG f.d
      let a ← decWG f.a
      let b ← decWGI f.b
      .ok (.ldl h t d a b)
  | 0x03 => do
      unusedZero f.m true false false false false
      let t ← tyIn f.m tyMem
      let d ← decWG f.d
      let a ← decWG f.a
      let b ← decWGI f.b
      .ok (.stl h t d a b)
  | 0x04 => do
      unusedZero f.m true false false false false
      let t ← tyIn f.m tyMem
      let d ← decWG f.d
      let a ← decPWin f.a
      let b ← decWGOpt f.b
      .ok (.ldpw h t d a b)
  | 0x05 => do
      noM f.m
      decNone f.d
      let a ← decWG f.a
      let b ← decWGI f.b
      .ok (.pref h a b)
  | 0x06 => do
      noM f.m
      decNone f.d
      let a ← decWG f.a
      let b ← decWGI f.b
      .ok (.zline h a b)
  | 0x07 => do
      noM f.m
      decNone f.d
      let a ← decWG f.a
      let b ← decWGI f.b
      .ok (.wbline h a b)
  | 0x08 => do
      noM f.m
      decNone f.d
      let a ← decWG f.a
      let b ← decWGI f.b
      .ok (.invline h a b)
  | _ => .error .insn

/-- Class 0x6 (atomics and synchronisation): the instruction of each function code the class assigns (R174). -/
def decodeClass6 (func : Nat) (h : Hdr) (f : Fields) : Except DecErr Instr :=
  match func with
  | 0x00 => do
      unusedZero f.m true false true true false
      let t ← tyIn f.m tyA
      let ord ← ordOf f.m
      let sc ← scopeOf f.m
      let d ← decWG f.d
      let a ← decWG f.a
      let b ← decWGI f.b
      .ok (.aadd h t ord sc d a b)
  | 0x01 => do
      unusedZero f.m true false true true false
      let t ← tyIn f.m tyAI
      let ord ← ordOf f.m
      let sc ← scopeOf f.m
      let d ← decWG f.d
      let a ← decWG f.a
      let b ← decWGI f.b
      .ok (.amin h t ord sc d a b)
  | 0x02 => do
      unusedZero f.m true false true true false
      let t ← tyIn f.m tyAI
      let ord ← ordOf f.m
      let sc ← scopeOf f.m
      let d ← decWG f.d
      let a ← decWG f.a
      let b ← decWGI f.b
      .ok (.amax h t ord sc d a b)
  | 0x03 => do
      unusedZero f.m true false true true false
      let t ← tyIn f.m tyAN
      let ord ← ordOf f.m
      let sc ← scopeOf f.m
      let d ← decWG f.d
      let a ← decWG f.a
      let b ← decWGI f.b
      .ok (.aminn h t ord sc d a b)
  | 0x04 => do
      unusedZero f.m true false true true false
      let t ← tyIn f.m tyAN
      let ord ← ordOf f.m
      let sc ← scopeOf f.m
      let d ← decWG f.d
      let a ← decWG f.a
      let b ← decWGI f.b
      .ok (.amaxn h t ord sc d a b)
  | 0x05 => do
      unusedZero f.m true false true true false
      let t ← tyIn f.m tyA
      let ord ← ordOf f.m
      let sc ← scopeOf f.m
      let d ← decWG f.d
      let a ← decWG f.a
      let b ← decWGI f.b
      .ok (.aand h t ord sc d a b)
  | 0x06 => do
      unusedZero f.m true false true true false
      let t ← tyIn f.m tyA
      let ord ← ordOf f.m
      let sc ← scopeOf f.m
      let d ← decWG f.d
      let a ← decWG f.a
      let b ← decWGI f.b
      .ok (.aor h t ord sc d a b)
  | 0x07 => do
      unusedZero f.m true false true true false
      let t ← tyIn f.m tyA
      let ord ← ordOf f.m
      let sc ← scopeOf f.m
      let d ← decWG f.d
      let a ← decWG f.a
      let b ← decWGI f.b
      .ok (.axor h t ord sc d a b)
  | 0x08 => do
      unusedZero f.m true false true true false
      let t ← tyIn f.m tyA
      let ord ← ordOf f.m
      let sc ← scopeOf f.m
      let d ← decWG f.d
      let a ← decWG f.a
      let b ← decWGI f.b
      .ok (.aswp h t ord sc d a b)
  | 0x09 => do
      unusedZero f.m true false true true false
      let t ← tyIn f.m tyA
      let ord ← ordOf f.m
      let sc ← scopeOf f.m
      let d ← decPair f.d
      let a ← decWG f.a
      let b ← decWGI f.b
      .ok (.acas h t ord sc d a b)
  | 0x0A => do
      unusedZero f.m true false false true false
      let t ← tyIn f.m tyMem
      let sc ← scopeOf f.m
      let d ← decWG f.d
      let a ← decWG f.a
      let b ← decWGI f.b
      .ok (.ldacq h t sc d a b)
  | 0x0B => do
      unusedZero f.m true false false true false
      let t ← tyIn f.m tyMem
      let sc ← scopeOf f.m
      let d ← decWG f.d
      let a ← decWG f.a
      let b ← decWGI f.b
      .ok (.strel h t sc d a b)
  | 0x0C => do
      unusedZero f.m false false true true false
      let ord ← ordOf f.m
      stepM (ord != .rlx)
      let sc ← scopeOf f.m
      decNone f.d
      decNone f.a
      decNone f.b
      .ok (.fence h ord sc)
  | 0x0D => do
      unusedZero f.m false false false true false
      let sc ← scopeOf f.m
      let d ← decWGI f.d
      let a ← decWG f.a
      let b ← decWGI f.b
      .ok (.waita h sc d a b)
  | 0x0E => do
      noM f.m
      decNone f.d
      decNone f.a
      decNone f.b
      .ok (.gbar h)
  | _ => .error .insn

/-- Class 0x7 (vector integer): the instruction of each function code the class assigns (R174). -/
def decodeClass7 (func : Nat) (h : Hdr) (f : Fields) : Except DecErr Instr :=
  match func with
  | 0x00 => do
      unusedZero f.m true false false false false
      let t ← tyIn f.m tyAll
      let d ← decV f.d
      let a ← decV f.a
      let b ← decVS f.b
      .ok (.vadd h t d a b)
  | 0x01 => do
      unusedZero f.m true false false false false
      let t ← tyIn f.m tyAll
      let d ← decV f.d
      let a ← decV f.a
      let b ← decVS f.b
      .ok (.vsub h t d a b)
  | 0x02 => do
      unusedZero f.m true false false false false
      let t ← tyIn f.m tyI
      let d ← decV f.d
      let a ← decV f.a
      let b ← decVS f.b
      .ok (.vadds h t d a b)
  | 0x03 => do
      unusedZero f.m true false false false false
      let t ← tyIn f.m tyN
      let d ← decV f.d
      let a ← decV f.a
      let b ← decVS f.b
      .ok (.vaddsn h t d a b)
  | 0x04 => do
      unusedZero f.m true false false false false
      let t ← tyIn f.m tyAll
      let d ← decV f.d
      let a ← decV f.a
      let b ← decVS f.b
      .ok (.vsubs h t d a b)
  | 0x05 => do
      unusedZero f.m true false false false false
      let t ← tyIn f.m tyAll
      let d ← decV f.d
      let a ← decV f.a
      let b ← decVS f.b
      .ok (.vmul h t d a b)
  | 0x06 => do
      unusedZero f.m true false false false false
      let t ← tyIn f.m tyAll
      let d ← decV f.d
      let a ← decV f.a
      let b ← decVS f.b
      .ok (.vmulh h t d a b)
  | 0x07 => do
      unusedZero f.m true false false false false
      tyIs f.m .i32
      let d ← decV f.d
      let a ← decV f.a
      let b ← decVS f.b
      .ok (.vmulhr h d a b)
  | 0x08 => do
      unusedZero f.m true false false false false
      let t ← tyIn f.m tyAll
      let d ← decV f.d
      let a ← decV f.a
      let b ← decVS f.b
      .ok (.vmad h t d a b)
  | 0x09 => do
      unusedZero f.m true false false false false
      let t ← tyIn f.m tyB8i
      let d ← decVQuad f.d
      let a ← decV f.a
      let b ← decVS f.b
      .ok (.vmacw h t d a b)
  | 0x0A => do
      unusedZero f.m true false false false false
      let t ← tyIn f.m tyB8i
      let d ← decV f.d
      let a ← decV f.a
      let b ← decVS f.b
      .ok (.vdot4 h t d a b)
  | 0x0B => do
      unusedZero f.m true false false false false
      let t ← tyIn f.m tyI
      let d ← decV f.d
      let a ← decV f.a
      let b ← decVS f.b
      .ok (.vmin h t d a b)
  | 0x0C => do
      unusedZero f.m true false false false false
      let t ← tyIn f.m tyI
      let d ← decV f.d
      let a ← decV f.a
      let b ← decVS f.b
      .ok (.vmax h t d a b)
  | 0x0D => do
      unusedZero f.m true false false false false
      let t ← tyIn f.m tyN
      let d ← decV f.d
      let a ← decV f.a
      let b ← decVS f.b
      .ok (.vminn h t d a b)
  | 0x0E => do
      unusedZero f.m true false false false false
      let t ← tyIn f.m tyN
      let d ← decV f.d
      let a ← decV f.a
      let b ← decVS f.b
      .ok (.vmaxn h t d a b)
  | 0x0F => do
      unusedZero f.m true false false false false
      let t ← tyIn f.m tyI
      let d ← decV f.d
      let a ← decV f.a
      decNone f.b
      .ok (.vabs h t d a)
  | 0x10 => do
      unusedZero f.m true false false false false
      let t ← tyIn f.m tyAll
      let d ← decV f.d
      let a ← decV f.a
      let b ← decVS f.b
      .ok (.vand h t d a b)
  | 0x11 => do
      unusedZero f.m true false false false false
      let t ← tyIn f.m tyAll
      let d ← decV f.d
      let a ← decV f.a
      let b ← decVS f.b
      .ok (.vor h t d a b)
  | 0x12 => do
      unusedZero f.m true false false false false
      let t ← tyIn f.m tyAll
      let d ← decV f.d
      let a ← decV f.a
      let b ← decVS f.b
      .ok (.vxor h t d a b)
  | 0x13 => do
      unusedZero f.m true false false false false
      let t ← tyIn f.m tyAll
      let d ← decV f.d
      let a ← decV f.a
      let b ← decVS f.b
      .ok (.vshl h t d a b)
  | 0x14 => do
      unusedZero f.m true false false false false
      let t ← tyIn f.m tyN
      let d ← decV f.d
      let a ← decV f.a
      let b ← decVS f.b
      .ok (.vshr h t d a b)
  | 0x15 => do
      unusedZero f.m true false false false false
      let t ← tyIn f.m tyI
      let d ← decV f.d
      let a ← decV f.a
      let b ← decVS f.b
      .ok (.vsar h t d a b)
  | 0x16 => do
      unusedZero f.m true false false false false
      let t ← tyIn f.m tyI
      let d ← decV f.d
      let a ← decV f.a
      let b ← decVS f.b
      .ok (.vrshr h t d a b)
  | 0x17 => do
      unusedZero f.m true false false false true
      let t ← tyIn f.m tyNarI
      let p := mCount f.m
      stepM (decide (p.toNat < 2))
      let d ← decV f.d
      let a ← decV f.a
      decNone f.b
      .ok (.vnars h t p d a)
  | 0x18 => do
      unusedZero f.m true false false false true
      let t ← tyIn f.m tyNarN
      let p := mCount f.m
      stepM (decide (p.toNat < 2))
      let d ← decV f.d
      let a ← decV f.a
      decNone f.b
      .ok (.vnarn h t p d a)
  | 0x19 => do
      unusedZero f.m true false false false true
      let t ← tyIn f.m tyNarI
      let p := mCount f.m
      stepM (decide (p.toNat < 2))
      let d ← decV f.d
      let a ← decV f.a
      decNone f.b
      .ok (.vwid h t p d a)
  | 0x1A => do
      unusedZero f.m true false false false true
      let t ← tyIn f.m tyNarN
      let p := mCount f.m
      stepM (decide (p.toNat < 2))
      let d ← decV f.d
      let a ← decV f.a
      decNone f.b
      .ok (.vwidn h t p d a)
  | 0x1B => do
      unusedZero f.m true true false false false
      let t ← tyIn f.m tyAll
      let c ← subCond f.m
      let d ← decP f.d
      let a ← decV f.a
      let b ← decVS f.b
      .ok (.vcmp h t c d a b)
  | 0x1C => do
      unusedZero f.m true true false false false
      let t ← tyIn f.m tyAll
      let pk ← subP f.m
      let d ← decV f.d
      let a ← decV f.a
      let b ← decVS f.b
      .ok (.vsel h t pk d a b)
  | 0x1D => do
      unusedZero f.m true false false false false
      let t ← tyIn f.m tyAll
      let d ← decV f.d
      decNone f.a
      let b ← decWGI f.b
      .ok (.vsplat h t d b)
  | 0x1E => do
      unusedZero f.m true false false false false
      let t ← tyIn f.m tyAll
      let d ← decV f.d
      let a ← decV f.a
      let b ← decV f.b
      .ok (.vperm h t d a b)
  | 0x1F => do
      unusedZero f.m true false false false false
      let t ← tyIn f.m tyAll
      let d ← decV f.d
      let a ← decV f.a
      let b ← decWGI f.b
      .ok (.vslide h t d a b)
  | 0x20 => do
      unusedZero f.m true false false false false
      let t ← tyIn f.m tyAll
      let d ← decV f.d
      decNone f.a
      let b ← decWGI f.b
      .ok (.viota h t d b)
  | 0x21 => do
      unusedZero f.m true false false false false
      let t ← tyIn f.m tyAll
      let d ← decWG f.d
      let a ← decV f.a
      decNone f.b
      .ok (.vredadd h t d a)
  | 0x22 => do
      unusedZero f.m true false false false false
      let t ← tyIn f.m tyAll
      let d ← decWG f.d
      let a ← decV f.a
      decNone f.b
      .ok (.vredmax h t d a)
  | 0x23 => do
      unusedZero f.m true false false false false
      let t ← tyIn f.m tyAll
      let d ← decWG f.d
      let a ← decV f.a
      decNone f.b
      .ok (.vredmin h t d a)
  | 0x24 => do
      unusedZero f.m true false false false false
      let t ← tyIn f.m tyAll
      let d ← decWG f.d
      let a ← decV f.a
      let b ← decWGI f.b
      .ok (.vmovs h t d a b)
  | 0x25 => do
      unusedZero f.m true false false false false
      let t ← tyIn f.m tyAll
      let d ← decV f.d
      decNone f.a
      decNone f.b
      .ok (.vclr h t d)
  | _ => .error .insn

/-- Class 0x8 (vector FP, conversion, long accumulator): the instruction of each function code the class assigns (R174). -/
def decodeClass8 (func : Nat) (h : Hdr) (f : Fields) : Except DecErr Instr :=
  match func with
  | 0x00 => do
      unusedZero f.m true false false false false
      let t ← tyIn f.m tyFv
      let d ← decV f.d
      let a ← decV f.a
      let b ← decVWG f.b
      .ok (.vfadd h t d a b)
  | 0x01 => do
      unusedZero f.m true false false false false
      let t ← tyIn f.m tyFv
      let d ← decV f.d
      let a ← decV f.a
      let b ← decVWG f.b
      .ok (.vfsub h t d a b)
  | 0x02 => do
      unusedZero f.m true false false false false
      let t ← tyIn f.m tyFv
      let d ← decV f.d
      let a ← decV f.a
      let b ← decVWG f.b
      .ok (.vfmul h t d a b)
  | 0x03 => do
      unusedZero f.m true false false false false
      let t ← tyIn f.m tyFv
      let d ← decV f.d
      let a ← decV f.a
      let b ← decVWG f.b
      .ok (.vffma h t d a b)
  | 0x04 => do
      unusedZero f.m true false false false false
      let t ← tyIn f.m tyFv
      let d ← decV f.d
      let a ← decV f.a
      let b ← decVWG f.b
      .ok (.vfmin h t d a b)
  | 0x05 => do
      unusedZero f.m true false false false false
      let t ← tyIn f.m tyFv
      let d ← decV f.d
      let a ← decV f.a
      let b ← decVWG f.b
      .ok (.vfmax h t d a b)
  | 0x06 => do
      unusedZero f.m true false false false false
      let t ← tyIn f.m tyFv
      let d ← decV f.d
      let a ← decV f.a
      decNone f.b
      .ok (.vfabs h t d a)
  | 0x07 => do
      unusedZero f.m true false false false false
      let t ← tyIn f.m tyFv
      let d ← decV f.d
      let a ← decV f.a
      decNone f.b
      .ok (.vfneg h t d a)
  | 0x08 => do
      unusedZero f.m true false false false false
      tyIs f.m .f32
      let d ← decV f.d
      let a ← decV f.a
      decNone f.b
      .ok (.vfrcp h d a)
  | 0x09 => do
      unusedZero f.m true false false false false
      tyIs f.m .f32
      let d ← decV f.d
      let a ← decV f.a
      decNone f.b
      .ok (.vfrsq h d a)
  | 0x0A => do
      unusedZero f.m true false false false false
      tyIs f.m .f32
      let d ← decV f.d
      let a ← decV f.a
      decNone f.b
      .ok (.vfexp2 h d a)
  | 0x0B => do
      unusedZero f.m true false false false false
      tyIs f.m .f32
      let d ← decV f.d
      let a ← decV f.a
      decNone f.b
      .ok (.vflog2 h d a)
  | 0x0C => do
      unusedZero f.m true true false false false
      let t ← tyIn f.m tyFv
      let c ← subFCond f.m
      let d ← decP f.d
      let a ← decV f.a
      let b ← decVWG f.b
      .ok (.vfcmp h t c d a b)
  | 0x0D => do
      unusedZero f.m true false false false false
      tyIs f.m .f32
      let d ← decWG f.d
      let a ← decV f.a
      decNone f.b
      .ok (.vfradd h d a)
  | 0x0E => do
      unusedZero f.m true false false false false
      tyIs f.m .f32
      let d ← decWG f.d
      let a ← decV f.a
      decNone f.b
      .ok (.vfrmax h d a)
  | 0x0F => do
      unusedZero f.m true false false false false
      let t ← tyIn f.m tyC32
      let d ← decV f.d
      let a ← decV f.a
      decNone f.b
      .ok (.vcvtfi h t d a)
  | 0x10 => do
      unusedZero f.m true false false false false
      let t ← tyIn f.m tyC32
      let d ← decV f.d
      let a ← decV f.a
      decNone f.b
      .ok (.vcvtif h t d a)
  | 0x11 => do
      unusedZero f.m true false false false true
      tyIs f.m .f32
      let p := mCount f.m
      stepM (decide (p.toNat < 2))
      let d ← decV f.d
      let a ← decV f.a
      decNone f.b
      .ok (.vcvtfb h p d a)
  | 0x12 => do
      unusedZero f.m true false false false true
      tyIs f.m .f32
      let p := mCount f.m
      stepM (decide (p.toNat < 2))
      let d ← decV f.d
      let a ← decV f.a
      decNone f.b
      .ok (.vcvtfbs h p d a)
  | 0x13 => do
      unusedZero f.m true false false false true
      tyIs f.m .f32
      let p := mCount f.m
      stepM (decide (p.toNat < 2))
      let d ← decV f.d
      let a ← decV f.a
      decNone f.b
      .ok (.vcvtfh h p d a)
  | 0x14 => do
      unusedZero f.m true false false false true
      let t ← tyIn f.m tyFv
      let p := mCount f.m
      stepM (decide (p.toNat < (cvtParts t)))
      let d ← decV f.d
      let a ← decV f.a
      decNone f.b
      .ok (.vcvte4s h t p d a)
  | 0x15 => do
      unusedZero f.m true false false false true
      let t ← tyIn f.m tyFv
      let p := mCount f.m
      stepM (decide (p.toNat < (cvtParts t)))
      let d ← decV f.d
      let a ← decV f.a
      decNone f.b
      .ok (.vcvte4o h t p d a)
  | 0x16 => do
      unusedZero f.m true false false false true
      let t ← tyIn f.m tyFv
      let p := mCount f.m
      stepM (decide (p.toNat < (cvtParts t)))
      let d ← decV f.d
      let a ← decV f.a
      decNone f.b
      .ok (.vcvte5s h t p d a)
  | 0x17 => do
      unusedZero f.m true false false false true
      let t ← tyIn f.m tyFv
      let p := mCount f.m
      stepM (decide (p.toNat < (cvtParts t)))
      let d ← decV f.d
      let a ← decV f.a
      decNone f.b
      .ok (.vcvte5o h t p d a)
  | 0x18 => do
      unusedZero f.m true false false false true
      let t ← tyIn f.m tyFv
      let p := mCount f.m
      stepM (decide (p.toNat < (cvtParts t)))
      let d ← decV f.d
      let a ← decV f.a
      decNone f.b
      .ok (.vcvtf4s h t p d a)
  | 0x19 => do
      unusedZero f.m true false false false true
      let t ← tyIn f.m tyWidf
      let p := mCount f.m
      stepM (decide (p.toNat < (widfParts t)))
      let d ← decV f.d
      let a ← decV f.a
      decNone f.b
      .ok (.vwidf h t p d a)
  | 0x1A => do
      unusedZero f.m true false false false true
      let t ← tyIn f.m tyBlk
      let p := mCount f.m
      stepM (decide (p.toNat < (decqParts t)))
      let d ← decV f.d
      let a ← decV f.a
      let b ← decWG f.b
      .ok (.vdecq h t p d a b)
  | 0x1B => do
      unusedZero f.m true false false false true
      tyIs f.m .b4
      let p := mCount f.m
      stepM (decide (p.toNat < 4))
      let d ← decV f.d
      let a ← decV f.a
      let b ← decWG f.b
      .ok (.vencq h p d a b)
  | 0x1C => do
      unusedZero f.m true false false false false
      let t ← tyIn f.m tyLw
      let d ← decWG f.d
      let a ← decWG f.a
      let b ← decWG f.b
      .ok (.lwadd h t d a b)
  | 0x1D => do
      unusedZero f.m true false false false false
      tyIs f.m .f32
      let d ← decWG f.d
      let a ← decWG f.a
      decNone f.b
      .ok (.lrnd h d a)
  | 0x1E => do
      noM f.m
      decNone f.d
      let a ← decWG f.a
      decNone f.b
      .ok (.lclr h a)
  | _ => .error .insn

/-- Class 0x9 (vector memory, rings, streams): the instruction of each function code the class assigns (R174). -/
def decodeClass9 (func : Nat) (h : Hdr) (f : Fields) : Except DecErr Instr :=
  match func with
  | 0x00 => do
      unusedZero f.m true false false false false
      let t ← tyIn f.m tyData
      let d ← decV f.d
      let a ← decWGQ f.a
      let b ← decWGI f.b
      .ok (.vld h t d a b)
  | 0x01 => do
      unusedZero f.m true false false false true
      let t ← tyIn f.m tyData
      let k ← vld2CountOf f
      let d ← decVEven f.d
      let a ← decWGQ f.a
      let b ← decWGI f.b
      .ok (.vld2 h t k d a b)
  | 0x02 => do
      unusedZero f.m true false false false false
      let t ← tyIn f.m tyData
      let d ← decV f.d
      let a ← decWGQ f.a
      let b ← decWGI f.b
      .ok (.vst h t d a b)
  | 0x03 => do
      unusedZero f.m true false false false false
      let t ← tyIn f.m tyData
      let d ← decV f.d
      let a ← decWG f.a
      let b ← decWGI f.b
      .ok (.vlds h t d a b)
  | 0x04 => do
      unusedZero f.m true false false false false
      let t ← tyIn f.m tyData
      let d ← decV f.d
      let a ← decWG f.a
      let b ← decWGI f.b
      .ok (.vsts h t d a b)
  | 0x05 => do
      unusedZero f.m true false false false false
      let t ← tyIn f.m tyData
      let d ← decV f.d
      let a ← decWG f.a
      let b ← decV f.b
      .ok (.vgath h t d a b)
  | 0x06 => do
      unusedZero f.m true false false false false
      let t ← tyIn f.m tyData
      let d ← decV f.d
      let a ← decWG f.a
      let b ← decV f.b
      .ok (.vscat h t d a b)
  | 0x07 => do
      unusedZero f.m true false false false false
      let t ← tyIn f.m tyBlk
      let d ← decV f.d
      let a ← decWGQ f.a
      let b ← decWGI f.b
      .ok (.vldb h t d a b)
  | 0x08 => do
      noM f.m
      decNone f.d
      let a ← decRingO0 f.a
      decNone f.b
      .ok (.radvc h a)
  | 0x09 => do
      noM f.m
      decNone f.d
      let a ← decRingO0 f.a
      decNone f.b
      .ok (.radvp h a)
  | 0x0A => do
      noM f.m
      let d ← decWG f.d
      let a ← decRingStat f.a
      decNone f.b
      .ok (.rstat h d a)
  | 0x0B => do
      unusedZero f.m false false true true false
      let ord ← ordOf f.m
      let sc ← scopeOf f.m
      stepM (sendOrd ord sc)
      let d ← decWG f.d
      let a ← decVOpt f.a
      decNone f.b
      .ok (.send h ord sc d a)
  | 0x0C => do
      unusedZero f.m false false true true false
      let ord ← ordOf f.m
      let sc ← scopeOf f.m
      stepM (sendOrd ord sc)
      let d ← decWG f.d
      let a ← decWG f.a
      let b ← decWGI f.b
      .ok (.sendl h ord sc d a b)
  | 0x0D => do
      unusedZero f.m true false false false false
      let t ← tyIn f.m tyStr
      let d ← decV f.d
      let a ← decChan f.a
      decNone f.b
      .ok (.vsred h t d a)
  | 0x0E => do
      unusedZero f.m true false false false false
      let t ← tyIn f.m tyStr
      let d ← decV f.d
      let a ← decChan f.a
      let b ← decV f.b
      .ok (.vsmac h t d a b)
  | 0x0F => do
      noM f.m
      let d ← decV f.d
      let a ← decChan f.a
      decNone f.b
      .ok (.vsmov h d a)
  | 0x10 => do
      noM f.m
      decNone f.d
      let a ← decChan f.a
      decNone f.b
      .ok (.chend h a)
  | _ => .error .insn

/-- Class 0xA (matrix engine): the instruction of each function code the class assigns (R174). -/
def decodeClassA (func : Nat) (h : Hdr) (f : Fields) : Except DecErr Instr :=
  match func with
  | 0x00 => do
      unusedZero f.m true true false false false
      let tb ← tyOf f.m
      let ta ← subTy f.m
      stepM (mmaPair ta tb)
      decNone f.d
      let a ← decWG f.a
      decNone f.b
      .ok (.mlda h ta tb a)
  | 0x01 => do
      unusedZero f.m true true false false true
      let ta ← tyOf f.m
      let tb ← subTy f.m
      stepM (mmaPair ta tb)
      let hm1 := mCount f.m
      stepM (decide (hm1.toNat < 32))
      let d ← decWGI f.d
      let a ← decWG f.a
      let b ← decSuper ta f.b
      .ok (.mgang h ta tb hm1 d a b)
  | 0x02 => do
      unusedZero f.m true true false false true
      let ta ← tyOf f.m
      let tb ← subTy f.m
      stepM (mmaPair ta tb)
      let hm1 := mCount f.m
      stepM (decide (hm1.toNat < 32))
      let d ← decWGI f.d
      let a ← decWG f.a
      let b ← decSuper ta f.b
      .ok (.mma h ta tb hm1 d a b)
  | 0x03 => do
      unusedZero f.m false false false false true
      let hm1 := mCount f.m
      stepM (decide (hm1.toNat < 32))
      let d ← decWGI f.d
      decNone f.a
      decNone f.b
      .ok (.mzero h hm1 d)
  | 0x04 => do
      unusedZero f.m false false false false true
      let hm1 := mCount f.m
      stepM (decide (hm1.toNat < 32))
      let d ← decWGI f.d
      let a ← decWG f.a
      decNone f.b
      .ok (.mstf h hm1 d a)
  | 0x05 => do
      unusedZero f.m false false false false true
      let hm1 := mCount f.m
      stepM (decide (hm1.toNat < 32))
      let d ← decWGI f.d
      let a ← decWG f.a
      let b ← decWG f.b
      .ok (.mstq h hm1 d a b)
  | 0x06 => do
      unusedZero f.m false false false false true
      let hm1 := mCount f.m
      stepM (decide (hm1.toNat < 32))
      let d ← decWGI f.d
      let a ← decWG f.a
      decNone f.b
      .ok (.mstb h hm1 d a)
  | 0x07 => do
      unusedZero f.m false false false false true
      let hm1 := mCount f.m
      stepM (decide (hm1.toNat < 32))
      let d ← decWGI f.d
      let a ← decWG f.a
      decNone f.b
      .ok (.mldc h hm1 d a)
  | 0x08 => do
      noM f.m
      decNone f.d
      decNone f.a
      decNone f.b
      .ok (.mwait h)
  | 0x09 => do
      noM f.m
      let d ← decWG f.d
      decNone f.a
      decNone f.b
      .ok (.mstat h d)
  | _ => .error .insn

/-- Class 0xB (copy engine): the instruction of each function code the class assigns (R174). -/
def decodeClassB (func : Nat) (h : Hdr) (f : Fields) : Except DecErr Instr :=
  match func with
  | 0x00 => do
      unusedZero f.m false false false true false
      let sc ← scopeOf f.m
      let d ← decWGQ f.d
      let a ← decWG f.a
      let b ← decWG f.b
      .ok (.cpy h sc d a b)
  | 0x01 => do
      unusedZero f.m false false false true false
      let sc ← scopeOf f.m
      let d ← decWGQ f.d
      let a ← decPair f.a
      let b ← decWG f.b
      .ok (.cpy2 h sc d a b)
  | 0x02 => do
      unusedZero f.m false false false true false
      let sc ← scopeOf f.m
      let d ← decWGQ f.d
      let a ← decPair f.a
      let b ← decWG f.b
      .ok (.cpyg h sc d a b)
  | 0x03 => do
      unusedZero f.m false false false true false
      let sc ← scopeOf f.m
      let d ← decWGQ f.d
      decNone f.a
      let b ← decWG f.b
      .ok (.cpyz h sc d b)
  | 0x04 => do
      unusedZero f.m false false false true false
      let sc ← scopeOf f.m
      let d ← decWG f.d
      let a ← decPair f.a
      let b ← decWG f.b
      .ok (.cpyb h sc d a b)
  | 0x05 => do
      noM f.m
      decNone f.d
      decNone f.a
      let b ← decWGI f.b
      .ok (.cwait h b)
  | 0x06 => do
      noM f.m
      let d ← decWG f.d
      decNone f.a
      let b ← decWGI f.b
      .ok (.cstat h d b)
  | 0x07 => do
      noM f.m
      let d ← decWG f.d
      decNone f.a
      let b ← decWGI f.b
      .ok (.ccancel h d b)
  | _ => .error .insn

/-- Class 0xC (rake): the instruction of each function code the class assigns (R174). -/
def decodeClassC (func : Nat) (h : Hdr) (f : Fields) : Except DecErr Instr :=
  match func with
  | 0x00 => do
      unusedZero f.m false false false false true
      let c := mCount f.m
      stepM (decide (c.toNat < 4))
      decNone f.d
      let a ← decWG f.a
      decNone f.b
      .ok (.rkdecl h c a)
  | 0x01 => do
      unusedZero f.m false false false false true
      let c := mCount f.m
      stepM (decide (c.toNat < 4))
      decNone f.d
      decNone f.a
      decNone f.b
      .ok (.rksweep h c)
  | 0x02 => do
      unusedZero f.m false false false false true
      let c := mCount f.m
      stepM (decide (c.toNat < 4))
      decNone f.d
      let a ← decWGI f.a
      let b ← decWGI f.b
      .ok (.rkwake h c a b)
  | 0x03 => do
      noM f.m
      decNone f.d
      decNone f.a
      decNone f.b
      .ok (.rknext h)
  | 0x04 => do
      unusedZero f.m false false false false true
      let c := mCount f.m
      stepM (decide (c.toNat < 4))
      decNone f.d
      decNone f.a
      decNone f.b
      .ok (.rkwait h c)
  | 0x05 => do
      unusedZero f.m false false false false true
      let c := mCount f.m
      stepM (decide (c.toNat < 4))
      let d ← decWG f.d
      decNone f.a
      decNone f.b
      .ok (.rkstat h c d)
  | _ => .error .insn

/-- Class 0xD (work): the instruction of each function code the class assigns (R174). -/
def decodeClassD (func : Nat) (h : Hdr) (f : Fields) : Except DecErr Instr :=
  match func with
  | 0x00 => do
      noM f.m
      let d ← decWG f.d
      let a ← decWG f.a
      let b ← decWGI f.b
      .ok (.spawn h d a b)
  | 0x01 => do
      noM f.m
      let d ← decWG f.d
      let a ← decWG f.a
      decNone f.b
      .ok (.launch h d a)
  | 0x02 => do
      noM f.m
      let d ← decWG f.d
      let a ← decWG f.a
      let b ← decWGI f.b
      .ok (.glaunch h d a b)
  | 0x03 => do
      unusedZero f.m false true false false false
      let lvl ← subLevel f.m
      let d ← decWG f.d
      let a ← decWGI f.a
      decNone f.b
      .ok (.cancel h lvl d a)
  | 0x04 => do
      noM f.m
      let d ← decWG f.d
      let a ← decPair f.a
      let b ← decWG f.b
      .ok (.bind h d a b)
  | 0x05 => do
      noM f.m
      let d ← decWG f.d
      decNone f.a
      let b ← decWGI f.b
      .ok (.unbind h d b)
  | 0x06 => do
      unusedZero f.m false true false false false
      let lvl ← subLevel f.m
      let d ← decWG f.d
      let a ← decWGI f.a
      decNone f.b
      .ok (.compl h lvl d a)
  | 0x07 => do
      unusedZero f.m false true false true false
      let cls ← subWake f.m
      let sc ← scopeOf f.m
      let d ← decWG f.d
      let a ← decWGI f.a
      let b ← decWG f.b
      .ok (.kindle h cls sc d a b)
  | 0x08 => do
      noM f.m
      let d ← decWG f.d
      let a ← decWGI f.a
      decNone f.b
      .ok (.migrate h d a)
  | 0x09 => do
      unusedZero f.m false false false false true
      let cnt := mCount f.m
      stepM (decide (1 ≤ cnt.toNat) && decide (cnt.toNat ≤ 16))
      let d ← decWG f.d
      let a ← decWGI f.a
      let b ← decV f.b
      .ok (.tkcmt h cnt d a b)
  | 0x0A => do
      unusedZero f.m false false false false true
      let idx := mCount f.m
      stepM (decide (idx.toNat < 5))
      let d ← decWG f.d
      let a ← decWGI f.a
      let b ← decWG f.b
      .ok (.tkwset h idx d a b)
  | 0x0B => do
      unusedZero f.m false false false false true
      let idx := mCount f.m
      stepM (decide (idx.toNat < 5))
      let d ← decWG f.d
      let a ← decWGI f.a
      decNone f.b
      .ok (.tkwclr h idx d a)
  | 0x0C => do
      noM f.m
      decNone f.d
      let a ← decWG f.a
      let b ← decWGI f.b
      .ok (.notify h a b)
  | 0x0D => do
      noM f.m
      decNone f.d
      decNone f.a
      decNone f.b
      .ok (.idle h)
  | _ => .error .insn

/-- Class 0xE (system): the instruction of each function code the class assigns (R174). -/
def decodeClassE (func : Nat) (h : Hdr) (f : Fields) : Except DecErr Instr :=
  match func with
  | 0x00 => do
      noM f.m
      let d ← decWG f.d
      let a ← decSReg f.a
      decNone f.b
      .ok (.srd h d a)
  | 0x01 => do
      noM f.m
      let d ← decSRegW f.d
      let a ← decWGI f.a
      decNone f.b
      .ok (.swr h d a)
  | 0x02 => do
      unusedZero f.m false true false false false
      let k ← subInv f.m
      decNone f.d
      let a ← decWG f.a
      let b ← decWG f.b
      .ok (.tlbinv h k a b)
  | 0x03 => do
      noM f.m
      decNone f.d
      let a ← decWGI f.a
      decNone f.b
      .ok (.seed h a)
  | 0x04 => do
      noM f.m
      let d ← decWG f.d
      decNone f.a
      decNone f.b
      .ok (.rand h d)
  | 0x05 => do
      noM f.m
      let d ← decWG f.d
      let a ← decWGI f.a
      let b ← decWGI f.b
      .ok (.lturn h d a b)
  | 0x06 => do
      noM f.m
      let d ← decWG f.d
      let a ← decWGI f.a
      decNone f.b
      .ok (.pwrreq h d a)
  | 0x07 => do
      noM f.m
      let d ← decWG f.d
      let a ← decWGI f.a
      let b ← decWGI f.b
      .ok (.railsel h d a b)
  | 0x08 => do
      noM f.m
      decNone f.d
      let a ← decWGI f.a
      decNone f.b
      .ok (.trmark h a)
  | 0x09 => do
      noM f.m
      decNone f.d
      let a ← decImm f.a
      decNone f.b
      .ok (.bkpt h a)
  | 0x0A => do
      noM f.m
      decNone f.d
      decNone f.a
      decNone f.b
      .ok (.eret h)
  | 0x0B => do
      unusedZero f.m false false false false true
      let idx := mCount f.m
      stepM (decide (1 ≤ idx.toNat) && decide (idx.toNat ≤ 7))
      let d ← decWG f.d
      let a ← decWG f.a
      decNone f.b
      .ok (.pinset h idx d a)
  | 0x0C => do
      noM f.m
      let d ← decPair f.d
      let a ← decWGI f.a
      decNone f.b
      .ok (.dlyrd h d a)
  | 0x0D => do
      noM f.m
      decNone f.d
      let a ← decWGI f.a
      decNone f.b
      .ok (.dlyclr h a)
  | 0x0E => do
      noM f.m
      let d ← decWG f.d
      let a ← decWGI f.a
      decNone f.b
      .ok (.mcrd h d a)
  | 0x0F => do
      noM f.m
      decNone f.d
      decNone f.a
      decNone f.b
      .ok (.halt h)
  | 0x10 => do
      noM f.m
      decNone f.d
      decNone f.a
      decNone f.b
      .ok (.csync h)
  | _ => .error .insn

/-- The function codes a class assigns (R174): those below this number, but for 0x000, which is ILLEGAL. -/
def classSize (c : Nat) : Nat :=
  match c with
  | 0x0 => 0x11
  | 0x1 => 0x18
  | 0x2 => 0x0A
  | 0x3 => 0x0A
  | 0x4 => 0x10
  | 0x5 => 0x09
  | 0x6 => 0x0F
  | 0x7 => 0x26
  | 0x8 => 0x1F
  | 0x9 => 0x11
  | 0xA => 0x0A
  | 0xB => 0x08
  | 0xC => 0x06
  | 0xD => 0x0E
  | 0xE => 0x11
  | _ => 0

/-- B holds a long immediate and the instruction accepts none there: step 7 refuses it, and step 5 is skipped, but for
LOOP's range (R167, R173). -/
def badLong (f : Fields) : Bool :=
  isLong f.b && !([0x040#10, 0x04A#10, 0x04B#10, 0x04C#10, 0x056#10, 0x0C0#10].contains f.op)
/-- The modifier check that a long immediate does not skip: LOOP's range (R173 step 5). -/
def badLongErr (f : Fields) : DecErr := if f.op == 0x00A#10 && !loopRange f.m then .insn else .operand

/-- The instruction of a class and a function code. -/
def decodeClass (c func : Nat) (h : Hdr) (f : Fields) : Except DecErr Instr :=
  match c with
  | 0x0 => decodeClass0 func h f
  | 0x1 => decodeClass1 func h f
  | 0x2 => decodeClass2 func h f
  | 0x3 => decodeClass3 func h f
  | 0x4 => decodeClass4 func h f
  | 0x5 => decodeClass5 func h f
  | 0x6 => decodeClass6 func h f
  | 0x7 => decodeClass7 func h f
  | 0x8 => decodeClass8 func h f
  | 0x9 => decodeClass9 func h f
  | 0xA => decodeClassA func h f
  | 0xB => decodeClassB func h f
  | 0xC => decodeClassC func h f
  | 0xD => decodeClassD func h f
  | 0xE => decodeClassE func h f
  | _ => .error .insn

/-- Steps 1 to 5 and 7 of R173, in their order. -/
def decodeFields (f : Fields) : Except DecErr Instr :=
  if f.op = 0 then .ok (.illegal (illegalRest f))
  else
    let c := f.op.toNat / 64
    let func := f.op.toNat % 64
    if classSize c ≤ func then .error .insn
    else if (hdrOf f).wf = false then .error .insn
    else if badLong f then .error (badLongErr f)
    else decodeClass c func (hdrOf f) f

/-- The instruction of a 96-bit word, or why it is none. -/
def decodeWord (w : BitVec 96) : Except DecErr Instr := decodeFields (fieldsOf w)

/-- The fields of an instruction; a device event has none. -/
def encodeFields : Instr → Option Fields
  | .illegal rest => some (illegalFields rest)
  | .nop h => some (mkFields h 0x001 0 0 0 0)
  | .br h off => some (mkFields h 0x002 0 0 0 off)
  | .brz h off a => some (mkFields h 0x003 0 (encWG a) 0 off)
  | .brnz h off a => some (mkFields h 0x004 0 (encWG a) 0 off)
  | .brdec h off d => some (mkFields h 0x005 (encWG d) 0 0 off)
  | .jmp h a => some (mkFields h 0x006 0 (encWG a) 0 0)
  | .call h off => some (mkFields h 0x007 0 0 0 off)
  | .callr h a => some (mkFields h 0x008 0 (encWG a) 0 0)
  | .ret h => some (mkFields h 0x009 0 0 0 0)
  | .loop h off a => some (mkFields h 0x00A 0 (encWGI a) 0 off)
  | .lbrk h => some (mkFields h 0x00B 0 0 0 0)
  | .fork h off d a b => some (mkFields h 0x00C (encWG d) (encWG a) (encWGI b) off)
  | .join h a => some (mkFields h 0x00D 0 (encWG a) 0 0)
  | .endTask h => some (mkFields h 0x00E 0 0 0 0)
  | .step h => some (mkFields h 0x00F 0 0 0 0)
  | .trap h a => some (mkFields h 0x010 0 (encWGI a) 0 0)
  | .iadd h t d a b => some (mkFields h 0x040 (encWG d) (encWG a) (encWGIL b) (longM b (packM t.code 0 0 0 0)))
  | .isub h t d a b => some (mkFields h 0x041 (encWG d) (encWG a) (encWGI b) (packM t.code 0 0 0 0))
  | .iadds h t d a b => some (mkFields h 0x042 (encWG d) (encWG a) (encWGI b) (packM t.code 0 0 0 0))
  | .isubs h t d a b => some (mkFields h 0x043 (encWG d) (encWG a) (encWGI b) (packM t.code 0 0 0 0))
  | .ineg h t d a => some (mkFields h 0x044 (encWG d) (encWG a) 0 (packM t.code 0 0 0 0))
  | .iabs h t d a => some (mkFields h 0x045 (encWG d) (encWG a) 0 (packM t.code 0 0 0 0))
  | .imin h t d a b => some (mkFields h 0x046 (encWG d) (encWG a) (encWGI b) (packM t.code 0 0 0 0))
  | .imax h t d a b => some (mkFields h 0x047 (encWG d) (encWG a) (encWGI b) (packM t.code 0 0 0 0))
  | .iminn h t d a b => some (mkFields h 0x048 (encWG d) (encWG a) (encWGI b) (packM t.code 0 0 0 0))
  | .imaxn h t d a b => some (mkFields h 0x049 (encWG d) (encWG a) (encWGI b) (packM t.code 0 0 0 0))
  | .iand h t d a b => some (mkFields h 0x04A (encWG d) (encWG a) (encWGIL b) (longM b (packM t.code 0 0 0 0)))
  | .ior h t d a b => some (mkFields h 0x04B (encWG d) (encWG a) (encWGIL b) (longM b (packM t.code 0 0 0 0)))
  | .ixor h t d a b => some (mkFields h 0x04C (encWG d) (encWG a) (encWGIL b) (longM b (packM t.code 0 0 0 0)))
  | .iandn h t d a b => some (mkFields h 0x04D (encWG d) (encWG a) (encWGI b) (packM t.code 0 0 0 0))
  | .ishl h t d a b => some (mkFields h 0x04E (encWG d) (encWG a) (encWGI b) (packM t.code 0 0 0 0))
  | .ishr h t d a b => some (mkFields h 0x04F (encWG d) (encWG a) (encWGI b) (packM t.code 0 0 0 0))
  | .isar h t d a b => some (mkFields h 0x050 (encWG d) (encWG a) (encWGI b) (packM t.code 0 0 0 0))
  | .irot h t d a b => some (mkFields h 0x051 (encWG d) (encWG a) (encWGI b) (packM t.code 0 0 0 0))
  | .iext h len d a b => some (mkFields h 0x052 (encWG d) (encWG a) (encWGI b) (packM Ty.i64.code 0 0 0 len))
  | .iextn h len d a b => some (mkFields h 0x053 (encWG d) (encWG a) (encWGI b) (packM Ty.n64.code 0 0 0 len))
  | .iins h len d a b => some (mkFields h 0x054 (encWG d) (encWG a) (encWGI b) (packM Ty.n64.code 0 0 0 len))
  | .icnt h t k d a => some (mkFields h 0x055 (encWG d) (encWG a) 0 (packM t.code (CntKind.code k) 0 0 0))
  | .imov h t d b => some (mkFields h 0x056 (encWG d) 0 (encWGIL b) (longM b (packM t.code 0 0 0 0)))
  | .isel h t pk d a b => some (mkFields h 0x057 (encWG d) (encWG a) (encWGI b) (packM t.code (pCode pk) 0 0 0))
  | .imul h t d a b => some (mkFields h 0x080 (encWG d) (encWG a) (encWGI b) (packM t.code 0 0 0 0))
  | .imulh h t d a b => some (mkFields h 0x081 (encWG d) (encWG a) (encWGI b) (packM t.code 0 0 0 0))
  | .imulhn h t d a b => some (mkFields h 0x082 (encWG d) (encWG a) (encWGI b) (packM t.code 0 0 0 0))
  | .imad h t d a b => some (mkFields h 0x083 (encWG d) (encWG a) (encWGI b) (packM t.code 0 0 0 0))
  | .idiv h t d a b => some (mkFields h 0x084 (encWG d) (encWG a) (encWGI b) (packM t.code 0 0 0 0))
  | .idivn h t d a b => some (mkFields h 0x085 (encWG d) (encWG a) (encWGI b) (packM t.code 0 0 0 0))
  | .irem h t d a b => some (mkFields h 0x086 (encWG d) (encWG a) (encWGI b) (packM t.code 0 0 0 0))
  | .iremn h t d a b => some (mkFields h 0x087 (encWG d) (encWG a) (encWGI b) (packM t.code 0 0 0 0))
  | .ilea h sh d a b => some (mkFields h 0x088 (encWG d) (encWG a) (encWGI b) (packM Ty.i64.code 0 0 0 sh))
  | .idxt h d a b => some (mkFields h 0x089 (encWG d) (encPWin a) (encWG b) 0)
  | .icmp h t c d a b => some (mkFields h 0x0C0 (icmpD d t c b) (encWG a) (encWGIL b) (longM b (packM t.code (Cond.code c) 0 0 0)))
  | .fcmp h c d a b => some (mkFields h 0x0C1 (encP d) (encWG a) (encWG b) (packM Ty.f32.code (FCond.code c) 0 0 0))
  | .pand h d a b => some (mkFields h 0x0C2 (encP d) (encP a) (encP b) 0)
  | .por h d a b => some (mkFields h 0x0C3 (encP d) (encP a) (encP b) 0)
  | .pxor h d a b => some (mkFields h 0x0C4 (encP d) (encP a) (encP b) 0)
  | .pnot h d a => some (mkFields h 0x0C5 (encP d) (encP a) 0 0)
  | .pget h d a => some (mkFields h 0x0C6 (encWG d) (encP a) 0 0)
  | .pset h d a => some (mkFields h 0x0C7 (encP d) (encWGI a) 0 0)
  | .pfirst h d a => some (mkFields h 0x0C8 (encWG d) (encP a) 0 0)
  | .pcnt h d a => some (mkFields h 0x0C9 (encWG d) (encP a) 0 0)
  | .fadd h d a b => some (mkFields h 0x100 (encWG d) (encWG a) (encWG b) (packM Ty.f32.code 0 0 0 0))
  | .fsub h d a b => some (mkFields h 0x101 (encWG d) (encWG a) (encWG b) (packM Ty.f32.code 0 0 0 0))
  | .fmul h d a b => some (mkFields h 0x102 (encWG d) (encWG a) (encWG b) (packM Ty.f32.code 0 0 0 0))
  | .ffma h d a b => some (mkFields h 0x103 (encWG d) (encWG a) (encWG b) (packM Ty.f32.code 0 0 0 0))
  | .fdiv h d a b => some (mkFields h 0x104 (encWG d) (encWG a) (encWG b) (packM Ty.f32.code 0 0 0 0))
  | .fsqrt h d a => some (mkFields h 0x105 (encWG d) (encWG a) 0 (packM Ty.f32.code 0 0 0 0))
  | .fmin h d a b => some (mkFields h 0x106 (encWG d) (encWG a) (encWG b) (packM Ty.f32.code 0 0 0 0))
  | .fmax h d a b => some (mkFields h 0x107 (encWG d) (encWG a) (encWG b) (packM Ty.f32.code 0 0 0 0))
  | .fabs h d a => some (mkFields h 0x108 (encWG d) (encWG a) 0 (packM Ty.f32.code 0 0 0 0))
  | .fneg h d a => some (mkFields h 0x109 (encWG d) (encWG a) 0 (packM Ty.f32.code 0 0 0 0))
  | .fcvtif h t d a => some (mkFields h 0x10A (encWG d) (encWG a) 0 (packM t.code 0 0 0 0))
  | .fcvtfi h t d a => some (mkFields h 0x10B (encWG d) (encWG a) 0 (packM t.code 0 0 0 0))
  | .fcvtfiz h t d a => some (mkFields h 0x10C (encWG d) (encWG a) 0 (packM t.code 0 0 0 0))
  | .frcp h d a => some (mkFields h 0x10D (encWG d) (encWG a) 0 (packM Ty.f32.code 0 0 0 0))
  | .fexp2 h d a => some (mkFields h 0x10E (encWG d) (encWG a) 0 (packM Ty.f32.code 0 0 0 0))
  | .flog2 h d a => some (mkFields h 0x10F (encWG d) (encWG a) 0 (packM Ty.f32.code 0 0 0 0))
  | .ld h t d a b => some (mkFields h 0x140 (encWG d) (encWG a) (encWGI b) (packM t.code 0 0 0 0))
  | .st h t d a b => some (mkFields h 0x141 (encWG d) (encWG a) (encWGI b) (packM t.code 0 0 0 0))
  | .ldl h t d a b => some (mkFields h 0x142 (encWG d) (encWG a) (encWGI b) (packM t.code 0 0 0 0))
  | .stl h t d a b => some (mkFields h 0x143 (encWG d) (encWG a) (encWGI b) (packM t.code 0 0 0 0))
  | .ldpw h t d a b => some (mkFields h 0x144 (encWG d) (encPWin a) (encWGOpt b) (packM t.code 0 0 0 0))
  | .pref h a b => some (mkFields h 0x145 0 (encWG a) (encWGI b) 0)
  | .zline h a b => some (mkFields h 0x146 0 (encWG a) (encWGI b) 0)
  | .wbline h a b => some (mkFields h 0x147 0 (encWG a) (encWGI b) 0)
  | .invline h a b => some (mkFields h 0x148 0 (encWG a) (encWGI b) 0)
  | .aadd h t ord sc d a b => some (mkFields h 0x180 (encWG d) (encWG a) (encWGI b) (packM t.code 0 ord.code sc.code 0))
  | .amin h t ord sc d a b => some (mkFields h 0x181 (encWG d) (encWG a) (encWGI b) (packM t.code 0 ord.code sc.code 0))
  | .amax h t ord sc d a b => some (mkFields h 0x182 (encWG d) (encWG a) (encWGI b) (packM t.code 0 ord.code sc.code 0))
  | .aminn h t ord sc d a b => some (mkFields h 0x183 (encWG d) (encWG a) (encWGI b) (packM t.code 0 ord.code sc.code 0))
  | .amaxn h t ord sc d a b => some (mkFields h 0x184 (encWG d) (encWG a) (encWGI b) (packM t.code 0 ord.code sc.code 0))
  | .aand h t ord sc d a b => some (mkFields h 0x185 (encWG d) (encWG a) (encWGI b) (packM t.code 0 ord.code sc.code 0))
  | .aor h t ord sc d a b => some (mkFields h 0x186 (encWG d) (encWG a) (encWGI b) (packM t.code 0 ord.code sc.code 0))
  | .axor h t ord sc d a b => some (mkFields h 0x187 (encWG d) (encWG a) (encWGI b) (packM t.code 0 ord.code sc.code 0))
  | .aswp h t ord sc d a b => some (mkFields h 0x188 (encWG d) (encWG a) (encWGI b) (packM t.code 0 ord.code sc.code 0))
  | .acas h t ord sc d a b => some (mkFields h 0x189 (encWG d) (encWG a) (encWGI b) (packM t.code 0 ord.code sc.code 0))
  | .ldacq h t sc d a b => some (mkFields h 0x18A (encWG d) (encWG a) (encWGI b) (packM t.code 0 0 sc.code 0))
  | .strel h t sc d a b => some (mkFields h 0x18B (encWG d) (encWG a) (encWGI b) (packM t.code 0 0 sc.code 0))
  | .fence h ord sc => some (mkFields h 0x18C 0 0 0 (packM 0 0 ord.code sc.code 0))
  | .waita h sc d a b => some (mkFields h 0x18D (encWGI d) (encWG a) (encWGI b) (packM 0 0 0 sc.code 0))
  | .gbar h => some (mkFields h 0x18E 0 0 0 0)
  | .vadd h t d a b => some (mkFields h 0x1C0 (encV d) (encV a) (encVS b) (packM t.code 0 0 0 0))
  | .vsub h t d a b => some (mkFields h 0x1C1 (encV d) (encV a) (encVS b) (packM t.code 0 0 0 0))
  | .vadds h t d a b => some (mkFields h 0x1C2 (encV d) (encV a) (encVS b) (packM t.code 0 0 0 0))
  | .vaddsn h t d a b => some (mkFields h 0x1C3 (encV d) (encV a) (encVS b) (packM t.code 0 0 0 0))
  | .vsubs h t d a b => some (mkFields h 0x1C4 (encV d) (encV a) (encVS b) (packM t.code 0 0 0 0))
  | .vmul h t d a b => some (mkFields h 0x1C5 (encV d) (encV a) (encVS b) (packM t.code 0 0 0 0))
  | .vmulh h t d a b => some (mkFields h 0x1C6 (encV d) (encV a) (encVS b) (packM t.code 0 0 0 0))
  | .vmulhr h d a b => some (mkFields h 0x1C7 (encV d) (encV a) (encVS b) (packM Ty.i32.code 0 0 0 0))
  | .vmad h t d a b => some (mkFields h 0x1C8 (encV d) (encV a) (encVS b) (packM t.code 0 0 0 0))
  | .vmacw h t d a b => some (mkFields h 0x1C9 (encV d) (encV a) (encVS b) (packM t.code 0 0 0 0))
  | .vdot4 h t d a b => some (mkFields h 0x1CA (encV d) (encV a) (encVS b) (packM t.code 0 0 0 0))
  | .vmin h t d a b => some (mkFields h 0x1CB (encV d) (encV a) (encVS b) (packM t.code 0 0 0 0))
  | .vmax h t d a b => some (mkFields h 0x1CC (encV d) (encV a) (encVS b) (packM t.code 0 0 0 0))
  | .vminn h t d a b => some (mkFields h 0x1CD (encV d) (encV a) (encVS b) (packM t.code 0 0 0 0))
  | .vmaxn h t d a b => some (mkFields h 0x1CE (encV d) (encV a) (encVS b) (packM t.code 0 0 0 0))
  | .vabs h t d a => some (mkFields h 0x1CF (encV d) (encV a) 0 (packM t.code 0 0 0 0))
  | .vand h t d a b => some (mkFields h 0x1D0 (encV d) (encV a) (encVS b) (packM t.code 0 0 0 0))
  | .vor h t d a b => some (mkFields h 0x1D1 (encV d) (encV a) (encVS b) (packM t.code 0 0 0 0))
  | .vxor h t d a b => some (mkFields h 0x1D2 (encV d) (encV a) (encVS b) (packM t.code 0 0 0 0))
  | .vshl h t d a b => some (mkFields h 0x1D3 (encV d) (encV a) (encVS b) (packM t.code 0 0 0 0))
  | .vshr h t d a b => some (mkFields h 0x1D4 (encV d) (encV a) (encVS b) (packM t.code 0 0 0 0))
  | .vsar h t d a b => some (mkFields h 0x1D5 (encV d) (encV a) (encVS b) (packM t.code 0 0 0 0))
  | .vrshr h t d a b => some (mkFields h 0x1D6 (encV d) (encV a) (encVS b) (packM t.code 0 0 0 0))
  | .vnars h t p d a => some (mkFields h 0x1D7 (encV d) (encV a) 0 (packM t.code 0 0 0 p))
  | .vnarn h t p d a => some (mkFields h 0x1D8 (encV d) (encV a) 0 (packM t.code 0 0 0 p))
  | .vwid h t p d a => some (mkFields h 0x1D9 (encV d) (encV a) 0 (packM t.code 0 0 0 p))
  | .vwidn h t p d a => some (mkFields h 0x1DA (encV d) (encV a) 0 (packM t.code 0 0 0 p))
  | .vcmp h t c d a b => some (mkFields h 0x1DB (encP d) (encV a) (encVS b) (packM t.code (Cond.code c) 0 0 0))
  | .vsel h t pk d a b => some (mkFields h 0x1DC (encV d) (encV a) (encVS b) (packM t.code (pCode pk) 0 0 0))
  | .vsplat h t d b => some (mkFields h 0x1DD (encV d) 0 (encWGI b) (packM t.code 0 0 0 0))
  | .vperm h t d a b => some (mkFields h 0x1DE (encV d) (encV a) (encV b) (packM t.code 0 0 0 0))
  | .vslide h t d a b => some (mkFields h 0x1DF (encV d) (encV a) (encWGI b) (packM t.code 0 0 0 0))
  | .viota h t d b => some (mkFields h 0x1E0 (encV d) 0 (encWGI b) (packM t.code 0 0 0 0))
  | .vredadd h t d a => some (mkFields h 0x1E1 (encWG d) (encV a) 0 (packM t.code 0 0 0 0))
  | .vredmax h t d a => some (mkFields h 0x1E2 (encWG d) (encV a) 0 (packM t.code 0 0 0 0))
  | .vredmin h t d a => some (mkFields h 0x1E3 (encWG d) (encV a) 0 (packM t.code 0 0 0 0))
  | .vmovs h t d a b => some (mkFields h 0x1E4 (encWG d) (encV a) (encWGI b) (packM t.code 0 0 0 0))
  | .vclr h t d => some (mkFields h 0x1E5 (encV d) 0 0 (packM t.code 0 0 0 0))
  | .vfadd h t d a b => some (mkFields h 0x200 (encV d) (encV a) (encVWG b) (packM t.code 0 0 0 0))
  | .vfsub h t d a b => some (mkFields h 0x201 (encV d) (encV a) (encVWG b) (packM t.code 0 0 0 0))
  | .vfmul h t d a b => some (mkFields h 0x202 (encV d) (encV a) (encVWG b) (packM t.code 0 0 0 0))
  | .vffma h t d a b => some (mkFields h 0x203 (encV d) (encV a) (encVWG b) (packM t.code 0 0 0 0))
  | .vfmin h t d a b => some (mkFields h 0x204 (encV d) (encV a) (encVWG b) (packM t.code 0 0 0 0))
  | .vfmax h t d a b => some (mkFields h 0x205 (encV d) (encV a) (encVWG b) (packM t.code 0 0 0 0))
  | .vfabs h t d a => some (mkFields h 0x206 (encV d) (encV a) 0 (packM t.code 0 0 0 0))
  | .vfneg h t d a => some (mkFields h 0x207 (encV d) (encV a) 0 (packM t.code 0 0 0 0))
  | .vfrcp h d a => some (mkFields h 0x208 (encV d) (encV a) 0 (packM Ty.f32.code 0 0 0 0))
  | .vfrsq h d a => some (mkFields h 0x209 (encV d) (encV a) 0 (packM Ty.f32.code 0 0 0 0))
  | .vfexp2 h d a => some (mkFields h 0x20A (encV d) (encV a) 0 (packM Ty.f32.code 0 0 0 0))
  | .vflog2 h d a => some (mkFields h 0x20B (encV d) (encV a) 0 (packM Ty.f32.code 0 0 0 0))
  | .vfcmp h t c d a b => some (mkFields h 0x20C (encP d) (encV a) (encVWG b) (packM t.code (FCond.code c) 0 0 0))
  | .vfradd h d a => some (mkFields h 0x20D (encWG d) (encV a) 0 (packM Ty.f32.code 0 0 0 0))
  | .vfrmax h d a => some (mkFields h 0x20E (encWG d) (encV a) 0 (packM Ty.f32.code 0 0 0 0))
  | .vcvtfi h t d a => some (mkFields h 0x20F (encV d) (encV a) 0 (packM t.code 0 0 0 0))
  | .vcvtif h t d a => some (mkFields h 0x210 (encV d) (encV a) 0 (packM t.code 0 0 0 0))
  | .vcvtfb h p d a => some (mkFields h 0x211 (encV d) (encV a) 0 (packM Ty.f32.code 0 0 0 p))
  | .vcvtfbs h p d a => some (mkFields h 0x212 (encV d) (encV a) 0 (packM Ty.f32.code 0 0 0 p))
  | .vcvtfh h p d a => some (mkFields h 0x213 (encV d) (encV a) 0 (packM Ty.f32.code 0 0 0 p))
  | .vcvte4s h t p d a => some (mkFields h 0x214 (encV d) (encV a) 0 (packM t.code 0 0 0 p))
  | .vcvte4o h t p d a => some (mkFields h 0x215 (encV d) (encV a) 0 (packM t.code 0 0 0 p))
  | .vcvte5s h t p d a => some (mkFields h 0x216 (encV d) (encV a) 0 (packM t.code 0 0 0 p))
  | .vcvte5o h t p d a => some (mkFields h 0x217 (encV d) (encV a) 0 (packM t.code 0 0 0 p))
  | .vcvtf4s h t p d a => some (mkFields h 0x218 (encV d) (encV a) 0 (packM t.code 0 0 0 p))
  | .vwidf h t p d a => some (mkFields h 0x219 (encV d) (encV a) 0 (packM t.code 0 0 0 p))
  | .vdecq h t p d a b => some (mkFields h 0x21A (encV d) (encV a) (encWG b) (packM t.code 0 0 0 p))
  | .vencq h p d a b => some (mkFields h 0x21B (encV d) (encV a) (encWG b) (packM Ty.b4.code 0 0 0 p))
  | .lwadd h t d a b => some (mkFields h 0x21C (encWG d) (encWG a) (encWG b) (packM t.code 0 0 0 0))
  | .lrnd h d a => some (mkFields h 0x21D (encWG d) (encWG a) 0 (packM Ty.f32.code 0 0 0 0))
  | .lclr h a => some (mkFields h 0x21E 0 (encWG a) 0 0)
  | .vld h t d a b => some (mkFields h 0x240 (encV d) (encWGQ a) (encWGI b) (packM t.code 0 0 0 0))
  | .vld2 h t k d a b => some (mkFields h 0x241 (encV d) (encWGQ a) (encWGI b) (packM t.code 0 0 0 k))
  | .vst h t d a b => some (mkFields h 0x242 (encV d) (encWGQ a) (encWGI b) (packM t.code 0 0 0 0))
  | .vlds h t d a b => some (mkFields h 0x243 (encV d) (encWG a) (encWGI b) (packM t.code 0 0 0 0))
  | .vsts h t d a b => some (mkFields h 0x244 (encV d) (encWG a) (encWGI b) (packM t.code 0 0 0 0))
  | .vgath h t d a b => some (mkFields h 0x245 (encV d) (encWG a) (encV b) (packM t.code 0 0 0 0))
  | .vscat h t d a b => some (mkFields h 0x246 (encV d) (encWG a) (encV b) (packM t.code 0 0 0 0))
  | .vldb h t d a b => some (mkFields h 0x247 (encV d) (encWGQ a) (encWGI b) (packM t.code 0 0 0 0))
  | .radvc h a => some (mkFields h 0x248 0 (encRing a) 0 0)
  | .radvp h a => some (mkFields h 0x249 0 (encRing a) 0 0)
  | .rstat h d a => some (mkFields h 0x24A (encWG d) (encRing a) 0 0)
  | .send h ord sc d a => some (mkFields h 0x24B (encWG d) (encVOpt a) 0 (packM 0 0 ord.code sc.code 0))
  | .sendl h ord sc d a b => some (mkFields h 0x24C (encWG d) (encWG a) (encWGI b) (packM 0 0 ord.code sc.code 0))
  | .vsred h t d a => some (mkFields h 0x24D (encV d) (encChan a) 0 (packM t.code 0 0 0 0))
  | .vsmac h t d a b => some (mkFields h 0x24E (encV d) (encChan a) (encV b) (packM t.code 0 0 0 0))
  | .vsmov h d a => some (mkFields h 0x24F (encV d) (encChan a) 0 0)
  | .chend h a => some (mkFields h 0x250 0 (encChan a) 0 0)
  | .mlda h ta tb a => some (mkFields h 0x280 0 (encWG a) 0 (packM tb.code ta.code 0 0 0))
  | .mgang h ta tb hm1 d a b => some (mkFields h 0x281 (encWGI d) (encWG a) (encWGOpt b) (packM ta.code tb.code 0 0 hm1))
  | .mma h ta tb hm1 d a b => some (mkFields h 0x282 (encWGI d) (encWG a) (encWGOpt b) (packM ta.code tb.code 0 0 hm1))
  | .mzero h hm1 d => some (mkFields h 0x283 (encWGI d) 0 0 (packM 0 0 0 0 hm1))
  | .mstf h hm1 d a => some (mkFields h 0x284 (encWGI d) (encWG a) 0 (packM 0 0 0 0 hm1))
  | .mstq h hm1 d a b => some (mkFields h 0x285 (encWGI d) (encWG a) (encWG b) (packM 0 0 0 0 hm1))
  | .mstb h hm1 d a => some (mkFields h 0x286 (encWGI d) (encWG a) 0 (packM 0 0 0 0 hm1))
  | .mldc h hm1 d a => some (mkFields h 0x287 (encWGI d) (encWG a) 0 (packM 0 0 0 0 hm1))
  | .mwait h => some (mkFields h 0x288 0 0 0 0)
  | .mstat h d => some (mkFields h 0x289 (encWG d) 0 0 0)
  | .cpy h sc d a b => some (mkFields h 0x2C0 (encWGQ d) (encWG a) (encWG b) (packM 0 0 0 sc.code 0))
  | .cpy2 h sc d a b => some (mkFields h 0x2C1 (encWGQ d) (encWG a) (encWG b) (packM 0 0 0 sc.code 0))
  | .cpyg h sc d a b => some (mkFields h 0x2C2 (encWGQ d) (encWG a) (encWG b) (packM 0 0 0 sc.code 0))
  | .cpyz h sc d b => some (mkFields h 0x2C3 (encWGQ d) 0 (encWG b) (packM 0 0 0 sc.code 0))
  | .cpyb h sc d a b => some (mkFields h 0x2C4 (encWG d) (encWG a) (encWG b) (packM 0 0 0 sc.code 0))
  | .cwait h b => some (mkFields h 0x2C5 0 0 (encWGI b) 0)
  | .cstat h d b => some (mkFields h 0x2C6 (encWG d) 0 (encWGI b) 0)
  | .ccancel h d b => some (mkFields h 0x2C7 (encWG d) 0 (encWGI b) 0)
  | .rkdecl h c a => some (mkFields h 0x300 0 (encWG a) 0 (packM 0 0 0 0 c))
  | .rksweep h c => some (mkFields h 0x301 0 0 0 (packM 0 0 0 0 c))
  | .rkwake h c a b => some (mkFields h 0x302 0 (encWGI a) (encWGI b) (packM 0 0 0 0 c))
  | .rknext h => some (mkFields h 0x303 0 0 0 0)
  | .rkwait h c => some (mkFields h 0x304 0 0 0 (packM 0 0 0 0 c))
  | .rkstat h c d => some (mkFields h 0x305 (encWG d) 0 0 (packM 0 0 0 0 c))
  | .spawn h d a b => some (mkFields h 0x340 (encWG d) (encWG a) (encWGI b) 0)
  | .launch h d a => some (mkFields h 0x341 (encWG d) (encWG a) 0 0)
  | .glaunch h d a b => some (mkFields h 0x342 (encWG d) (encWG a) (encWGI b) 0)
  | .cancel h lvl d a => some (mkFields h 0x343 (encWG d) (encWGI a) 0 (packM 0 (Level.code lvl) 0 0 0))
  | .bind h d a b => some (mkFields h 0x344 (encWG d) (encWG a) (encWG b) 0)
  | .unbind h d b => some (mkFields h 0x345 (encWG d) 0 (encWGI b) 0)
  | .compl h lvl d a => some (mkFields h 0x346 (encWG d) (encWGI a) 0 (packM 0 (Level.code lvl) 0 0 0))
  | .kindle h cls sc d a b => some (mkFields h 0x347 (encWG d) (encWGI a) (encWG b) (packM 0 (WakeClass.code cls) 0 sc.code 0))
  | .migrate h d a => some (mkFields h 0x348 (encWG d) (encWGI a) 0 0)
  | .tkcmt h cnt d a b => some (mkFields h 0x349 (encWG d) (encWGI a) (encV b) (packM 0 0 0 0 cnt))
  | .tkwset h idx d a b => some (mkFields h 0x34A (encWG d) (encWGI a) (encWG b) (packM 0 0 0 0 idx))
  | .tkwclr h idx d a => some (mkFields h 0x34B (encWG d) (encWGI a) 0 (packM 0 0 0 0 idx))
  | .notify h a b => some (mkFields h 0x34C 0 (encWG a) (encWGI b) 0)
  | .idle h => some (mkFields h 0x34D 0 0 0 0)
  | .srd h d a => some (mkFields h 0x380 (encWG d) (encSReg a) 0 0)
  | .swr h d a => some (mkFields h 0x381 (encSReg d) (encWGI a) 0 0)
  | .tlbinv h k a b => some (mkFields h 0x382 0 (encWG a) (encWG b) (packM 0 (InvKind.code k) 0 0 0))
  | .seed h a => some (mkFields h 0x383 0 (encWGI a) 0 0)
  | .rand h d => some (mkFields h 0x384 (encWG d) 0 0 0)
  | .lturn h d a b => some (mkFields h 0x385 (encWG d) (encWGI a) (encWGI b) 0)
  | .pwrreq h d a => some (mkFields h 0x386 (encWG d) (encWGI a) 0 0)
  | .railsel h d a b => some (mkFields h 0x387 (encWG d) (encWGI a) (encWGI b) 0)
  | .trmark h a => some (mkFields h 0x388 0 (encWGI a) 0 0)
  | .bkpt h a => some (mkFields h 0x389 0 (encImm a) 0 0)
  | .eret h => some (mkFields h 0x38A 0 0 0 0)
  | .pinset h idx d a => some (mkFields h 0x38B (encWG d) (encWG a) 0 (packM 0 0 0 0 idx))
  | .dlyrd h d a => some (mkFields h 0x38C (encWG d) (encWGI a) 0 0)
  | .dlyclr h a => some (mkFields h 0x38D 0 (encWGI a) 0 0)
  | .mcrd h d a => some (mkFields h 0x38E (encWG d) (encWGI a) 0 0)
  | .halt h => some (mkFields h 0x38F 0 0 0 0)
  | .csync h => some (mkFields h 0x390 0 0 0 0)
  | .deviceReset => none
  | .nextTaskChoice => none
  | .steal => none
  | .serviceTaskEntry => none
  | .stepWatchdogExpiry => none
  | .messageHeaderArrival => none
  | .headerQueueEntry => none
  | .messageBeatArrival => none
  | .sendTailInjected => none
  | .storeBufferDrain => none
  | .memoryResponse => none
  | .directoryRequest => none
  | .l1Eviction => none
  | .translationWalkComplete => none
  | .coldPageFetchComplete => none
  | .pageOutStart => none
  | .pageOutComplete => none
  | .vectorCmdTake => none
  | .matrixCmdStart => none
  | .matrixCmdComplete => none
  | .copyCmdAccept => none
  | .copyBeatComplete => none
  | .copyComplete => none
  | .rakeCmdTake => none
  | .rakeBeatSample => none
  | .rakeSweepEnd => none
  | .watchUnitCommit => none
  | .workRetire => none
  | .graphLaunchNode => none
  | .graphCondNode => none
  | .graphWhileNode => none
  | .graphJoinallNode => none
  | .graphEndNode => none
  | .graphNodeRetry => none
  | .doorbellWrite => none
  | .launchPacket => none
  | .graphPacket => none
  | .phasePacket => none
  | .waitPacket => none
  | .waitWordPoll => none
  | .signalPacket => none
  | .signalAfterWrite => none
  | .queueClose => none
  | .schedulingPass => none
  | .localMemoryClearDone => none
  | .priorityAging => none
  | .headReservation => none
  | .intensityClassify => none
  | .thermalReading => none
  | .thermalStepUp => none
  | .stopRequest => none
  | .cutAcknowledge => none
  | .cutSecondStage => none
  | .cutComplete => none
  | .cutResume => none
  | .migrationTransferComplete => none
  | .clusterIdleEntry => none
  | .smooredEntry => none
  | .coldEntry => none
  | .firmwarePowerCommand => none
  | .kindleDeferredChoice => none
  | .clusterWakeComplete => none
  | .kholdTimeout => none
  | .channelWakeComplete => none
  | .channelSelfRefreshEntry => none
  | .railSwitch => none
  | .railSwitchGateEnd => none
  | .generatorHandover => none
  | .currentSample => none
  | .packagePowerWindow => none
  | .droopDetect => none
  | .laneGroupRetire => none
  | .linkTurnApply => none
  | .turnDeadTimeEnd => none
  | .hostWakeWrite => none
  | .apertureUp => none
  | .hostMemAccess => none
  | .heartbeatTimeout => none
  | .liveUpdate => none
  | .attestationRequest => none
  | .machineCheck => none
  | .coreRestart => none
  | .traceRecordWrite => none
  | .traceSampleTimer => none
  | .captureEnd => none
  | .debugCoreStop => none
  | .debugCoreResume => none
  | .firmwareRegisterWrite => none
  | .tlbInvalidationComplete => none
  | .clusterStateChangeFinished => none

/-- The 96-bit word of an instruction (R163). -/
def encode (i : Instr) : Option (BitVec 96) := (encodeFields i).map wordOf

/-- The twelve bytes of a word, lowest address first (R163): three little-endian 32-bit words, so byte j holds bits
[8j+7:8j]. -/
def wordBytes (w : BitVec 96) : List Byte := (List.range 12).map fun j => w.extractLsb' (8 * j) 8
/-- The word twelve bytes hold; a list of another length holds none. -/
def bytesWord (l : List Byte) : Option (BitVec 96) :=
  if l.length = 12 then some (l.foldr (fun b acc => (acc <<< 8) ||| b.zeroExtend 96) 0) else none

/-- The decoder on bytes: total, and it rejects by name. -/
def decodeBytes (l : List Byte) : Except DecErr Instr :=
  match bytesWord l with
  | some w => decodeWord w
  | none => .error .insn

/-- What the decoder reads from an instruction whose bits are `w`, bit 0 the least significant bit of the first stored word.
Bits above `nbits` are zero. -/
def decodeTableWord (nbits w : Nat) : Option Instr :=
  match decodeBytes (wordBytes (BitVec.ofNat 96 (w % 2 ^ nbits))) with
  | .ok i => some i
  | .error _ => none

end Sys2Proof
end

