-- ==== Sys2Proof/Machine/Pending.lean ====
section
/-!
DEFINITION. Sys2Proof/Machine/Pending.lean: the registers that instruction words name, and which of them the commands waiting in the vector queue
write (R183, R216, R244): what an instruction waits for, and whether a fault of it can be found before they are performed (log 90).
-/
namespace Sys2Proof.Machine

/-! ### Registers by name -/

/-- A register as operands name it: its kind in an encoding (1 window, 2 global, 3 vector, 4 predicate) and its number. -/
abbrev RegName := Nat × Nat
/-- The n registers from the one on that an operand field names. -/
def fieldRegs (n : Nat) (x : BitVec 18) : List RegName :=
  if 1 ≤ opKind x ∧ opKind x ≤ 4 then (List.range n).map fun i => (opKind x, (opPay x).toNat + i) else []
/-- The ring that a field names. -/
def fieldRing (x : BitVec 18) : Option Nat := if opKind x = 5 then some (field (opPay x).toNat 0 4) else none
/-- How many registers D names: the quad of VMACW (R53), the pairs of VLD2, ACAS and DLYRD (R220, R248, R289). -/
def countD (f : Fields) : Nat := if f.op = 0x1C9 then 4 else if f.op = 0x241 ∨ f.op = 0x189 ∨ f.op = 0x38C then 2 else 1
/-- How many registers A names: the pairs of CPY2, CPYG, CPYB and BIND (R243). -/
def countA (f : Fields) : Nat := if [0x2C1#10, 0x2C2#10, 0x2C4#10, 0x344#10].contains f.op then 2 else 1
/-- The guard predicate of a word. -/
def guardReg (f : Fields) : RegName := (4, f.gp.toNat)
/-- The predicate that ISEL and VSEL name in SUB (R171). -/
def subReg (f : Fields) : List RegName := if f.op = 0x057 ∨ f.op = 0x1DC then [(4, (mSub f.m).toNat)] else []
/-- The registers that a word names beside its guard. -/
def namedRegs (f : Fields) : List RegName := fieldRegs (countD f) f.d ++ fieldRegs (countA f) f.a ++ fieldRegs 1 f.b ++ subReg f
/-- The registers that decide whether a command of the vector queue faults: its addresses, its B operand and its guard. -/
def checkedRegs (f : Fields) : List RegName :=
  guardReg f :: ((fieldRegs 1 f.d).filter fun r => decide (r.1 ≤ 2)) ++ fieldRegs 1 f.a ++ fieldRegs 1 f.b

/-! ### Commands of the vector queue -/

/-- The class of an opcode (R174). -/
def classOf (f : Fields) : Nat := f.op.toNat / 64
/-- Whether a word is a command of the vector queue (R244). -/
def vecQueued (f : Fields) : Bool :=
  classOf f == 7 || classOf f == 8 || (decide (0x240 ≤ f.op.toNat) && decide (f.op.toNat ≤ 0x247)) || [0x24D#10, 0x24E#10, 0x24F#10].contains f.op
/-- Whether bit 0 of its guard decides whether a command of the vector queue is issued (R168, R217, R255). -/
def bitGuarded (f : Fields) : Bool := [0x21C#10, 0x21D#10, 0x21E#10, 0x24F#10].contains f.op
/-- Whether a command of the vector queue reads or writes memory. -/
def vecMemory (f : Fields) : Bool :=
  (decide (0x240 ≤ f.op.toNat) && decide (f.op.toNat ≤ 0x247)) || [0x21C#10, 0x21D#10, 0x21E#10].contains f.op
/-- Whether a command of the vector queue stores from the register that its D names. -/
def storesD (f : Fields) : Bool := [0x242#10, 0x244#10, 0x246#10].contains f.op
/-- The registers that a command of the vector queue writes: a store and LWADD only read what D names. -/
def vecWrites (f : Fields) : List RegName := if storesD f || f.op == 0x21C then [] else fieldRegs (countD f) f.d
/-- Whether a word draws from the stochastic-rounding generator (R113, R237). -/
def drawsS (f : Fields) : Bool := f.op == 0x212
/-- The words of the commands that wait in a core's vector queue. -/
def pendingWords (c : Core) : List Fields := c.vq.filterMap fun e => e.todo.bind fun t => encodeFields t.instr
/-- Whether a register is one that a waiting command writes. -/
def pendingReg (p : List Fields) (r : RegName) : Bool := p.any fun x => (vecWrites x).contains r
/-- Whether a vector command's faults depend on what waiting commands write: then they are found as it is performed (R245). -/
def checksPending (c : Core) (i : Instr) : Bool :=
  let p := pendingWords c
  (encodeFields i).any fun f => (checkedRegs f).any (pendingReg p)

end Sys2Proof.Machine
end

