-- ==== Sys2Proof/Machine/Operands.lean ====
section
/-!
DEFINITION. Sys2Proof/Machine/Operands.lean: every operand form: window, global, vector and predicate registers in the bank
that runs (R50 to R55), immediates (R166, R182), the guard (R168), lanes (R52, R214, R215) and integer operands at a TYPE (R182).
-/
namespace Sys2Proof.Machine

/-! ### Registers -/

/-- A window or global register in the bank that runs; g0 reads as zero (R50). The coal handler reads the task's globals. -/
def readWG (s : State) (r : WG) : Word :=
  match s.core.bank, r with
  | .user, .w n => if h : n.val < 16 then s.core.win.w[n.val] else s.core.out[n.val - 16]
  | .user, .g n => if n = 0 then 0 else s.core.g[n.val]
  | .service, .w n => s.core.svc.w[n.val]
  | .service, .g n => if n = 0 then 0 else s.core.svc.g[n.val]
  | .coal, .w _ => 0
  | .coal, .g n => if n = 0 then 0 else s.core.g[n.val]

/-- A window or global register written; a write to g0 is discarded (R50, R182). -/
def writeWG (s : State) (r : WG) (x : Word) : State :=
  match s.core.bank, r with
  | .user, .w n =>
    if h : n.val < 16 then onCore s fun c => { c with win := { c.win with w := c.win.w.set n.val x } }
    else onCore s fun c => { c with out := c.out.set (n.val - 16) x }
  | .user, .g n => if n = 0 then s else onCore s fun c => { c with g := c.g.set n.val x }
  | .service, .w n => onCore s fun c => { c with svc := { c.svc with w := c.svc.w.set n.val x } }
  | .service, .g n => if n = 0 then s else onCore s fun c => { c with svc := { c.svc with g := c.svc.g.set n.val x } }
  | .coal, _ => s

/-- The register after this one: the second of a pair (R220, R243). -/
def nextReg : WG → WG
  | .w n => .w ⟨(n.val + 1) % 24, Nat.mod_lt _ (by decide)⟩
  | .g n => .g ⟨(n.val + 1) % 8, Nat.mod_lt _ (by decide)⟩

/-- A vector register in the bank that runs (R42, R50). -/
def readV (s : State) (n : V) : VReg :=
  match s.core.bank with
  | .user | .service => s.core.v[n.val]
  | .coal => s.core.coal.v[n.val]
/-- A vector register written. -/
def writeV (s : State) (n : V) (x : VReg) : State :=
  match s.core.bank with
  | .user | .service => onCore s fun c => { c with v := c.v.set n.val x }
  | .coal => onCore s fun c => { c with coal := { c.coal with v := c.coal.v.set n.val x } }

/-- A predicate in the bank that runs; p0 reads as all ones (R50). The coal handler has p1 alone (R42). -/
def readP (s : State) (n : P) : Word :=
  if n = 0 then BitVec.allOnes 64
  else
    match s.core.bank with
    | .user => s.core.p[n.val]
    | .service => s.core.svc.p[n.val]
    | .coal => if n = 1 then s.core.coal.p1 else 0
/-- A predicate written; a write to p0 is discarded (R50). -/
def writeP (s : State) (n : P) (x : Word) : State :=
  if n = 0 then s
  else
    match s.core.bank with
    | .user => onCore s fun c => { c with p := c.p.set n.val x }
    | .service => onCore s fun c => { c with svc := { c.svc with p := c.svc.p.set n.val x } }
    | .coal => if n = 1 then onCore s fun c => { c with coal := { c.coal with p1 := x } } else s

/-- A predicate written as a scalar result (R54). -/
def boolWord (b : Bool) : Word := if b then BitVec.allOnes 64 else 0

/-! ### The guard (R168) -/

/-- The guard as a mask. -/
def guardMask (s : State) (h : Hdr) : Word := if h.gn then ~~~(readP s h.gp) else readP s h.gp
/-- Bit 0 of the guard: whether a scalar instruction executes. -/
def guardBit (s : State) (h : Hdr) : Bool := (guardMask s h).getLsbD 0

/-! ### Immediates and scalar operands -/

/-- A short immediate sign-extended to 64 bits (R182). -/
def immWord (v : BitVec 14) : Word := v.signExtend 64
/-- A register or short immediate as a 64-bit value. -/
def readWGI (s : State) (x : WGI) : Word :=
  match x with
  | .reg r => readWG s r
  | .imm v => immWord v
/-- A register, short or long immediate as a 64-bit value (R167). -/
def readWGIL (s : State) (x : WGIL) : Word :=
  match x with
  | .reg r => readWG s r
  | .imm v => immWord v
  | .long v => v.signExtend 64
/-- An optional register as a 64-bit value; an absent one adds nothing (R210). -/
def readWGOpt (s : State) (x : Option WG) : Word :=
  match x with
  | some r => readWG s r
  | none => 0

/-- The address written [A+B]: the sum mod 2^64 (R179, R206). -/
def addrAB (s : State) (a : WG) (b : WGI) : Word := readWG s a + readWGI s b

/-! ### Lanes and scalar operands (R52, R182) -/

/-- A register or immediate read at a TYPE (R182). -/
def opInt (t : Ty) (x : Word) : Int := intAt t x.toNat

/-- Lane L of width w. -/
def lane (w L : Nat) (x : VReg) : Nat := field x.toNat (w * L) w
/-- The lanes of a register of width w as numbers. -/
def lanes (w : Nat) (x : VReg) : List Nat := (List.range (512 / w)).map fun L => lane w L x
/-- The register of a list of lanes of width w, lane 0 first; each is taken mod 2^w. -/
def ofLanes (w : Nat) : List Nat → Nat
  | [] => 0
  | x :: r => x % 2 ^ w + 2 ^ w * ofLanes w r
/-- A vector register of lanes. -/
def vregOf (w : Nat) (l : List Nat) : VReg := BitVec.ofNat 512 (ofLanes w l)
/-- The lanes of D under a mask: lane L is new where its bit is true and old elsewhere (R168). -/
def mergeLanes (w : Nat) (mask : Word) (old : VReg) (new : Nat → Nat) : VReg :=
  vregOf w ((List.range (512 / w)).map fun L => if mask.getLsbD L then new L else lane w L old)

/-- The B operand of a vector instruction as a function of the lane: a vector register, or a broadcast of its low w bits
(R214). -/
def laneB (s : State) (w : Nat) (b : VS) (L : Nat) : Nat :=
  match b with
  | .v n => lane w L (readV s n)
  | .reg r => (readWG s r).toNat % 2 ^ w
  | .imm v => (immWord v).toNat % 2 ^ w
/-- The B operand of a floating-point vector instruction as a function of the lane. -/
def laneBF (s : State) (w : Nat) (b : VWG) (L : Nat) : Nat :=
  match b with
  | .v n => lane w L (readV s n)
  | .reg r => (readWG s r).toNat % 2 ^ w
/-- A scalar F32 operand: bits [31:0] (R182). -/
def f32Of (x : Word) : Nat := x.toNat % 2 ^ 32
/-- A scalar F32 result: bits [63:32] cleared (R182). -/
def f32Word (x : Nat) : Word := BitVec.ofNat 64 (x % 2 ^ 32)

/-! ### What every instruction checks and does around its own effect -/

/-- Whether an instruction of class 0x0 to 0x6 or 0x9 to 0xE other than RKWAKE and RKNEXT meets a coal handler, which may not
run it (R42). -/
def inCoal (s : State) : Bool := s.core.bank == .coal
/-- Whether a service task runs. -/
def inService (s : State) : Bool := s.core.bank == .service

/-- The PC that a decode fault's record carries as its address (R173). -/
def pcOf (s : State) : Word :=
  match s.core.bank with
  | .coal => s.core.coal.pc
  | .user | .service => s.core.pc

/-- A decode fault of step 6 of R173, or of an entry's own check. -/
def illegal (s : State) : State := raise s .scalar .illegalInsn (pcOf s)
/-- An ILLEGAL_OPERAND fault with the PC as its address. -/
def illegalOperand (s : State) : State := raise s .scalar .illegalOperand (pcOf s)

/-- A scalar instruction that a user task and a service task may run: a coal handler may not (R42); a false guard moves on
(R168). -/
def scalar (s : State) (h : Hdr) (k : State → Eff State) : State :=
  if inCoal s then illegal s
  else if guardBit s h then settle s .scalar (k s)
  else advance s
/-- A scalar instruction forbidden in a service task (R27, R192, R217). -/
def userOnly (s : State) (h : Hdr) (k : State → Eff State) : State :=
  if inService s then illegal s else scalar s h k
/-- A privileged instruction (R175). -/
def privOnly (s : State) (h : Hdr) (k : State → Eff State) : State :=
  if inCoal s then illegal s else if privileged s then scalar s h k else illegal s


/-- A vector register outside the coal bank. -/
def vHigh (n : V) : Bool := decide (8 ≤ n.val)
/-- A predicate outside the coal bank. -/
def pHigh (n : P) : Bool := decide (2 ≤ n.val)
/-- A window register. -/
def isWReg : WG → Bool
  | .w _ => true
  | .g _ => false
/-- What a scalar or vector operand names that a coal handler may not. -/
def vsBad : VS → Bool
  | .v n => vHigh n
  | .reg r => isWReg r
  | .imm _ => false
/-- What a floating-point B operand names that a coal handler may not. -/
def vwgBad : VWG → Bool
  | .v n => vHigh n
  | .reg r => isWReg r
/-- What a scalar operand names that a coal handler may not. -/
def wgiBad : WGI → Bool
  | .reg r => isWReg r
  | .imm _ => false

/-- The queues whose stalls STALLENG counts (R66). -/
inductive StallQueue where
  | vector | matrix | copy | rake
deriving DecidableEq, Repr

/-- The running task stalls on a full engine queue: its counter takes a free number of cycles of a user task (R66, R124; log 5). -/
def stallOn (s : State) (q : StallQueue) : State :=
  let n := if s.core.bank = .user then (freeStall s.free).toNat else 0
  let s1 := onCore s fun c =>
    match q with
    | .vector => { c with stallVector := satAdd c.stallVector n }
    | .matrix => { c with stallMatrix := satAdd c.stallMatrix n }
    | .copy => { c with stallCopy := satAdd c.stallCopy n }
    | .rake => { c with stallRake := satAdd c.stallRake n }
  standIn { s1 with free := s1.free + 1 } .engineQueue

/-! ### The vector queue (R121, R124, R216, R244; log 17) -/

/-- Whether a command in the vector queue waits to be performed. -/
def vecWaits (c : Core) : Bool := c.vq.any fun e => e.todo.isSome
/-- The focus core's registers as a vector command that issues now takes them along. -/
def vecTodo (c : Core) (i : Instr) : VecTodo := { instr := i, pc := c.pc, win := c.win, out := c.out, g := c.g, p := c.p, rings := c.rings }
/-- A command of the running task put into the vector queue, and counted (R155). -/
def pushVec (s : State) (todo : Option VecTodo) : State :=
  let act := match s.core.task with | some t => t.actid | none => 0
  charge (onCore s fun c => { c with vq := c.vq ++ [⟨curCtx s, curLid s, act, c.vecIssued, todo⟩], vecIssued := c.vecIssued + 1 }) 1
/-- What the vector engine asks for where its command cannot go on: the fetch of a cold page (R95), or a channel's wake (R353). -/
def askFor (s : State) (e : Stop) : State :=
  match e with
  | .cold m => askFetch s m (coreWaiter s .vector s.core.pc m.va)
  | .asleep ch => askChannel s ch
  | .fault _ _ => s
  | .wait _ => s
  | .after t x => askFor t x
/-- A vector command issued, where `r` is what performing it at once comes to. It is performed at once unless an earlier command waits in the
queue. Where it meets a wait of R124 it holds the vector engine alone: it stays in the queue with its operands and the task goes on. A
fault is precise (R245): behind a waiting command it is found at issue where nothing that the queue has still to write decides it, and else as the
command is performed. A full store buffer, a full queue and a full counter hold the scalar core (R66, R121, R157). A service task's
waits for nothing that the user task has queued, and holds the scalar core where it waits itself (R27). -/
def issueVec (s : State) (i : Instr) (r : Eff State) : State :=
  let later := fun (t : State) => advance (pushVec t (some (vecTodo s.core i)))
  let user := s.core.bank == .user
  let behind := user && vecWaits s.core
  if 2 ≤ s.core.vq.length then stallOn s .vector
  else
    match issueRoom s 1, r with
    | .error e, _ => stopAt s s.core.pc .vector e
    | .ok _, .error e =>
      match e.bare with
      | .fault _ _ => if behind && checksPending s.core i then later s else stopAt s s.core.pc .vector e
      | .wait .storeBuffer => if behind then later s else standIn (e.state s) .storeBuffer
      | _ => if behind then later s else if user then later (askFor s e) else stopAt s s.core.pc .vector e
    | .ok _, .ok t =>
      if behind then later s
      else if t.core.blocked = some .stream then later t
      else pushVec t none

/-- How many of the lanes below n that `part` names are active. -/
def laneCount (s : State) (h : Hdr) (n : Nat) (part : Nat → Bool) : Nat :=
  ((List.range n).filter fun L => part L && (guardMask s h).getLsbD L).length
/-- A vector instruction `i` of class 0x7 or 0x8: it names v registers, so a service task may not run it (R27); in a coal handler
`bad` is an operand outside its bank (R42). A task's goes through the vector queue (R124). It counts as `ops` operations (R314). -/
def vector (i : Instr) (s : State) (h : Hdr) (bad : Bool) (ops : Nat) (k : State → Eff State) : State :=
  let r := fun (_ : Unit) => (k s).map fun t => countOps t ops
  match s.core.bank with
  | .service => illegal s
  | .coal => if bad || pHigh h.gp then illegalOperand s else settle s .vector (r ())
  | .user => issueVec s i (r ())

end Sys2Proof.Machine
end

