-- ==== Sys2Proof/Machine/Tasks.lean ====
section
/-!
DEFINITION. Sys2Proof/Machine/Tasks.lean: what instructions of several classes share about tasks: the end of a task (R22, R192), the
counters of R155, pending cuts (R327), raising a trap (R64, R142), and the addresses that must lie in local memory.
-/
namespace Sys2Proof.Machine

/-- A free 64-bit value (log 9), and the state that has used it. -/
def freshWord (s : State) : Word × State := (freeWord s.free, { s with free := s.free + 1 })

/-! ### Cuts (R327) -/

/-- Whether a cut is one of a whole context: a migration's, or a debug stop's. -/
def Cut.whole (c : Cut) (ctx : CtxId) : Bool := c.works.contains (.context ctx) || (c.migrate.any fun m => m.1 == ctx)
/-- Whether a cut that has not been resumed names a launch; one of a whole context also names the launches entered since (R327, R356). -/
def cutNames (s : State) (ctx : CtxId) (lid : Lid) : Bool := s.cuts.any fun c => c.launches.contains (ctx, lid) || c.whole ctx

/-! ### The end of a task -/

/-- STEP_MISMATCH (R327): a task released to run on to a STEPNO it has not reached ends. -/
def mismatched (c : Core) (t : Task) : Bool :=
  match c.cutGoal with
  | some g => decide (t.stepno.toNat < g.toNat)
  | none => false

/-- The focus core's user task ends (R22, R192): its stores are performed at SYS before the launch's counter falls (R301), and a
released task behind its launch's STEPNO faults the launch. -/
def endTask (s : State) : State :=
  match s.core.task with
  | none => s
  | some t =>
    let s1 := countDown (onCore (release s s.core.id .sys) clearTask) t.info.ctx t.info.lid 1
    if mismatched s.core t then
      let (w, s2) := freshWord s1
      faultLaunch s2 t.info.ctx (hubRec s2 (w.extractLsb' 0 56) t.info.lid .stepMismatch .collector 0) .stepMismatch
    else s1

/-! ### Traps -/

/-- A trap of the user task's own instruction: its pin entry must be valid (R142), and it waits while the reserved service entries
are full (R25). `resume` is what TRAPPC reads. -/
def raiseTrap (s : State) (cause : Nat) (tcode : BitVec 16) (info : Word) (resume : Option Word) : Eff State :=
  match s.core.pins[cause]?.getD none with
  | none => .error (.fault .illegalInsn s.core.pc)
  | some _ =>
    if svcRoom s then .ok (raiseOwn s ⟨BitVec.ofNat 8 cause, tcode, info, resume, true⟩) else .error (.wait .memory)

/-! ### Local addresses -/

/-- A generic address that must lie in local memory (R190, R225): the key of its first byte. -/
def localTarget (s : State) (a : Word) (n align : Nat) : Eff Nat :=
  match checkWindow a n align with
  | .error e => .error e
  | .ok .global => .error (.fault .lmAddr a)
  | .ok .ember => .error (.fault .lmAddr a)
  | .ok .local =>
    let la := a.toNat - localBase
    if la.testBit 19 then .error (.fault .lmAddr a)
    else
      let k := localCore s.core.id la
      match peerStop s s.core.id k (curCtx s) a with
      | some e => .error e
      | none => .ok (localKey k (la % 2 ^ 19))

/-- An access that must lie in the core's own local memory (R254, R269, R277, R288), checked in the order of R72. -/
def ownTarget (s : State) (a : Word) (n align : Nat) (peer : Bool) : Eff Nat :=
  match checkWindow a n align with
  | .error e => .error e
  | .ok _ =>
    match ownLocal s.core.id a n peer with
    | some off => .ok off
    | none => .error (.fault .lmAddr a)

/-- A local offset of the own core read with the stores still buffered: `n` bytes. -/
def readOwn (s : State) (off n : Nat) : Nat := ownRead s off n

end Sys2Proof.Machine
end

