-- ==== Sys2Proof/Machine/LoadStore.lean ====
section
/-!
DEFINITION. Sys2Proof/Machine/LoadStore.lean: class 0x5, loads and stores (spec/10 R206 to R213), reading through a parameter window
(R136), and IDXT (R200).
-/
namespace Sys2Proof.Machine

/-- The bytes of a data TYPE. -/
def tyBytes (t : Ty) : Nat := Ty.width t / 8
/-- The register value of a loaded pattern (R207): extended by TYPE, an F32 with zeros above. -/
def loaded (t : Ty) (x : Nat) : Word := if t = .f32 then BitVec.ofNat 64 (x % 2 ^ 32) else extend t (x : Int)

/-- A load into a register at a generic address. -/
def loadTo (s : State) (t : Ty) (d : WG) (a : Word) (align : Nat) : Eff State := do
  let (x, s1) ← load s a (tyBytes t) align
  .ok (advance (writeWG s1 d (loaded t x)))
/-- A store of a register's low bytes at a generic address. -/
def storeFrom (s : State) (t : Ty) (d : WG) (a : Word) (align : Nat) : Eff State := do
  let s1 ← store s a (tyBytes t) align (readWG s d).toNat
  .ok (advance s1)
/-- A local address of LDL and STL as a generic one (R209). -/
def localGeneric (la : Word) : Eff Word := do
  need (decide (la.toNat < 2 ^ 24)) .lmAddr la
  .ok (BitVec.ofNat 64 localBase + la)

/-- LD (R207). -/
def execLd (h : Hdr) (t : Ty) (d : WG) (a : WG) (b : WGI) (s : State) : Host.Outcome State Fault Refusal :=
  .next (scalar s h fun s => loadTo s t d (addrAB s a b) 1)
/-- ST (R207). -/
def execSt (h : Hdr) (t : Ty) (d : WG) (a : WG) (b : WGI) (s : State) : Host.Outcome State Fault Refusal :=
  .next (scalar s h fun s => storeFrom s t d (addrAB s a b) 1)
/-- LDL (R209). -/
def execLdl (h : Hdr) (t : Ty) (d : WG) (a : WG) (b : WGI) (s : State) : Host.Outcome State Fault Refusal :=
  .next (scalar s h fun s => do
    let x ← localGeneric (addrAB s a b)
    loadTo s t d x 1)
/-- STL (R209). -/
def execStl (h : Hdr) (t : Ty) (d : WG) (a : WG) (b : WGI) (s : State) : Host.Outcome State Fault Refusal :=
  .next (scalar s h fun s => do
    let x ← localGeneric (addrAB s a b)
    storeFrom s t d x 1)

/-! ### Parameter windows (R135, R136) -/

/-- The binding of a window of the running task's launch (R135). -/
def bindingOf (s : State) (w : Fin 8) : Option Binding :=
  match s.core.task with
  | none => none
  | some t =>
    match getLaunch s t.info.ctx t.info.lid with
    | none => none
    | some l => (l.subs[t.info.sub.toNat]?).map fun x => x.windows[w.val]

/-- Bytes read one by one as plain loads: where each lies (R136). -/
def resolveEach (s : State) : List Word → Eff (List Spot × State)
  | [] => .ok ([], s)
  | a :: r =>
    match resolve s (coreAcc s) a 1 1 false with
    | .error e => .error e
    | .ok (l, s1) =>
      match keeping s1 (resolveEach s1 r) with
      | .error e => .error e
      | .ok (m, s2) => .ok (l ++ m, s2)

/-- A read of `n` bytes at an offset through a parameter window (R136): bytes at or past SIZE read as zero. -/
def readWindow (s : State) (w : Fin 8) (off n : Nat) : Eff (Nat × State) :=
  match bindingOf s w with
  | none => .error (.fault .paramUnbound 0)
  | some b =>
    if b.bound then
      let inside := (List.range (min n (b.size.toNat - off))).map fun i => b.base + BitVec.ofNat 64 (off + i)
      match resolveEach s inside with
      | .error e => .error e
      | .ok (l, s1) =>
        let s2 := touchLoad s1 l
        .ok (ofBytes (l.map (loadByte s2.mem s2.core (aligned (b.base + BitVec.ofNat 64 off) n))), s2)
    else .error (.fault .paramUnbound 0)

/-- LDPW (R210). -/
def execLdpw (h : Hdr) (t : Ty) (d : WG) (a : PWin) (b : Option WG) (s : State) : Host.Outcome State Fault Refusal :=
  .next (scalar s h fun s => do
    let (x, s1) ← readWindow s a.win (8 * a.off.toNat + (readWGOpt s b).toNat) (tyBytes t)
    .ok (advance (writeWG s1 d (loaded t x))))

/-- The address IDXT forms from a 256-bit descriptor and four indices (R200). -/
def indexed (desc idx : Nat) : Word :=
  let i := fun (j : Nat) => field idx (16 * j) 16
  let e := fun (j : Nat) => field desc (192 + 16 * j) 16
  let st := fun (j : Nat) => signedOf 32 (field desc (64 + 32 * j) 32)
  if i 0 < e 0 ∧ i 1 < e 1 ∧ i 2 < e 2 ∧ i 3 < e 3 then
    BitVec.ofInt 64 ((field desc 0 64 : Int) + i 0 * st 0 + i 1 * st 1 + i 2 * st 2 + i 3 * st 3)
  else BitVec.ofNat 64 0xFF00000001000000
/-- IDXT (R200). -/
def execIdxt (h : Hdr) (d : WG) (a : PWin) (b : WG) (s : State) : Host.Outcome State Fault Refusal :=
  .next (scalar s h fun s => do
    let (x, s1) ← readWindow s a.win (8 * a.off.toNat) 32
    .ok (advance (writeWG s1 d (indexed x (readWG s b).toNat))))

/-! ### Lines (R211 to R213) -/

/-- What a prefetch asks for (R211): a line whose translation is held is brought in, and no account counts it; else a walk is asked for, where
one is free and none of that page is in progress (R93). Nothing outside the global window, nothing on a page that is cold, host-shared or
denied, nothing from memory that is asleep or out of reach, and no request that an overflow task holds (R86). -/
def prefetchAs (s : State) (w : Acc) (a : Word) : State :=
  if windowOf a.toNat = some .global then
    match heldTlb s w a.toNat with
    | some t =>
      let e := t.leaf.toNat
      let p := pteFrame e + a.toNat % pageSize t.level
      if leafDenies w false e || pteCold e || pteHS e || ptePO e || (physStop s w p 1 a).isSome || lineHeld s p then s
      else touchLine s (p / 128) (fun _ => true) false
    | none => if walkWaits s w a.toNat then s else { s with walks := s.walks ++ [⟨w.core, w.ctx, a, false⟩] }
  else s
/-- What the running task's prefetch asks for. -/
def prefetchLine (s : State) (a : Word) : State := prefetchAs s (coreAcc s) a
/-- PREF (R211). -/
def execPref (h : Hdr) (a : WG) (b : WGI) (s : State) : Host.Outcome State Fault Refusal :=
  .next (scalar s h fun s => .ok (advance (prefetchLine s (addrAB s a b))))

/-- ZLINE (R212): 128 zero bytes, checked and ordered as a store. -/
def execZline (h : Hdr) (a : WG) (b : WGI) (s : State) : Host.Outcome State Fault Refusal :=
  .next (scalar s h fun s => do
    let (l, s1) ← resolve s (coreAcc s) (addrAB s a b) 128 128 true
    let s2 ← pushStore s1 (l.map fun x => (x, 0)) (l.all Spot.cached) true
    .ok (advance s2))

/-- The line of the global window that WBLINE and INVLINE act on (R213): none where they have no effect. -/
def lineTarget (s : State) (a : Word) : Eff (Option Nat × State) :=
  match windowOf a.toNat with
  | none => .error (.fault .windowNone a)
  | some .local => .ok (none, s)
  | some .ember => .ok (none, s)
  | some .global =>
    match translate s (coreAcc s) a.toNat 1 false a with
    | .error (.cold _) => .ok (none, s)
    | .error e => .error e
    | .ok (p, hs, s1) => .ok (if hs then none else some (p / 128), s1)
/-- A line written back and kept clean (R84, R213). -/
def cleanLine (s : State) (k line : Nat) : State :=
  modCore (writeBackLine s k line) k fun c =>
    { c with l1 := c.l1.map fun l =>
        if l.addr = line then
          (match l.st with
            | .m => { l with st := .s }
            | .rd => { l with st := .rc, dirty := 0 }
            | .s | .e | .rc => l)
        else l }
/-- WBLINE (R213). -/
def execWbline (h : Hdr) (a : WG) (b : WGI) (s : State) : Host.Outcome State Fault Refusal :=
  .next (scalar s h fun s => do
    let (x, s1) ← lineTarget s (addrAB s a b)
    match x with
    | none => .ok (advance s1)
    | some line => .ok (advance (cleanLine (drainAll s1 s1.core.id) s1.core.id line)))
/-- INVLINE (R213). -/
def execInvline (h : Hdr) (a : WG) (b : WGI) (s : State) : Host.Outcome State Fault Refusal :=
  .next (scalar s h fun s => do
    let (x, s1) ← lineTarget s (addrAB s a b)
    match x with
    | none => .ok (advance s1)
    | some line =>
      .ok (advance (evictLine (drainAll s1 s1.core.id) s1.core.id line)))

end Sys2Proof.Machine
end

