-- ==== Sys2Proof/Machine/Scalar.lean ====
section
/-!
DEFINITION. Sys2Proof/Machine/Scalar.lean: class 0x1, integer, and class 0x2 but for IDXT (spec/10 R182, R195 to R199).
-/
namespace Sys2Proof.Machine

/-- A scalar instruction that writes one register from the state (R182). -/
def scalarOp (h : Hdr) (d : WG) (f : State → Word) (s : State) : Host.Outcome State Fault Refusal :=
  .next (scalar s h fun s => .ok (advance (writeWG s d (f s))))
/-- A two-operand integer instruction: the exact result, written mod 2^w and extended (R182, R195). -/
def intOp (h : Hdr) (t : Ty) (d a : WG) (b : WGI) (f : Int → Int → Int) (s : State) : Host.Outcome State Fault Refusal :=
  scalarOp h d (fun s => extend t (f (opInt t (readWG s a)) (opInt t (readWGI s b)))) s
/-- The same with a long immediate accepted (R167). -/
def intOpL (h : Hdr) (t : Ty) (d a : WG) (b : WGIL) (f : Int → Int → Int) (s : State) : Host.Outcome State Fault Refusal :=
  scalarOp h d (fun s => extend t (f (opInt t (readWG s a)) (opInt t (readWGIL s b)))) s
/-- A one-operand integer instruction. -/
def intOp1 (h : Hdr) (t : Ty) (d a : WG) (f : Int → Int) (s : State) : Host.Outcome State Fault Refusal :=
  scalarOp h d (fun s => extend t (f (opInt t (readWG s a)))) s

/-- Shift left by s: 0 when s ≥ w (R195). -/
def shlInt (t : Ty) (a : Int) (n : Nat) : Int := if Ty.width t ≤ n then 0 else a * 2 ^ n
/-- Logical shift right of an unsigned value: 0 when s ≥ w (R195). -/
def shrInt (t : Ty) (a : Int) (n : Nat) : Int := if Ty.width t ≤ n then 0 else a / 2 ^ n
/-- Arithmetic shift right by min(s, w - 1) (R195). -/
def sarInt (t : Ty) (a : Int) (n : Nat) : Int := a / 2 ^ min n (Ty.width t - 1)
/-- A w-bit string rotated left by s mod w (R195). -/
def rotNat (w x n : Nat) : Nat :=
  let k := n % w
  (x % 2 ^ w * 2 ^ k) % 2 ^ w + x % 2 ^ w / 2 ^ (w - k)
/-- Bitwise operations on w-bit patterns, as integers mod 2^w. -/
def bitsInt (t : Ty) (f : Nat → Nat → Nat) (a b : Int) : Int := ((f (wrap (Ty.width t) a) (wrap (Ty.width t) b) : Nat) : Int)

/-- The number of one bits of a w-bit string. -/
def popNat (w x : Nat) : Nat := popBelow w x
/-- The number of leading zeros of a w-bit string: w for zero (R197). -/
def clzNat : Nat → Nat → Nat
  | 0, _ => 0
  | w + 1, x => if x.testBit w then 0 else 1 + clzNat w x
/-- The number of trailing zeros of a w-bit string: w for zero (R197). -/
def ctzNat : Nat → Nat → Nat
  | 0, _ => 0
  | w + 1, x => if x.testBit 0 then 0 else 1 + ctzNat w (x / 2)
/-- ICNT's count (R197). -/
def countBits (k : CntKind) (w x : Nat) : Nat :=
  match k with
  | .pop => popNat w x
  | .clz => clzNat w (x % 2 ^ w)
  | .ctz => ctzNat w x

/-- A field of n bits of x from bit lo, bits at 64 or above reading 0 (R196). -/
def fieldAt (x : Word) (lo n : Nat) : Nat := if 64 ≤ lo then 0 else field x.toNat lo n
/-- IINS (R196): n bits of d from bit lo replaced by the low n bits of a; what falls at bit 64 or above is dropped. -/
def insertAt (d a : Word) (lo n : Nat) : Word :=
  if 64 ≤ lo then d
  else
    let m : Word := BitVec.ofNat 64 ((2 ^ n - 1) * 2 ^ lo)
    (d &&& ~~~m) ||| (BitVec.ofNat 64 (a.toNat % 2 ^ n * 2 ^ lo) &&& m)

/-- The quotient (R199), truncated towards zero, 0 for b = 0. -/
def divInt (a b : Int) : Int := if b = 0 then 0 else a.tdiv b
/-- The remainder (R199), with the sign of the dividend, a for b = 0. -/
def remInt (a b : Int) : Int := if b = 0 then a else a.tmod b
/-- floor(a × b / 2^w) (R198). -/
def mulHigh (t : Ty) (a b : Int) : Int := a * b / 2 ^ Ty.width t

/-- IADD (R195). -/
def execIadd (h : Hdr) (t : Ty) (d : WG) (a : WG) (b : WGIL) (s : State) : Host.Outcome State Fault Refusal :=
  intOpL h t d a b (fun x y => x + y) s

/-- ISUB (R195). -/
def execIsub (h : Hdr) (t : Ty) (d : WG) (a : WG) (b : WGI) (s : State) : Host.Outcome State Fault Refusal :=
  intOp h t d a b (fun x y => x - y) s

/-- IADDS (R195). -/
def execIadds (h : Hdr) (t : Ty) (d : WG) (a : WG) (b : WGI) (s : State) : Host.Outcome State Fault Refusal :=
  intOp h t d a b (fun x y => satInt t (x + y)) s

/-- ISUBS (R195). -/
def execIsubs (h : Hdr) (t : Ty) (d : WG) (a : WG) (b : WGI) (s : State) : Host.Outcome State Fault Refusal :=
  intOp h t d a b (fun x y => satInt t (x - y)) s

/-- INEG (R195). -/
def execIneg (h : Hdr) (t : Ty) (d : WG) (a : WG) (s : State) : Host.Outcome State Fault Refusal :=
  intOp1 h t d a (fun x => -x) s

/-- IABS (R195). -/
def execIabs (h : Hdr) (t : Ty) (d : WG) (a : WG) (s : State) : Host.Outcome State Fault Refusal :=
  intOp1 h t d a (fun x => (x.natAbs : Int)) s

/-- IMIN (R195). -/
def execImin (h : Hdr) (t : Ty) (d : WG) (a : WG) (b : WGI) (s : State) : Host.Outcome State Fault Refusal :=
  intOp h t d a b (fun x y => min x y) s

/-- IMAX (R195). -/
def execImax (h : Hdr) (t : Ty) (d : WG) (a : WG) (b : WGI) (s : State) : Host.Outcome State Fault Refusal :=
  intOp h t d a b (fun x y => max x y) s

/-- IMINN (R195). -/
def execIminn (h : Hdr) (t : Ty) (d : WG) (a : WG) (b : WGI) (s : State) : Host.Outcome State Fault Refusal :=
  intOp h t d a b (fun x y => min x y) s

/-- IMAXN (R195). -/
def execImaxn (h : Hdr) (t : Ty) (d : WG) (a : WG) (b : WGI) (s : State) : Host.Outcome State Fault Refusal :=
  intOp h t d a b (fun x y => max x y) s

/-- IAND (R195). -/
def execIand (h : Hdr) (t : Ty) (d : WG) (a : WG) (b : WGIL) (s : State) : Host.Outcome State Fault Refusal :=
  intOpL h t d a b (bitsInt t fun x y => x &&& y) s

/-- IOR (R195). -/
def execIor (h : Hdr) (t : Ty) (d : WG) (a : WG) (b : WGIL) (s : State) : Host.Outcome State Fault Refusal :=
  intOpL h t d a b (bitsInt t fun x y => x ||| y) s

/-- IXOR (R195). -/
def execIxor (h : Hdr) (t : Ty) (d : WG) (a : WG) (b : WGIL) (s : State) : Host.Outcome State Fault Refusal :=
  intOpL h t d a b (bitsInt t fun x y => x ^^^ y) s

/-- IANDN (R195). -/
def execIandn (h : Hdr) (t : Ty) (d : WG) (a : WG) (b : WGI) (s : State) : Host.Outcome State Fault Refusal :=
  intOp h t d a b (bitsInt t fun x y => x &&& (2 ^ Ty.width t - 1 - y)) s

/-- ISHL (R195): the shift amount is the whole value of B, unsigned. -/
def execIshl (h : Hdr) (t : Ty) (d : WG) (a : WG) (b : WGI) (s : State) : Host.Outcome State Fault Refusal :=
  scalarOp h d (fun s => extend t (shlInt t (opInt t (readWG s a)) (readWGI s b).toNat)) s

/-- ISHR (R195): the shift amount is the whole value of B, unsigned. -/
def execIshr (h : Hdr) (t : Ty) (d : WG) (a : WG) (b : WGI) (s : State) : Host.Outcome State Fault Refusal :=
  scalarOp h d (fun s => extend t (shrInt t (opInt t (readWG s a)) (readWGI s b).toNat)) s

/-- ISAR (R195): the shift amount is the whole value of B, unsigned. -/
def execIsar (h : Hdr) (t : Ty) (d : WG) (a : WG) (b : WGI) (s : State) : Host.Outcome State Fault Refusal :=
  scalarOp h d (fun s => extend t (sarInt t (opInt t (readWG s a)) (readWGI s b).toNat)) s

/-- IROT (R195). -/
def execIrot (h : Hdr) (t : Ty) (d : WG) (a : WG) (b : WGI) (s : State) : Host.Outcome State Fault Refusal :=
  scalarOp h d (fun s => extend t (rotNat (Ty.width t) (readWG s a).toNat (readWGI s b).toNat : Nat)) s

/-- IEXT (R196). -/
def execIext (h : Hdr) (len : BitVec 6) (d : WG) (a : WG) (b : WGI) (s : State) : Host.Outcome State Fault Refusal :=
  scalarOp h d (fun s => BitVec.ofInt 64 (signedOf (len.toNat + 1) (fieldAt (readWG s a) (readWGI s b).toNat (len.toNat + 1)))) s

/-- IEXTN (R196). -/
def execIextn (h : Hdr) (len : BitVec 6) (d : WG) (a : WG) (b : WGI) (s : State) : Host.Outcome State Fault Refusal :=
  scalarOp h d (fun s => BitVec.ofNat 64 (fieldAt (readWG s a) (readWGI s b).toNat (len.toNat + 1))) s

/-- IINS (R196). -/
def execIins (h : Hdr) (len : BitVec 6) (d : WG) (a : WG) (b : WGI) (s : State) : Host.Outcome State Fault Refusal :=
  scalarOp h d (fun s => insertAt (readWG s d) (readWG s a) (readWGI s b).toNat (len.toNat + 1)) s

/-- ICNT (R197). -/
def execIcnt (h : Hdr) (t : Ty) (k : CntKind) (d : WG) (a : WG) (s : State) : Host.Outcome State Fault Refusal :=
  scalarOp h d (fun s => BitVec.ofNat 64 (countBits k (Ty.width t) (readWG s a).toNat)) s

/-- IMOV (R195, R197). -/
def execImov (h : Hdr) (t : Ty) (d : WG) (b : WGIL) (s : State) : Host.Outcome State Fault Refusal :=
  scalarOp h d (fun s => extend t (opInt t (readWGIL s b))) s

/-- ISEL (R195, R197). -/
def execIsel (h : Hdr) (t : Ty) (pk : P) (d : WG) (a : WG) (b : WGI) (s : State) : Host.Outcome State Fault Refusal :=
  scalarOp h d (fun s => extend t (if (readP s pk).getLsbD 0 then opInt t (readWG s a) else opInt t (readWGI s b))) s

/-- IMUL (R198). -/
def execImul (h : Hdr) (t : Ty) (d : WG) (a : WG) (b : WGI) (s : State) : Host.Outcome State Fault Refusal :=
  intOp h t d a b (fun x y => x * y) s

/-- IMULH (R198). -/
def execImulh (h : Hdr) (t : Ty) (d : WG) (a : WG) (b : WGI) (s : State) : Host.Outcome State Fault Refusal :=
  intOp h t d a b (mulHigh t) s

/-- IMULHN (R198). -/
def execImulhn (h : Hdr) (t : Ty) (d : WG) (a : WG) (b : WGI) (s : State) : Host.Outcome State Fault Refusal :=
  intOp h t d a b (mulHigh t) s

/-- IMAD (R198). -/
def execImad (h : Hdr) (t : Ty) (d : WG) (a : WG) (b : WGI) (s : State) : Host.Outcome State Fault Refusal :=
  scalarOp h d (fun s => extend t (opInt t (readWG s d) + opInt t (readWG s a) * opInt t (readWGI s b))) s

/-- IDIV (R198, R199). -/
def execIdiv (h : Hdr) (t : Ty) (d : WG) (a : WG) (b : WGI) (s : State) : Host.Outcome State Fault Refusal :=
  intOp h t d a b divInt s

/-- IDIVN (R198, R199). -/
def execIdivn (h : Hdr) (t : Ty) (d : WG) (a : WG) (b : WGI) (s : State) : Host.Outcome State Fault Refusal :=
  intOp h t d a b divInt s

/-- IREM (R198, R199). -/
def execIrem (h : Hdr) (t : Ty) (d : WG) (a : WG) (b : WGI) (s : State) : Host.Outcome State Fault Refusal :=
  intOp h t d a b remInt s

/-- IREMN (R198, R199). -/
def execIremn (h : Hdr) (t : Ty) (d : WG) (a : WG) (b : WGI) (s : State) : Host.Outcome State Fault Refusal :=
  intOp h t d a b remInt s

/-- ILEA (R198). -/
def execIlea (h : Hdr) (sh : BitVec 6) (d : WG) (a : WG) (b : WGI) (s : State) : Host.Outcome State Fault Refusal :=
  scalarOp h d (fun s => readWG s a + readWGI s b * BitVec.ofNat 64 (2 ^ sh.toNat)) s

end Sys2Proof.Machine
end

