-- ==== Sys2Proof/Machine/Atomic.lean ====
section
/-!
DEFINITION. Sys2Proof/Machine/Atomic.lean: class 0x6, atomics and synchronisation (spec/11 R218 to R226; R84, R85, R159).
-/
namespace Sys2Proof.Machine

/-! ### Read-modify-write -/

/-- Whether an order carries a release. -/
def ordRel : Ord → Bool
  | .rel | .ar => true
  | .rlx | .acq => false
/-- Whether an order carries an acquire. -/
def ordAcq : Ord → Bool
  | .acq | .ar => true
  | .rlx | .rel => false

/-- The stores of core k up to the last one that touches a line, performed. -/
def drainLine (s : State) (k line : Nat) : State :=
  let n := ((getCore s k).storeBuf.zipIdx.foldl (fun acc p => if p.1.bytes.any fun b => b.1 / 128 == line then p.2 + 1 else acc) 0)
  drainN s k n
/-- What is performed before an atomic of the focus core (R222, R295): a release performs everything; so does an atomic whose home is
within the die, as ember SRAM is for an ember core (R89); across dies an atomic without a release may leave earlier stores to other lines
in the buffer. -/
def beforeAtomic (s : State) (rel acq : Bool) (sc : Scope) (key : Nat) : State :=
  let k := s.core.id
  let far := (remoteKey k key || decide (2 ^ 48 ≤ key) && decide (key < 2 ^ 49) && !(isEmber k)) && freeChoice s.free
  let s1 := if rel then release s k sc else if far then drainLine s k (key / 128) else drainAll s k
  if acq then acquire s1 k sc else s1
/-- The core's own copy of a line written back and invalidated, and every copy held on the home's die recalled (R85). -/
def recallLine (s : State) (line : Nat) : State :=
  let d := homeDie (line * 128)
  let s1 := dropLine (writeBackLine s s.core.id line) s.core.id line
  let s2 := mapCores s1 fun c =>
    if dieOf c.id = d then { c with l1 := c.l1.filter fun l => !(l.addr == line && (l.st == .s || l.st == .e || l.st == .m)) } else c
  dropEntry s2 d line
/-- LPDDR-6 bytes of an access to n bytes at a key, counted for the launch (R314). -/
def tally (s : State) (key n : Nat) : State := if lpddr key then countBytes s n else s
/-- An access of n bytes performed at a key's home, counted in its delay account (R85, R159, R314); in local memory it is one bank operation,
which a copy's write falls wholly before or after (R221). -/
def atHome (s : State) (key n : Nat) : State :=
  let s1 := tally (settleWord (if key < 2 ^ 48 then recallLine s (key / 128) else s) key n) key n
  match accountOf s1.core.id true key with
  | some a => respond s1 a none
  | none => s1

/-- An atomic of n bytes at an address (R219): what is at its home before, and the state in which that is replaced by `f` of it. -/
def atomicAt (s : State) (t : Ty) (ord : Ord) (sc : Scope) (a : Word) (f : Nat → Option Nat) : Eff (Nat × State) := do
  let n := tyBytes t
  let (l, s1) ← resolve s (coreAcc s) a n n true
  match l with
  | [] => .ok (0, s1)
  | x :: _ =>
    if decide (x.key < 2 ^ 48) && lineHeld s1 x.key then .error (.after s1 (.wait .memory)) else
    let s2 := atHome (beforeAtomic s1 (ordRel ord) (ordAcq ord) sc x.key) x.key n
    let old := memRead s2.mem x.key n
    match f old with
    | some new => .ok (old, { s2 with mem := memWrite s2.mem x.key n new })
    | none => .ok (old, s2)
/-- AADD to ASWP (R219): D is the operand and receives the old value. -/
def rmw (h : Hdr) (t : Ty) (ord : Ord) (sc : Scope) (d a : WG) (b : WGI) (f : Int → Int → Int) (s : State) :
    Host.Outcome State Fault Refusal :=
  .next (scalar s h fun s => do
    let x := opInt t (readWG s d)
    let (old, s1) ← atomicAt s t ord sc (addrAB s a b) fun old => some (wrap (Ty.width t) (f (intAt t old) x))
    .ok (advance (writeWG s1 d (extend t (old : Int)))))

/-- AADD (R219). -/
def execAadd (h : Hdr) (t : Ty) (ord : Ord) (sc : Scope) (d : WG) (a : WG) (b : WGI) (s : State) : Host.Outcome State Fault Refusal :=
  rmw h t ord sc d a b (fun x y => x + y) s

/-- AMIN (R219). -/
def execAmin (h : Hdr) (t : Ty) (ord : Ord) (sc : Scope) (d : WG) (a : WG) (b : WGI) (s : State) : Host.Outcome State Fault Refusal :=
  rmw h t ord sc d a b (fun x y => min x y) s

/-- AMAX (R219). -/
def execAmax (h : Hdr) (t : Ty) (ord : Ord) (sc : Scope) (d : WG) (a : WG) (b : WGI) (s : State) : Host.Outcome State Fault Refusal :=
  rmw h t ord sc d a b (fun x y => max x y) s

/-- AMINN (R219). -/
def execAminn (h : Hdr) (t : Ty) (ord : Ord) (sc : Scope) (d : WG) (a : WG) (b : WGI) (s : State) : Host.Outcome State Fault Refusal :=
  rmw h t ord sc d a b (fun x y => min x y) s

/-- AMAXN (R219). -/
def execAmaxn (h : Hdr) (t : Ty) (ord : Ord) (sc : Scope) (d : WG) (a : WG) (b : WGI) (s : State) : Host.Outcome State Fault Refusal :=
  rmw h t ord sc d a b (fun x y => max x y) s

/-- AAND (R219). -/
def execAand (h : Hdr) (t : Ty) (ord : Ord) (sc : Scope) (d : WG) (a : WG) (b : WGI) (s : State) : Host.Outcome State Fault Refusal :=
  rmw h t ord sc d a b (bitsInt t fun x y => x &&& y) s

/-- AOR (R219). -/
def execAor (h : Hdr) (t : Ty) (ord : Ord) (sc : Scope) (d : WG) (a : WG) (b : WGI) (s : State) : Host.Outcome State Fault Refusal :=
  rmw h t ord sc d a b (bitsInt t fun x y => x ||| y) s

/-- AXOR (R219). -/
def execAxor (h : Hdr) (t : Ty) (ord : Ord) (sc : Scope) (d : WG) (a : WG) (b : WGI) (s : State) : Host.Outcome State Fault Refusal :=
  rmw h t ord sc d a b (bitsInt t fun x y => x ^^^ y) s

/-- ASWP (R219). -/
def execAswp (h : Hdr) (t : Ty) (ord : Ord) (sc : Scope) (d : WG) (a : WG) (b : WGI) (s : State) : Host.Outcome State Fault Refusal :=
  rmw h t ord sc d a b (fun _ y => y) s

/-- ACAS (R220): the pair's first register is compared and receives the old value, the second is the new value. -/
def execAcas (h : Hdr) (t : Ty) (ord : Ord) (sc : Scope) (d : WG) (a : WG) (b : WGI) (s : State) :
    Host.Outcome State Fault Refusal :=
  .next (scalar s h fun s => do
    let w := Ty.width t
    let want := (readWG s d).toNat % 2 ^ w
    let new := (readWG s (nextReg d)).toNat % 2 ^ w
    let (old, s1) ← atomicAt s t ord sc (addrAB s a b) fun old => if old = want then some new else none
    .ok (advance (writeWG s1 d (extend t (old : Int)))))

/-! ### Load-acquire, store-release, fence (R223, R224) -/

/-- LPDDR-6 bytes that come from memory and not from another core's L1, counted for the launch (R159, R314). -/
def tallyRead (s : State) (key n : Nat) : State := if heldElsewhere s (key / 128) then s else tally s key n
/-- LDACQ (R223): at PKG and SYS scope the read of a remote-homed line is made at its home, after the core's own bytes of the line, those still
in its store buffer among them, have been written back there and its remote lines have been dropped; an own-homed line uses the L1 as a load does. -/
def execLdacq (h : Hdr) (t : Ty) (sc : Scope) (d : WG) (a : WG) (b : WGI) (s : State) : Host.Outcome State Fault Refusal :=
  .next (scalar s h fun s => do
    let x := addrAB s a b
    let n := tyBytes t
    if wideScope sc then
      let (l, s1) ← resolve s (coreAcc s) x n n false
      match l.find? fun y => remoteKey s1.core.id y.key with
      | some y =>
        if lineHeld s1 y.key then .error (.after s1 (.wait .memory))
        else
          let s2 := acquire (drainLine s1 s1.core.id (y.key / 128)) s1.core.id sc
          .ok (advance (writeWG (countAccess (tallyRead s2 y.key n) y.key) d (loaded t (memRead s2.mem y.key n))))
      | none =>
        let s2 := touchLoad (acquire s1 s1.core.id sc) l
        .ok (advance (writeWG s2 d (loaded t (ofBytes (l.map (viewByte s2.mem s2.core))))))
    else
      loadTo s t d x n)
/-- STREL (R223): a release, then the store; at PKG and SYS scope the store to a remote-homed line is performed at its home. -/
def execStrel (h : Hdr) (t : Ty) (sc : Scope) (d : WG) (a : WG) (b : WGI) (s : State) : Host.Outcome State Fault Refusal :=
  .next (scalar s h fun s => do
    let n := tyBytes t
    let (l, s1) ← resolve s (coreAcc s) (addrAB s a b) n n true
    let bytes := l.zip (toBytes n (readWG s d).toNat)
    let s2 := release s1 s1.core.id sc
    let far := wideScope sc && l.any fun y => remoteKey s.core.id y.key
    if far && l.any fun y => lineHeld s1 y.key then .error (.after s1 (.wait .memory))
    else if far then
      let me := s2.core.id
      let s3 := (linesOf l).foldl (fun acc line => evictLine acc me line) s2
      .ok (advance (writeHome (match l with | y :: _ => tally s3 y.key n | [] => s3) me (curCtx s) (bytes.map fun b => (b.1.key, b.2))))
    else
      let s3 ← pushStore s2 bytes false true
      .ok (advance s3))
/-- FENCE (R224, R222). -/
def execFence (h : Hdr) (ord : Ord) (sc : Scope) (s : State) : Host.Outcome State Fault Refusal :=
  .next (scalar s h fun s =>
    let s1 := if ordRel ord then release s s.core.id sc else s
    .ok (advance (if ordAcq ord then acquire s1 s1.core.id sc else s1)))

/-! ### Waiting and barriers (R225, R226) -/

/-- WAITA (R225): GEN is read as an acquire at SCOPE until it equals bits [15:0] of D. -/
def execWaita (h : Hdr) (sc : Scope) (d : WGI) (a : WG) (b : WGI) (s : State) : Host.Outcome State Fault Refusal :=
  .next (userOnly s h fun s => do
    let key ← localTarget s (addrAB s a b) 8 8
    let gen := ofBytes ((List.range 2).map fun i => viewByte s.mem s.core ⟨key + i, false⟩)
    waitFor (gen == (readWGI s d).toNat % 2 ^ 16) .arrival
    .ok (advance (acquire s s.core.id sc)))

/-- Whether a task is a member of a launch's gang. -/
def memberOf (g : Gang) (ctx : CtxId) (lid : Lid) (t : TaskInfo) : Bool := t.gang == some g && t.ctx == ctx && t.lid == lid
/-- A member that has started or waits to start and has not arrived at the barrier: an ended one counts as arrived (R37). -/
def notArrived (g : Gang) (ctx : CtxId) (lid : Lid) (c : Core) : Bool :=
  (match c.task with | some t => memberOf g ctx lid t.info && !c.atBarrier | none => false) ||
    c.runq.any fun e => memberOf g ctx lid e.task
/-- The PC of a member that waits in its GBAR, moved past it: in a service task, that of the interrupted task, at which ERET resumes. -/
def leaveBarrier (s : State) : State :=
  let s1 := onCore s fun c => { c with atBarrier := false }
  match s.core.bank with
  | .user => advance s1
  | .coal => s1
  | .service =>
    let now := s.core
    let u := advance (onCore s1 fun c => { c with bank := .user, pc := c.svc.resume.getD (c.svc.trapPc.zeroExtend 64) })
    onCore u fun c =>
      { c with bank := .service, pc := now.pc, srcPc := now.srcPc, blocked := now.blocked, early := now.early,
               svc := { c.svc with resume := some c.pc, resumeSrc := c.srcPc } }
/-- A waiting member of a launch's gang passes the barrier; a core that no member runs on is left alone. -/
def passBarrier (g : Gang) (ctx : CtxId) (lid : Lid) (s : State) (k : Nat) : State :=
  let c := getCore s k
  if c.atBarrier && (match c.task with | some t => memberOf g ctx lid t.info | none => false) then leaveBarrier (focus s k) else s
/-- GBAR (R226, R37): at once in a task that is no gang member; in a member it releases at CLUS scope and completes on every member
when the last running one arrives. -/
def execGbar (h : Hdr) (s : State) : Host.Outcome State Fault Refusal :=
  .next (userOnly s h fun s =>
    match s.core.task with
    | none => .ok (advance s)
    | some t =>
      match t.info.gang with
      | none => .ok (advance s)
      | some g =>
        let me := s.core.id
        let s1 := onCore (release s me .clus) fun c => { c with atBarrier := true, blocked := some .gang }
        if (gangCores g).any fun k => notArrived g t.info.ctx t.info.lid (getCore s1 k) then .ok s1
        else .ok (focus ((gangCores g).foldl (passBarrier g t.info.ctx t.info.lid) s1) me))

end Sys2Proof.Machine
end

