-- ==== Sys2Proof/Machine/Control.lean ====
section
/-!
DEFINITION. Sys2Proof/Machine/Control.lean: class 0x0, control (spec/10 R184 to R194; spec/02 R20 to R34; spec/03 R56 to R61).
-/
namespace Sys2Proof.Machine

/-- PC + 12 × sext(M, 64) (R184). -/
def target (s : State) (off : BitVec 20) : Word := s.core.pc + 12 * off.signExtend 64
/-- A branch taken or not (R186). -/
def branch (s : State) (off : BitVec 20) (taken : Bool) : State := if taken then jumpTo s (target s off) else advance s

/-- ILLEGAL (R173, R184). -/
def execIllegal (_rest : BitVec 86) (s : State) : Host.Outcome State Fault Refusal := .next (illegal s)

/-- NOP (R184). -/
def execNop (h : Hdr) (s : State) : Host.Outcome State Fault Refusal := .next (scalar s h fun s => .ok (advance s))
/-- BR (R186). -/
def execBr (h : Hdr) (off : BitVec 20) (s : State) : Host.Outcome State Fault Refusal :=
  .next (scalar s h fun s => .ok (branch s off true))
/-- BRZ (R186). -/
def execBrz (h : Hdr) (off : BitVec 20) (a : WG) (s : State) : Host.Outcome State Fault Refusal :=
  .next (scalar s h fun s => .ok (branch s off (readWG s a == 0)))
/-- BRNZ (R186). -/
def execBrnz (h : Hdr) (off : BitVec 20) (a : WG) (s : State) : Host.Outcome State Fault Refusal :=
  .next (scalar s h fun s => .ok (branch s off (readWG s a != 0)))
/-- BRDEC (R186). -/
def execBrdec (h : Hdr) (off : BitVec 20) (d : WG) (s : State) : Host.Outcome State Fault Refusal :=
  .next (scalar s h fun s =>
    let t := readWG s d - 1
    .ok (branch (writeWG s d t) off (t != 0)))
/-- JMP (R186). -/
def execJmp (h : Hdr) (a : WG) (s : State) : Host.Outcome State Fault Refusal :=
  .next (scalar s h fun s => .ok (jumpTo s (readWG s a)))

/-! ### Calls and windows (R56 to R59, R187) -/

/-- Instructions that a running loop forbids (R188). -/
def noLoop (s : State) : Eff Unit := need (!s.core.loop.on) .illegalInsn s.core.pc

/-- The window turned forward by 16: the caller's w16 to w23 become w0 to w7, everything else is zero, and the link is the
return address (R187). -/
def turnForward (c : Core) (ret : Word) : Core :=
  { c with
    below := c.win :: c.below
    win := { w := Vector.ofFn fun i => if h : i.val < 8 then c.out[i.val] else 0, link := ret.extractLsb' 0 56 }
    out := Vector.replicate 8 0 }
/-- The window turned back by 16: its w0 to w7 become the caller's w16 to w23 (R187). -/
def turnBack (c : Core) : Core :=
  match c.below with
  | [] => c
  | f :: r => { c with win := f, below := r, out := Vector.ofFn fun i => c.win.w[i.val] }

/-- CALL and CALLR to a target (R187): with eight windows in use the spill trap is raised at the instruction itself, which runs
again after it (R57); the limit is checked first (R58). -/
def callTo (s : State) (t : Word) : Eff State :=
  if 7 ≤ s.core.below.length then
    if s.core.wlimit.toNat < s.core.wstack.toNat + 136 then .error (.fault .lmAddr (s.core.wstack.zeroExtend 64))
    else raiseTrap s 1 0 (s.core.wstack.zeroExtend 64) (some s.core.pc)
  else
    let ret := s.core.pc + 12
    .ok (toPc (onCore s fun c => turnForward c ret) t)
/-- RET (R187): with the caller's window spilled the fill trap is raised at the instruction itself (R57); in the task's first
window it faults (R59). -/
def retTo (s : State) : Eff State :=
  let t := s.core.win.link.zeroExtend 64
  if s.core.below.isEmpty then
    if s.core.wdepth = 0 then .error (.fault .illegalInsn s.core.pc)
    else raiseTrap s 2 0 ((s.core.wstack - 136).zeroExtend 64) (some s.core.pc)
  else .ok (toPc (onCore s turnBack) t)

/-- CALL (R187). -/
def execCall (h : Hdr) (off : BitVec 20) (s : State) : Host.Outcome State Fault Refusal :=
  .next (userOnly s h fun s => do
    noLoop s
    callTo s (target s off))
/-- CALLR (R187). -/
def execCallr (h : Hdr) (a : WG) (s : State) : Host.Outcome State Fault Refusal :=
  .next (userOnly s h fun s => do
    noLoop s
    callTo s (readWG s a))
/-- RET (R187). -/
def execRet (h : Hdr) (s : State) : Host.Outcome State Fault Refusal :=
  .next (userOnly s h fun s => do
    noLoop s
    retTo s)

/-! ### The loop buffer (R188, R189) -/

/-- LOOP (R188): the body runs from PC + 12 up to PC + 12 × M. -/
def execLoop (h : Hdr) (off : BitVec 20) (a : WGI) (s : State) : Host.Outcome State Fault Refusal :=
  .next (userOnly s h fun s => do
    noLoop s
    let n := readWGI s a
    let stop := target s off
    if n = 0 then .ok (toPc s stop)
    else
      let start := s.core.pc + 12
      .ok (toPc (onCore s fun c =>
        { c with loop := ⟨start, stop, n, true⟩, loopBuf := [] }) start))
/-- LBRK (R188): a service task has no loop of its own. -/
def execLbrk (h : Hdr) (s : State) : Host.Outcome State Fault Refusal :=
  .next (scalar s h fun s => do
    need (s.core.loop.on && s.core.bank == .user) .illegalInsn s.core.pc
    .ok (toPc (onCore s fun c => { c with loop := { c.loop with on := false }, loopBuf := [] }) s.core.loop.stop))

/-! ### Fork, join, end, step, trap -/

/-- The fork arm of the running task (R34, R190). -/
def forkArm (s : State) (entry arg join : Word) : Option TaskInfo :=
  s.core.task.map fun t =>
    { entry := entry, arg := arg, origin := 3, ctx := t.info.ctx, lid := t.info.lid, sub := t.info.sub, gangm := 0,
      gang := none, msg := none, chan := none, joinAddr := some join }
/-- COUNT of a join word (R33). -/
def joinCount (s : State) (key : Nat) : BitVec 32 := BitVec.ofNat 32 (memRead s.mem key 4)

/-- FORK (R34, R190): the update is acquire-release at CLUS scope, so earlier stores are performed first. -/
def execFork (h : Hdr) (off : BitVec 20) (d : WG) (a : WG) (b : WGI) (s : State) : Host.Outcome State Fault Refusal :=
  .next (userOnly s h fun s => do
    let w := readWG s a
    let key ← localTarget s w 16 16
    if 16 ≤ s.core.deque.length then .ok (advance (writeWG s d 0))
    else
      issueRoom s 1
      let s1 := settleWord (release s s.core.id .clus) key 4
      match forkArm s1 (target s1 off) (readWGI s1 b) w with
      | none => .ok (advance (writeWG s1 d 0))
      | some arm =>
        let n := joinCount s1 key + 1
        let s2 := { s1 with mem := memWrite s1.mem key 4 n.toNat }
        let s3 := charge (onCore s2 fun c => { c with deque := arm :: c.deque }) 1
        .ok (advance (writeWG s3 d 1)))

/-- JOIN (R34, R191): the task that brings COUNT to zero goes on at CONT; every other one ends. -/
def execJoin (h : Hdr) (a : WG) (s : State) : Host.Outcome State Fault Refusal :=
  .next (userOnly s h fun s => do
    let key ← localTarget s (readWG s a) 16 16
    let s1 := settleWord (release s s.core.id .clus) key 16
    let n := joinCount s1 key
    if n = 0 then .ok (endTask s1)
    else
      let s2 := { s1 with mem := memWrite s1.mem key 4 (n - 1).toNat }
      if n = 1 then .ok (jumpTo s2 (BitVec.ofNat 64 (memRead s2.mem (key + 8) 7)))
      else .ok (endTask s2))

/-- END (R192). -/
def execEndTask (h : Hdr) (s : State) : Host.Outcome State Fault Refusal :=
  .next (userOnly s h fun s => .ok (endTask s))

/-- Whether the running task stops at the STEPNO it has reached: a cut names its launch, and it has not been released beyond (R193,
R327). -/
def stopsAt (s : State) (t : Task) (n : BitVec 32) : Bool :=
  cutNames s t.info.ctx t.info.lid && (match s.core.cutGoal with | some g => decide (g.toNat ≤ n.toNat) | none => true)

/-- STEP (R193): the PC moves on, STEPNO counts, the watchdog starts again, and a pending stop stops the task here. -/
def execStep (h : Hdr) (s : State) : Host.Outcome State Fault Refusal :=
  .next (userOnly s h fun s =>
    match s.core.task with
    | none => .ok (advance s)
    | some t =>
      let n := t.stepno + 1
      let ack := if stopsAt s t n then some n else none
      .ok (advance (onCore s fun c =>
        { c with task := some { t with stepno := n, wdog := 0 }, cutAck := ack, cutGoal := if ack.isSome then none else c.cutGoal })))

/-- TRAP (R194): cause 0x04, taken after the instruction; one that a service task executes is a machine check. -/
def execTrap (h : Hdr) (a : WGI) (s : State) : Host.Outcome State Fault Refusal :=
  .next (scalar s h fun s => do
    need (!inService s) .illegalInsn s.core.pc
    let v := readWGI s a
    let s1 ← raiseTrap s 4 (v.extractLsb' 0 16) v (some (s.core.pc + 12))
    .ok (advance s1))

end Sys2Proof.Machine
end

