-- ==== Sys2Proof/Machine/Matrix.lean ====
section
/-!
DEFINITION. Sys2Proof/Machine/Matrix.lean: class 0xA, the matrix engine (spec/12 R256 to R262; R36, R37, R87, R110 to R112, R116). An
instruction issues a command (R244, R245); what a command does stands beside it, for the events of EvEngine.lean.
-/
namespace Sys2Proof.Machine

/-! ### Issuing an engine command -/

/-- The operand record of a command issued now (R245). -/
def recordOf (s : State) (d a a2 b : Word) : OpRec :=
  let t := s.core.task
  { pc := s.core.pc, core := s.core.id, ctx := curCtx s, lid := curLid s, actid := (t.map Task.actid).getD 0,
    stepno := (t.map Task.stepno).getD 0, d := d, a := a, a2 := a2, b := b, behind := s.core.vecIssued }
/-- An engine command issued (R124, R157): its launch's counter rises, and the queue takes it. -/
def issueCmd (s : State) (put : Core → Core) : Eff State := do
  issueRoom s 1
  .ok (advance (onCore (charge s 1) put))
/-- Whether a command was issued by the focus core's running activation. -/
def ownCmd (s : State) (r : OpRec) : Bool :=
  match s.core.task with
  | some t => r.ctx == t.info.ctx && r.actid == t.actid
  | none => true

/-- Whether the member that a gang of a launch has on a core has ended (R37): it neither runs there nor waits to start. -/
def memberGone (g : Gang) (ctx : CtxId) (lid : Lid) (c : Core) : Bool :=
  !((match c.task with | some t => memberOf g ctx lid t.info | none => false) || c.runq.any fun e => memberOf g ctx lid e.task)
/-- A matrix command (R256): a full queue stalls the scalar core (R124). -/
def issueMatrix (h : Hdr) (op : MOp) (hm1 : BitVec 6) (d a b : State → Word) (s : State) : Host.Outcome State Fault Refusal :=
  .next (if !inCoal s && guardBit s h && decide (2 ≤ s.core.mq.length) then stallOn s .matrix
    else scalar s h fun s =>
      let gang := s.core.task.bind fun t => t.info.gang
      let late := match gang with
        | some g => (gangCores g).any fun k => memberGone g (curCtx s) (curLid s) (getCore s k)
        | none => false
      let cmd : MatrixCmd :=
        { op := op, hm1 := hm1.toNat, rcd := recordOf s (d s) (a s) 0 (b s), gang := gang,
          member := match gang with | some g => s.core.id - g.base | none => 0, late := late, zero := s.core.accStale }
      issueCmd s fun c => { c with mq := c.mq ++ [cmd], accStale := false })
/-- An operand position marked —. -/
def noWord (_ : State) : Word := 0

/-- MLDA (R258). -/
def execMlda (h : Hdr) (ta : Ty) (tb : Ty) (a : WG) (s : State) : Host.Outcome State Fault Refusal :=
  issueMatrix h (.mlda tb ta) 0 noWord (fun s => readWG s a) noWord s
/-- MGANG (R260). -/
def execMgang (h : Hdr) (ta : Ty) (tb : Ty) (hm1 : BitVec 6) (d : WGI) (a : WG) (b : Option WG) (s : State) :
    Host.Outcome State Fault Refusal :=
  issueMatrix h (.mgang ta tb) hm1 (fun s => readWGI s d) (fun s => readWG s a) (fun s => readWGOpt s b) s
/-- MMA (R259). -/
def execMma (h : Hdr) (ta : Ty) (tb : Ty) (hm1 : BitVec 6) (d : WGI) (a : WG) (b : Option WG) (s : State) :
    Host.Outcome State Fault Refusal :=
  issueMatrix h (.mma ta tb) hm1 (fun s => readWGI s d) (fun s => readWG s a) (fun s => readWGOpt s b) s
/-- MZERO (R261). -/
def execMzero (h : Hdr) (hm1 : BitVec 6) (d : WGI) (s : State) : Host.Outcome State Fault Refusal :=
  issueMatrix h .mzero hm1 (fun s => readWGI s d) noWord noWord s
/-- MSTF (R261). -/
def execMstf (h : Hdr) (hm1 : BitVec 6) (d : WGI) (a : WG) (s : State) : Host.Outcome State Fault Refusal :=
  issueMatrix h .mstf hm1 (fun s => readWGI s d) (fun s => readWG s a) noWord s
/-- MSTQ (R261). -/
def execMstq (h : Hdr) (hm1 : BitVec 6) (d : WGI) (a : WG) (b : WG) (s : State) : Host.Outcome State Fault Refusal :=
  issueMatrix h .mstq hm1 (fun s => readWGI s d) (fun s => readWG s a) (fun s => readWG s b) s
/-- MSTB (R261). -/
def execMstb (h : Hdr) (hm1 : BitVec 6) (d : WGI) (a : WG) (s : State) : Host.Outcome State Fault Refusal :=
  issueMatrix h .mstb hm1 (fun s => readWGI s d) (fun s => readWG s a) noWord s
/-- MLDC (R261). -/
def execMldc (h : Hdr) (hm1 : BitVec 6) (d : WGI) (a : WG) (s : State) : Host.Outcome State Fault Refusal :=
  issueMatrix h .mldc hm1 (fun s => readWGI s d) (fun s => readWG s a) noWord s

/-- Whether a matrix command of the running activation has not completed. -/
def matrixPending (s : State) : Bool :=
  (s.core.mq.any fun m => ownCmd s m.rcd) || (match s.core.mrun with | some m => ownCmd s m.rcd | none => false)
/-- MWAIT (R262). -/
def execMwait (h : Hdr) (s : State) : Host.Outcome State Fault Refusal :=
  .next (scalar s h fun s => do
    waitFor (!matrixPending s) .matrix
    .ok (advance (acquire s s.core.id .core)))
/-- Whether the operand latch is an earlier context's still, which the running task reads as cleared (R258). -/
def latchStale (c : Core) : Bool := c.accStale || c.mq.any fun m => m.zero
/-- MSTAT's result word (R262). -/
def mstatWord (c : Core) : Word :=
  let (tb, ta, valid) := match if latchStale c then none else c.latch with
    | some l => (Ty.code l.tb, Ty.code l.ta, 1#1)
    | none => (0#4, 0#4, 0#1)
  (0 : BitVec 48) ++ tb ++ ta ++ 0#4 ++ valid ++ (if c.mrun.isSome then 1#1 else 0#1) ++ BitVec.ofNat 2 c.mq.length
/-- MSTAT (R262). -/
def execMstat (h : Hdr) (d : WG) (s : State) : Host.Outcome State Fault Refusal :=
  .next (scalar s h fun s => .ok (advance (writeWG s d (mstatWord s.core))))

end Sys2Proof.Machine
end

