-- ==== Sys2Proof/Machine/Flags.lean ====
section
/-!
DEFINITION. Sys2Proof/Machine/Flags.lean: the conditions of ICMP, VCMP, FCMP and VFCMP (R171). The Gwynrus has no flags: a
comparison writes a predicate (R54, R201).
-/
namespace Sys2Proof.Machine

/-- An integer condition (R171). -/
def condHolds (c : Cond) (a b : Int) : Bool :=
  match c with
  | .eq => decide (a = b) | .ne => decide (a ≠ b) | .lt => decide (a < b) | .le => decide (a ≤ b)
  | .gt => decide (b < a) | .ge => decide (b ≤ a)

/-- A floating-point condition (R171): unordered operands make NE and UN true and every other condition false. -/
def fcondHolds (c : FCond) (a b : FVal) : Bool :=
  if a.isNan || b.isNan then (match c with | .ne | .un => true | .eq | .lt | .le | .ord => false)
  else
    match c with
    | .eq => !(fless a b) && !(fless b a)
    | .ne => fless a b || fless b a
    | .lt => fless a b
    | .le => !(fless b a)
    | .un => false
    | .ord => true

end Sys2Proof.Machine
end

