-- ==== Sys2Proof/Machine/Vector.lean ====
section
/-!
DEFINITION. Sys2Proof/Machine/Vector.lean: class 0x7, vector integer and permutation (spec/11 R214, R215, R227 to R232; R42 in a coal
handler).
-/
namespace Sys2Proof.Machine

/-- Bit L of the guard. -/
def active (s : State) (h : Hdr) (L : Nat) : Bool := (guardMask s h).getLsbD L
/-- The lanes of D: new where `act` holds, old elsewhere (R168). -/
def mergeIf (w : Nat) (act : Nat → Bool) (old : VReg) (new : Nat → Nat) : VReg :=
  vregOf w ((List.range (512 / w)).map fun L => if act L then new L else lane w L old)
/-- A vector instruction that writes lanes of D from the state; in a coal handler `bad` names an operand outside its bank. -/
def vecOpN (i : Instr) (n : Nat) (h : Hdr) (bad : Bool) (w : Nat) (d : V) (new : State → Nat → Nat) (s : State) :
    Host.Outcome State Fault Refusal :=
  .next (vector i s h (bad || vHigh d) (n * laneCount s h (512 / w) fun _ => true) fun s =>
    .ok (advance (writeV s d (mergeLanes w (guardMask s h) (readV s d) (new s)))))
/-- A vector instruction of one operation a lane. -/
def vecOp (i : Instr) (h : Hdr) (bad : Bool) (w : Nat) (d : V) (new : State → Nat → Nat) (s : State) : Host.Outcome State Fault Refusal :=
  vecOpN i 1 h bad w d new s
/-- A two-operand integer vector instruction (R227). -/
def vecInt (i : Instr) (h : Hdr) (t : Ty) (d a : V) (b : VS) (f : Int → Int → Int) (s : State) : Host.Outcome State Fault Refusal :=
  vecOp i h (vHigh a || vsBad b) (Ty.width t) d
    (fun s L => wrap (Ty.width t) (f (intAt t (lane (Ty.width t) L (readV s a))) (intAt t (laneB s (Ty.width t) b L)))) s
/-- A vector shift (R228): s is b_L read unsigned at width w. -/
def vecShift (i : Instr) (h : Hdr) (t : Ty) (d a : V) (b : VS) (f : Int → Nat → Int) (s : State) : Host.Outcome State Fault Refusal :=
  vecOp i h (vHigh a || vsBad b) (Ty.width t) d
    (fun s L => wrap (Ty.width t) (f (intAt t (lane (Ty.width t) L (readV s a))) (laneB s (Ty.width t) b L))) s
/-- A vector instruction that writes part of D's lanes: `part` says which lanes take part, under the guard (R230, R237). -/
def vecPart (i : Instr) (h : Hdr) (bad : Bool) (w : Nat) (d : V) (part : Nat → Bool) (new : State → Nat → Nat) (s : State) :
    Host.Outcome State Fault Refusal :=
  .next (vector i s h (bad || vHigh d) (laneCount s h (512 / w) part) fun s =>
    .ok (advance (writeV s d (mergeIf w (fun L => part L && active s h L) (readV s d) (new s)))))
/-- A vector instruction that writes a register from the active lanes: never in a coal handler (R217). -/
def vecScalar (i : Instr) (h : Hdr) (w : Nat) (d : WG) (f : State → Word) (s : State) : Host.Outcome State Fault Refusal :=
  .next (vector i s h true (laneCount s h (512 / w) fun _ => true) fun s => .ok (advance (writeWG s d (f s))))
/-- A predicate of lane results (R215): inactive lanes keep their bit, bits at or above n are zero. -/
def predOf (n : Nat) (act new : Nat → Bool) (old : Word) : Word :=
  BitVec.ofNat 64 ((List.range n).foldl (fun acc L => acc + if (if act L then new L else old.getLsbD L) then 2 ^ L else 0) 0)
/-- The active lanes of A at an integer TYPE, ascending (R232). -/
def activeInts (s : State) (h : Hdr) (t : Ty) (a : V) : List Int :=
  ((List.range (512 / Ty.width t)).filter (active s h)).map fun L => intAt t (lane (Ty.width t) L (readV s a))

/-- VADD (R227). -/
def execVadd (h : Hdr) (t : Ty) (d : V) (a : V) (b : VS) (s : State) : Host.Outcome State Fault Refusal :=
  vecInt (.vadd h t d a b) h t d a b (fun x y => x + y) s

/-- VSUB (R227). -/
def execVsub (h : Hdr) (t : Ty) (d : V) (a : V) (b : VS) (s : State) : Host.Outcome State Fault Refusal :=
  vecInt (.vsub h t d a b) h t d a b (fun x y => x - y) s

/-- VADDS (R227). -/
def execVadds (h : Hdr) (t : Ty) (d : V) (a : V) (b : VS) (s : State) : Host.Outcome State Fault Refusal :=
  vecInt (.vadds h t d a b) h t d a b (fun x y => satInt t (x + y)) s

/-- VADDSN (R227). -/
def execVaddsn (h : Hdr) (t : Ty) (d : V) (a : V) (b : VS) (s : State) : Host.Outcome State Fault Refusal :=
  vecInt (.vaddsn h t d a b) h t d a b (fun x y => satInt t (x + y)) s

/-- VSUBS (R227). -/
def execVsubs (h : Hdr) (t : Ty) (d : V) (a : V) (b : VS) (s : State) : Host.Outcome State Fault Refusal :=
  vecInt (.vsubs h t d a b) h t d a b (fun x y => satInt t (x - y)) s

/-- VMUL (R227). -/
def execVmul (h : Hdr) (t : Ty) (d : V) (a : V) (b : VS) (s : State) : Host.Outcome State Fault Refusal :=
  vecInt (.vmul h t d a b) h t d a b (fun x y => x * y) s

/-- VMULH (R227). -/
def execVmulh (h : Hdr) (t : Ty) (d : V) (a : V) (b : VS) (s : State) : Host.Outcome State Fault Refusal :=
  vecInt (.vmulh h t d a b) h t d a b (mulHigh t) s

/-- VMULHR (R115, R227). -/
def execVmulhr (h : Hdr) (d : V) (a : V) (b : VS) (s : State) : Host.Outcome State Fault Refusal :=
  vecInt (.vmulhr h d a b) h .i32 d a b mulhr s

/-- VMAD (R227). -/
def execVmad (h : Hdr) (t : Ty) (d : V) (a : V) (b : VS) (s : State) : Host.Outcome State Fault Refusal :=
  vecOpN (.vmad h t d a b) 2 h (vHigh a || vsBad b) (Ty.width t) d
    (fun s L => wrap (Ty.width t) (intAt t (lane (Ty.width t) L (readV s d)) +
      intAt t (lane (Ty.width t) L (readV s a)) * intAt t (laneB s (Ty.width t) b L))) s

/-- Register r of the quad VMACW accumulates into (R229). -/
def macwReg (s : State) (h : Hdr) (t : Ty) (a : V) (b : VS) (r : Nat) (old : VReg) : VReg :=
  mergeIf 32 (fun L => active s h (16 * r + L)) old fun L =>
    let j := 16 * r + L
    wrap 32 ((lane 32 L old : Int) + intAt t (lane 8 j (readV s a)) * signedOf 8 (laneB s 8 b j))
/-- The register r places after v. -/
def plusV (v : V) (r : Nat) : V := ⟨(v.val + r) % 32, Nat.mod_lt _ (by decide)⟩
/-- VMACW (R229): the four registers are computed before any is written. -/
def execVmacw (h : Hdr) (t : Ty) (d : V) (a : V) (b : VS) (s : State) : Host.Outcome State Fault Refusal :=
  .next (vector (.vmacw h t d a b) s h (vHigh d || vHigh a || vsBad b) (2 * laneCount s h 64 fun _ => true) fun s =>
    .ok (advance ((List.range 4).foldl (fun acc r => writeV acc (plusV d r) (macwReg s h t a b r (readV s (plusV d r)))) s)))
/-- VDOT4 (R229): a broadcast supplies the four bytes of its bits [31:0] to every group. -/
def execVdot4 (h : Hdr) (t : Ty) (d : V) (a : V) (b : VS) (s : State) : Host.Outcome State Fault Refusal :=
  vecOp (.vdot4 h t d a b) h (vHigh a || vsBad b) 32 d (fun s L =>
    let bq := match b with
      | .v n => lane 32 L (readV s n)
      | .reg r => (readWG s r).toNat % 2 ^ 32
      | .imm v => (immWord v).toNat % 2 ^ 32
    wrap 32 ((List.range 4).foldl
      (fun acc k => acc + intAt t (lane 8 (4 * L + k) (readV s a)) * signedOf 8 (field bq (8 * k) 8)) (lane 32 L (readV s d) : Int))) s

/-- VMIN (R227). -/
def execVmin (h : Hdr) (t : Ty) (d : V) (a : V) (b : VS) (s : State) : Host.Outcome State Fault Refusal :=
  vecInt (.vmin h t d a b) h t d a b (fun x y => min x y) s

/-- VMAX (R227). -/
def execVmax (h : Hdr) (t : Ty) (d : V) (a : V) (b : VS) (s : State) : Host.Outcome State Fault Refusal :=
  vecInt (.vmax h t d a b) h t d a b (fun x y => max x y) s

/-- VMINN (R227). -/
def execVminn (h : Hdr) (t : Ty) (d : V) (a : V) (b : VS) (s : State) : Host.Outcome State Fault Refusal :=
  vecInt (.vminn h t d a b) h t d a b (fun x y => min x y) s

/-- VMAXN (R227). -/
def execVmaxn (h : Hdr) (t : Ty) (d : V) (a : V) (b : VS) (s : State) : Host.Outcome State Fault Refusal :=
  vecInt (.vmaxn h t d a b) h t d a b (fun x y => max x y) s

/-- VABS (R227). -/
def execVabs (h : Hdr) (t : Ty) (d : V) (a : V) (s : State) : Host.Outcome State Fault Refusal :=
  vecOp (.vabs h t d a) h (vHigh a) (Ty.width t) d
    (fun s L => wrap (Ty.width t) ((intAt t (lane (Ty.width t) L (readV s a))).natAbs : Int)) s

/-- VAND (R227). -/
def execVand (h : Hdr) (t : Ty) (d : V) (a : V) (b : VS) (s : State) : Host.Outcome State Fault Refusal :=
  vecInt (.vand h t d a b) h t d a b (bitsInt t fun x y => x &&& y) s

/-- VOR (R227). -/
def execVor (h : Hdr) (t : Ty) (d : V) (a : V) (b : VS) (s : State) : Host.Outcome State Fault Refusal :=
  vecInt (.vor h t d a b) h t d a b (bitsInt t fun x y => x ||| y) s

/-- VXOR (R227). -/
def execVxor (h : Hdr) (t : Ty) (d : V) (a : V) (b : VS) (s : State) : Host.Outcome State Fault Refusal :=
  vecInt (.vxor h t d a b) h t d a b (bitsInt t fun x y => x ^^^ y) s

/-- VSHL (R227, R228). -/
def execVshl (h : Hdr) (t : Ty) (d : V) (a : V) (b : VS) (s : State) : Host.Outcome State Fault Refusal :=
  vecShift (.vshl h t d a b) h t d a b (shlInt t) s

/-- VSHR (R227, R228). -/
def execVshr (h : Hdr) (t : Ty) (d : V) (a : V) (b : VS) (s : State) : Host.Outcome State Fault Refusal :=
  vecShift (.vshr h t d a b) h t d a b (shrInt t) s

/-- VSAR (R227, R228). -/
def execVsar (h : Hdr) (t : Ty) (d : V) (a : V) (b : VS) (s : State) : Host.Outcome State Fault Refusal :=
  vecShift (.vsar h t d a b) h t d a b (sarInt t) s

/-- VRSHR (R227, R228). -/
def execVrshr (h : Hdr) (t : Ty) (d : V) (a : V) (b : VS) (s : State) : Host.Outcome State Fault Refusal :=
  vecShift (.vrshr h t d a b) h t d a b (fun x n => rshr x (min n (Ty.width t))) s

/-- VNARS (R230, R115): source lanes of 2w read as signed, results in part p. -/
def execVnars (h : Hdr) (t : Ty) (p : BitVec 6) (d : V) (a : V) (s : State) : Host.Outcome State Fault Refusal :=
  let w := Ty.width t
  let m := 512 / (2 * w)
  vecPart (.vnars h t p d a) h (vHigh a) w d (fun L => L / m == p.toNat)
    (fun s L => wrap w (satInt t (signedOf (2 * w) (lane (2 * w) (L - p.toNat * m) (readV s a))))) s

/-- VNARN (R230, R115): source lanes of 2w read as signed, results in part p. -/
def execVnarn (h : Hdr) (t : Ty) (p : BitVec 6) (d : V) (a : V) (s : State) : Host.Outcome State Fault Refusal :=
  let w := Ty.width t
  let m := 512 / (2 * w)
  vecPart (.vnarn h t p d a) h (vHigh a) w d (fun L => L / m == p.toNat)
    (fun s L => wrap w (satInt t (signedOf (2 * w) (lane (2 * w) (L - p.toNat * m) (readV s a))))) s

/-- VWID (R230): lanes of part p, extended to 2w. -/
def execVwid (h : Hdr) (t : Ty) (p : BitVec 6) (d : V) (a : V) (s : State) : Host.Outcome State Fault Refusal :=
  let w := Ty.width t
  let m := 512 / (2 * w)
  vecOp (.vwid h t p d a) h (vHigh a) (2 * w) d (fun s L => wrap (2 * w) (intAt t (lane w (p.toNat * m + L) (readV s a)))) s

/-- VWIDN (R230): lanes of part p, extended to 2w. -/
def execVwidn (h : Hdr) (t : Ty) (p : BitVec 6) (d : V) (a : V) (s : State) : Host.Outcome State Fault Refusal :=
  let w := Ty.width t
  let m := 512 / (2 * w)
  vecOp (.vwidn h t p d a) h (vHigh a) (2 * w) d (fun s L => wrap (2 * w) (intAt t (lane w (p.toNat * m + L) (readV s a)))) s

/-- VCMP (R227, R232). -/
def execVcmp (h : Hdr) (t : Ty) (c : Cond) (d : P) (a : V) (b : VS) (s : State) : Host.Outcome State Fault Refusal :=
  .next (vector (.vcmp h t c d a b) s h (pHigh d || vHigh a || vsBad b) (laneCount s h (512 / Ty.width t) fun _ => true) fun s =>
    let w := Ty.width t
    let res := fun L => condHolds c (intAt t (lane w L (readV s a))) (intAt t (laneB s w b L))
    .ok (advance (writeP s d (predOf (512 / w) (active s h) res (readP s d)))))

/-- VSEL (R227). -/
def execVsel (h : Hdr) (t : Ty) (pk : P) (d : V) (a : V) (b : VS) (s : State) : Host.Outcome State Fault Refusal :=
  vecOp (.vsel h t pk d a b) h (pHigh pk || vHigh a || vsBad b) (Ty.width t) d
    (fun s L => if (readP s pk).getLsbD L then lane (Ty.width t) L (readV s a) else laneB s (Ty.width t) b L) s

/-- VSPLAT (R227). -/
def execVsplat (h : Hdr) (t : Ty) (d : V) (b : WGI) (s : State) : Host.Outcome State Fault Refusal :=
  vecOp (.vsplat h t d b) h (wgiBad b) (Ty.width t) d (fun s _ => (readWGI s b).toNat % 2 ^ Ty.width t) s

/-- VPERM (R231). -/
def execVperm (h : Hdr) (t : Ty) (d : V) (a : V) (b : V) (s : State) : Host.Outcome State Fault Refusal :=
  vecOp (.vperm h t d a b) h (vHigh a || vHigh b) (Ty.width t) d (fun s L =>
    let i := lane (Ty.width t) L (readV s b)
    if 512 / Ty.width t ≤ i then 0 else lane (Ty.width t) i (readV s a)) s

/-- VSLIDE (R231): s is the whole 64-bit value of B, signed. -/
def execVslide (h : Hdr) (t : Ty) (d : V) (a : V) (b : WGI) (s : State) : Host.Outcome State Fault Refusal :=
  vecOp (.vslide h t d a b) h (vHigh a || wgiBad b) (Ty.width t) d (fun s L =>
    let i := (L : Int) + (readWGI s b).toInt
    if 0 ≤ i ∧ i < 512 / Ty.width t then lane (Ty.width t) i.toNat (readV s a) else 0) s

/-- VIOTA (R227). -/
def execViota (h : Hdr) (t : Ty) (d : V) (b : WGI) (s : State) : Host.Outcome State Fault Refusal :=
  vecOp (.viota h t d b) h (wgiBad b) (Ty.width t) d (fun s L => ((readWGI s b).toNat + L) % 2 ^ Ty.width t) s

/-- VREDADD (R232): the sum mod 2^64. -/
def execVredadd (h : Hdr) (t : Ty) (d : WG) (a : V) (s : State) : Host.Outcome State Fault Refusal :=
  vecScalar (.vredadd h t d a) h (Ty.width t) d (fun s => BitVec.ofInt 64 (activeInts s h t a).sum) s

/-- VREDMAX (R232): the minimum of T with no active lane. -/
def execVredmax (h : Hdr) (t : Ty) (d : WG) (a : V) (s : State) : Host.Outcome State Fault Refusal :=
  vecScalar (.vredmax h t d a) h (Ty.width t) d (fun s => extend t ((activeInts s h t a).foldl max (tyMin t))) s

/-- VREDMIN (R232): the maximum of T with no active lane. -/
def execVredmin (h : Hdr) (t : Ty) (d : WG) (a : V) (s : State) : Host.Outcome State Fault Refusal :=
  vecScalar (.vredmin h t d a) h (Ty.width t) d (fun s => extend t ((activeInts s h t a).foldl min (tyMax t))) s

/-- VMOVS (R232): D keeps its value where guard bit i is false, and no operation counts (R314). -/
def execVmovs (h : Hdr) (t : Ty) (d : WG) (a : V) (b : WGI) (s : State) : Host.Outcome State Fault Refusal :=
  let i := (readWGI s b).toNat % (512 / Ty.width t)
  .next (vector (.vmovs h t d a b) s h true (if active s h i then 1 else 0) fun s =>
    .ok (advance (if active s h i then writeWG s d (extend t (intAt t (lane (Ty.width t) i (readV s a)))) else s)))

/-- VCLR (R227). -/
def execVclr (h : Hdr) (t : Ty) (d : V) (s : State) : Host.Outcome State Fault Refusal :=
  vecOp (.vclr h t d) h false (Ty.width t) d (fun _ _ => 0) s

end Sys2Proof.Machine
end

