-- ==== Sys2Proof/Machine/VectorMem.lean ====
section
/-!
DEFINITION. Sys2Proof/Machine/VectorMem.lean: vector memory and rings of class 0x9 (spec/12 R246 to R251; R71, R125, R133, R168).
-/
namespace Sys2Proof.Machine

/-- A vector memory or stream instruction: not in a service task, which may name no v register (R27), nor in a coal handler (R42); it
goes through the vector queue (R124, R244). -/
def userVector (i : Instr) (s : State) (k : State → Eff State) : State :=
  match s.core.bank with
  | .service => illegal s
  | .coal => illegal s
  | .user => issueVec s i (k s)

/-! ### Lanes -/

/-- The active lanes of an access with their addresses, ascending. -/
def laneList (s : State) (h : Hdr) (n : Nat) (addr : Nat → Word) : List (Nat × Word) :=
  ((List.range n).filter (active s h)).map fun L => (L, addr L)
/-- Every lane checked in ascending order (R247): where each lies. -/
def resolveLanes (s : State) (e align : Nat) (write : Bool) : List (Nat × Word) → Eff (List (Nat × List Spot) × State)
  | [] => .ok ([], s)
  | (L, a) :: r =>
    match resolve s (coreAcc s) a e align write with
    | .error x => .error x
    | .ok (l, s1) =>
      match keeping s1 (resolveLanes s1 e align write r) with
      | .error x => .error x
      | .ok (m, s2) => .ok ((L, l) :: m, s2)
/-- The 64-byte alignment of a whole access (R71, R168): made whatever the mask holds, after the window checks of the lowest active
lane (R72). -/
def wholeAligned (a : Word) (e : Nat) (l : List (Nat × Word)) : Eff Unit :=
  if a.toNat % 64 = 0 then .ok ()
  else
    match l with
    | [] => .error (.fault .align a)
    | (_, x) :: _ =>
      match checkWindow x e 1 with
      | .error y => .error y
      | .ok _ => .error (.fault .align a)
/-- The lanes of a 64-byte access. -/
def wholeLanes (s : State) (h : Hdr) (t : Ty) (a : Word) (write : Bool) : Eff (List (Nat × List Spot) × State) := do
  let e := tyBytes t
  let l := laneList s h (64 / e) fun L => a + BitVec.ofNat 64 (e * L)
  wholeAligned a e l
  resolveLanes s e 1 write l
/-- The register after lanes are loaded; the others keep their value. -/
def loadLanes (s : State) (w : Nat) (old : VReg) (l : List (Nat × List Spot)) : VReg :=
  vregOf w ((List.range (512 / w)).map fun L =>
    match (l.find? fun p => p.1 == L).map Prod.snd with
    | some sp => ofBytes (sp.map (viewByte s.mem s.core))
    | none => lane w L old)
/-- What the lanes of a load leave: it is one access (R159). -/
def touchLanes (s : State) (l : List (Nat × List Spot)) : State := touchLoad s (l.flatMap Prod.snd)
/-- What lanes that are each an access of their own leave (R159). -/
def touchEach (s : State) (l : List (Nat × List Spot)) : State := l.foldl (fun acc p => touchLoad acc p.2) s
/-- The bytes of lanes, lowest lane first; of two lanes that name one byte the higher one's alone (R247). -/
def laneBytes (w : Nat) (x : VReg) : List (Nat × List Spot) → List (Spot × Byte)
  | [] => []
  | p :: r =>
    let later := laneBytes w x r
    ((p.2.zip (toBytes (w / 8) (lane w p.1 x))).filter fun b => !(later.any fun y => y.1.key == b.1.key)) ++ later
/-- The lanes of a store put into the store buffer, performed whole where every lane is aligned (R208). -/
def storeLanes (s : State) (w : Nat) (x : VReg) (l : List (Nat × List Spot)) (whole : Bool) : Eff State :=
  if l.isEmpty then .ok s else pushStore s (laneBytes w x l) false whole

/-! ### Ring handles (R125, R250) -/

/-- The slots a handle names: field 0 reads as 1 (R166). -/
def ringK (q : Ring) : Nat := if q.kf = 0 then 1 else q.kf.toNat
/-- A core's ring entry. -/
def ringOf (s : State) (q : Ring) : RingEntry := s.core.rings[q.ring.val]
/-- RING_MISUSE with the ring's base as its address (R323): BASE as the entry holds it (log 111). -/
def misuse (r : RingEntry) : Stop := .fault .ringMisuse (r.base.zeroExtend 64)
/-- The static checks of a handle (R125, R133): VALID, and o + k at most N; `least` slots are named. -/
def ringValid (r : RingEntry) (q : Ring) (least : Nat) : Eff Unit :=
  if r.valid = false ∨ r.count.toNat < q.o.toNat + ringK q ∨ ringK q < least then .error (misuse r) else .ok ()
/-- The number of ARRIVED bits set. -/
def arrivedCount (r : RingEntry) : Nat := popBelow 64 r.arrived.toNat
/-- The wait of a consumer or a producer (R125). -/
def ringWait (r : RingEntry) (q : Ring) (produce : Bool) : Eff Unit :=
  waitFor (if produce then decide (q.o.toNat + ringK q + r.filled.toNat + arrivedCount r ≤ r.count.toNat)
    else decide (q.o.toNat + ringK q ≤ r.filled.toNat)) .ring
/-- The address of offset `b` in the i-th slot of a handle (R250). -/
def slotAddr (r : RingEntry) (q : Ring) (produce : Bool) (i : Nat) (b : Word) : Word :=
  let p := if produce then r.tail.toNat else r.head.toNat
  let slot := (p + q.o.toNat + i) % r.count.toNat
  BitVec.ofNat 64 (localBase + r.base.toNat + slot * (64 * r.ssize.toNat)) + b
/-- The checks and the wait of a ring handle in a vector memory instruction (R250), whatever the mask holds; their order is log 109. -/
def ringAccess (s : State) (q : Ring) (least : Nat) (produce : Bool) (b : Word) : Eff RingEntry := do
  let r := ringOf s q
  ringValid r q least
  need (b.toNat % 64 == 0) .align (slotAddr r q produce 0 b)
  if 64 * r.ssize.toNat < b.toNat + 64 then .error (misuse r)
  else
    ringWait r q produce
    .ok r
/-- The address of a vector memory operand (R247, R250). -/
def vecAddr (s : State) (a : WGQ) (b : WGI) (produce : Bool) : Eff Word :=
  match a with
  | .reg r => .ok (readWG s r + readWGI s b)
  | .ring q => do
    let r ← ringAccess s q 1 produce (readWGI s b)
    .ok (slotAddr r q produce 0 (readWGI s b))

/-! ### Loads and stores -/

/-- One whole register loaded from an address, after the lines it misses have come in (R83). -/
def loadWhole (s : State) (h : Hdr) (t : Ty) (d : V) (a : Word) : Eff State := do
  let (l, s1) ← wholeLanes s h t a false
  let s2 := touchLanes s1 l
  .ok (writeV s2 d (loadLanes s2 (Ty.width t) (readV s2 d) l))
/-- VLD (R247, R250). -/
def execVld (h : Hdr) (t : Ty) (d : V) (a : WGQ) (b : WGI) (s : State) : Host.Outcome State Fault Refusal :=
  .next (userVector (.vld h t d a b) s fun s => do
    let x ← vecAddr s a b false
    let s1 ← loadWhole s h t d x
    .ok (advance s1))
/-- The bank quad of an address in some core's local memory (R76): the core and offset bits [8:6]. -/
def quadOf (s : State) (a : Word) : Option (Nat × Nat) :=
  if windowOf a.toNat = some .local then
    some (localCore s.core.id (a.toNat - localBase), field (a.toNat - localBase) 6 3)
  else none
/-- The two addresses of VLD2 (R248). -/
def pairAddr (s : State) (a : WGQ) (b : WGI) (k : BitVec 6) : Eff (Word × Word) :=
  match a with
  | .reg r =>
    let x := readWG s r + readWGI s b
    .ok (x, x + BitVec.ofNat 64 (64 * k.toNat))
  | .ring q => do
    let r ← ringAccess s q 2 false (readWGI s b)
    .ok (slotAddr r q false 0 (readWGI s b), slotAddr r q false 1 (readWGI s b))
/-- VLD2 (R248): x is checked before y, and both before either is loaded; loads in one bank quad count a stall. -/
def execVld2 (h : Hdr) (t : Ty) (k : BitVec 6) (d : V) (a : WGQ) (b : WGI) (s : State) : Host.Outcome State Fault Refusal :=
  .next (userVector (.vld2 h t k d a b) s fun s => do
    let (x, y) ← pairAddr s a b k
    let w := Ty.width t
    let (lx, s1) ← wholeLanes s h t x false
    let (ly, s2) ← keeping s1 (wholeLanes s1 h t y false)
    let s3 := touchLanes (touchLanes s2 lx) ly
    let s4 := writeV s3 d (loadLanes s3 w (readV s3 d) lx)
    let s5 := writeV s4 (plusV d 1) (loadLanes s3 w (readV s3 (plusV d 1)) ly)
    let same := !lx.isEmpty && (quadOf s x).isSome && quadOf s x == quadOf s y
    .ok (advance (onCore s5 fun c => { c with stallBank := if same then satAdd c.stallBank 1 else c.stallBank })))
/-- VST (R247, R250). -/
def execVst (h : Hdr) (t : Ty) (d : V) (a : WGQ) (b : WGI) (s : State) : Host.Outcome State Fault Refusal :=
  .next (userVector (.vst h t d a b) s fun s => do
    let x ← vecAddr s a b true
    let (l, s1) ← wholeLanes s h t x true
    let s2 ← storeLanes s1 (Ty.width t) (readV s d) l true
    .ok (advance s2))
/-- The lane addresses of a strided access (R247). -/
def stridedLanes (s : State) (h : Hdr) (t : Ty) (a : WG) (b : WGI) : List (Nat × Word) :=
  laneList s h (512 / Ty.width t) fun L => readWG s a + BitVec.ofNat 64 L * readWGI s b
/-- The lane addresses of a gathered access (R247). -/
def gatheredLanes (s : State) (h : Hdr) (t : Ty) (a : WG) (b : V) : List (Nat × Word) :=
  laneList s h (512 / Ty.width t) fun L => readWG s a + BitVec.ofNat 64 (lane (Ty.width t) L (readV s b) * tyBytes t)
/-- Lanes loaded one by one, after `touch` has brought in the lines that they miss (R83). -/
def loadEach (s : State) (t : Ty) (d : V) (lanes : List (Nat × Word)) (touch : State → List (Nat × List Spot) → State) : Eff State := do
  let (l, s1) ← resolveLanes s (tyBytes t) (tyBytes t) false lanes
  let s2 := touch s1 l
  .ok (writeV s2 d (loadLanes s2 (Ty.width t) (readV s2 d) l))
/-- Lanes stored one by one. -/
def storeEach (s : State) (t : Ty) (d : V) (lanes : List (Nat × Word)) : Eff State := do
  let (l, s1) ← resolveLanes s (tyBytes t) (tyBytes t) true lanes
  storeLanes s1 (Ty.width t) (readV s d) l true
/-- VLDS (R247). -/
def execVlds (h : Hdr) (t : Ty) (d : V) (a : WG) (b : WGI) (s : State) : Host.Outcome State Fault Refusal :=
  .next (userVector (.vlds h t d a b) s fun s => do
    let s1 ← loadEach s t d (stridedLanes s h t a b) touchLanes
    .ok (advance s1))
/-- VSTS (R247). -/
def execVsts (h : Hdr) (t : Ty) (d : V) (a : WG) (b : WGI) (s : State) : Host.Outcome State Fault Refusal :=
  .next (userVector (.vsts h t d a b) s fun s => do
    let s1 ← storeEach s t d (stridedLanes s h t a b)
    .ok (advance s1))
/-- VGATH (R247): each lane is a counted access (R159). -/
def execVgath (h : Hdr) (t : Ty) (d : V) (a : WG) (b : V) (s : State) : Host.Outcome State Fault Refusal :=
  .next (userVector (.vgath h t d a b) s fun s => do
    let s1 ← loadEach s t d (gatheredLanes s h t a b) touchEach
    .ok (advance s1))
/-- VSCAT (R247). -/
def execVscat (h : Hdr) (t : Ty) (d : V) (a : WG) (b : V) (s : State) : Host.Outcome State Fault Refusal :=
  .next (userVector (.vscat h t d a b) s fun s => do
    let s1 ← storeEach s t d (gatheredLanes s h t a b)
    .ok (advance s1))
/-- VLDB (R249): with some lane active the block's header, as it stands in memory, is checked before the register is written. -/
def execVldb (h : Hdr) (t : Ty) (d : V) (a : WGQ) (b : WGI) (s : State) : Host.Outcome State Fault Refusal :=
  .next (userVector (.vldb h t d a b) s fun s => do
    let x ← vecAddr s a b false
    let (l, s1) ← wholeLanes s h .n8 x false
    let any := (List.range 64).any (active s h)
    if any then
      let (hd, s2) ← keeping s1 (resolve s1 (coreAcc s1) x 4 1 false)
      let s3 := touchLanes s2 l
      match blkCheck t (ofBytes (hd.map fun y => viewByte s3.mem s3.core y)) with
      | some c => .error (.after s2 (.fault c x))
      | none => .ok (advance (writeV s3 d (loadLanes s3 8 (readV s3 d) l)))
    else .ok (advance s1))

/-! ### Rings (R125, R251) -/

/-- A core's ring entry changed. -/
def setRing (c : Core) (i : Fin 16) (r : RingEntry) : Core := { c with rings := c.rings.set i.val r }
/-- k slots consumed (R125). -/
def consume (r : RingEntry) (k : Nat) : RingEntry :=
  { r with head := BitVec.ofNat 6 ((r.head.toNat + k) % r.count.toNat), filled := r.filled - BitVec.ofNat 7 k }
/-- k slots produced (R125): the ARRIVED bits of the slots passed are cleared. -/
def produce (r : RingEntry) (k : Nat) : RingEntry :=
  let passed := (List.range k).foldl (fun m i => m ||| BitVec.ofNat 64 (2 ^ ((r.tail.toNat + i) % r.count.toNat))) (0 : BitVec 64)
  tailAdvance { r with
    arrived := r.arrived &&& ~~~passed, tail := BitVec.ofNat 6 ((r.tail.toNat + k) % r.count.toNat),
    filled := r.filled + BitVec.ofNat 7 k } 64

/-- RADVC (R125, R251). -/
def execRadvc (h : Hdr) (a : Ring) (s : State) : Host.Outcome State Fault Refusal :=
  .next (scalar s h fun s => do
    let r := ringOf s a
    ringValid r { a with o := 0 } 1
    waitFor (decide (ringK a ≤ r.filled.toNat)) .ring
    .ok (advance (onCore s fun c => setRing c a.ring (consume r (ringK a)))))
/-- RADVP (R125, R251). -/
def execRadvp (h : Hdr) (a : Ring) (s : State) : Host.Outcome State Fault Refusal :=
  .next (scalar s h fun s => do
    let r := ringOf s a
    ringValid r { a with o := 0 } 1
    waitFor (decide (r.filled.toNat + ringK a ≤ r.count.toNat)) .ring
    .ok (advance (onCore s fun c => setRing c a.ring (produce r (ringK a)))))
/-- RSTAT's result word (R251): zero for a ring with VALID = 0. -/
def ringWord (r : RingEntry) : Word :=
  if r.valid then (0 : BitVec 24) ++ 1#1 ++ r.count ++ (0 : BitVec 10) ++ r.tail ++ (0 : BitVec 2) ++ r.head ++ (0 : BitVec 1) ++ r.filled
  else 0
/-- RSTAT (R251). -/
def execRstat (h : Hdr) (d : WG) (a : Ring) (s : State) : Host.Outcome State Fault Refusal :=
  .next (scalar s h fun s => .ok (advance (writeWG s d (ringWord (ringOf s a)))))

end Sys2Proof.Machine
end

