-- ==== Sys2Proof/Machine/Copy.lean ====
section
/-!
DEFINITION. Sys2Proof/Machine/Copy.lean: class 0xB, the copy engine (spec/12 R263 to R267; R79, R125, R152, R153, R300). An instruction
issues a copy; the checks made when it starts, and its beats, stand beside it, for the events of EvEngine.lean.
-/
namespace Sys2Proof.Machine

/-! ### Issuing (R245, R263, R266) -/

/-- The destination of a copy as issued, with its D word (R245): a ring handle is checked and waited for first (R125). -/
def copyDest (s : State) (d : WGQ) : Eff (CopyDest × Word) :=
  match d with
  | .reg r => .ok (.addr (readWG s r), readWG s r)
  | .ring q => do
    let r := ringOf s q
    ringValid r q 1
    ringWait r q true
    .ok (.ring q.ring.val r.base.toNat (64 * r.ssize.toNat) r.count.toNat ((r.tail.toNat + q.o.toNat) % r.count.toNat) (ringK q),
      (opPay (encRing q)).zeroExtend 64)
/-- A copy command issued: a full queue stalls the scalar core (R124). -/
def issueCopy (h : Hdr) (kind : CopyKind) (sc : Scope) (d : WGQ) (src shape ctl : State → Word) (s : State) :
    Host.Outcome State Fault Refusal :=
  .next (if !inCoal s && guardBit s h && decide (2 ≤ s.core.cq.length) then stallOn s .copy
    else scalar s h fun s => do
      let (dest, dw) ← copyDest s d
      let rcd := recordOf s dw (src s) (shape s) (ctl s)
      issueCmd s fun c => { c with cq := c.cq ++ [⟨kind, sc, src s, shape s, ctl s, dest, rcd, [], [], [], false⟩] })

/-- CPY (R263, R264). -/
def execCpy (h : Hdr) (sc : Scope) (d : WGQ) (a : WG) (b : WG) (s : State) : Host.Outcome State Fault Refusal :=
  issueCopy h .cpy sc d (fun s => readWG s a) noWord (fun s => readWG s b) s
/-- CPY2 (R263, R264). -/
def execCpy2 (h : Hdr) (sc : Scope) (d : WGQ) (a : WG) (b : WG) (s : State) : Host.Outcome State Fault Refusal :=
  issueCopy h .cpy2 sc d (fun s => readWG s a) (fun s => readWG s (nextReg a)) (fun s => readWG s b) s
/-- CPYG (R263, R264). -/
def execCpyg (h : Hdr) (sc : Scope) (d : WGQ) (a : WG) (b : WG) (s : State) : Host.Outcome State Fault Refusal :=
  issueCopy h .cpyg sc d (fun s => readWG s a) (fun s => readWG s (nextReg a)) (fun s => readWG s b) s
/-- CPYZ (R263, R264). -/
def execCpyz (h : Hdr) (sc : Scope) (d : WGQ) (b : WG) (s : State) : Host.Outcome State Fault Refusal :=
  issueCopy h .cpyz sc d noWord noWord (fun s => readWG s b) s
/-- CPYB (R263, R264). -/
def execCpyb (h : Hdr) (sc : Scope) (d : WG) (a : WG) (b : WG) (s : State) : Host.Outcome State Fault Refusal :=
  issueCopy h .cpyb sc (.reg d) (fun s => readWG s a) (fun s => readWG s (nextReg a)) (fun s => readWG s b) s

/-! ### CWAIT, CSTAT, CCANCEL (R267) -/

/-- The tag an instruction names: bits [6:0]. -/
def tagOf (x : Word) : Nat := x.toNat % 128
/-- The copies with a tag, queued or in flight. -/
def withTag (c : Core) (tag : Nat) : List Copy := (c.cq ++ c.flight).filter fun x => cpTag x == tag
/-- CWAIT (R267). -/
def execCwait (h : Hdr) (b : WGI) (s : State) : Host.Outcome State Fault Refusal :=
  .next (scalar s h fun s => do
    waitFor (withTag s.core (tagOf (readWGI s b))).isEmpty .copy
    .ok (advance (acquire s s.core.id .core)))
/-- CSTAT (R267). -/
def execCstat (h : Hdr) (d : WG) (b : WGI) (s : State) : Host.Outcome State Fault Refusal :=
  .next (scalar s h fun s =>
    .ok (advance (writeWG s d (BitVec.ofNat 64 (s.core.flight.length * 256 + (withTag s.core (tagOf (readWGI s b))).length)))))
/-- The copies that `p` picks stopped: queued ones never start, those in flight end with their 4 KiB chunk (R267). -/
def stopCopies (s : State) (k : Nat) (p : Copy → Bool) : State :=
  let c := getCore s k
  let s1 := modCore s k fun c => { c with
    cq := c.cq.filter fun x => !(p x)
    flight := c.flight.map fun x => if p x then { x with cancelled := true } else x }
  (c.cq.filter p).foldl (fun acc x => copyGone acc k x) s1
/-- CCANCEL (R244, R267): it goes to the copy queue, whose being full stalls the scalar core; it stops queued copies too, so it acts ahead of
them (log 40). A copy that is already stopping is not stopped again. -/
def execCcancel (h : Hdr) (d : WG) (b : WGI) (s : State) : Host.Outcome State Fault Refusal :=
  .next (if !inCoal s && guardBit s h && decide (2 ≤ s.core.cq.length) then stallOn s .copy
    else scalar s h fun s =>
    let p := fun (x : Copy) => cpTag x == tagOf (readWGI s b) && !x.cancelled
    let n := ((s.core.cq ++ s.core.flight).filter p).length
    .ok (advance (writeWG (stopCopies s s.core.id p) d (BitVec.ofNat 64 n))))

end Sys2Proof.Machine
end

