-- ==== Sys2Proof/Machine/Power.lean ====
section
/-!
DEFINITION. Sys2Proof/Machine/Power.lean: what instructions and events share about clusters and power: rails and partitions (R146, R311),
the steps of R12 to R14, R285, R359 to R361 and R400, wakes and KINDLE's choice (R352, R354, R355).
-/
namespace Sys2Proof.Machine

/-! ### Rails and placement -/

/-- The tenant partition of a context (R63). -/
def partitionOf (ctx : CtxId) : Nat := ctx.toNat / 256
/-- Whether a cluster's rail allows a tenant partition (R146); rail E allows all. -/
def railAllows (s : State) (c part : Nat) : Bool :=
  match (getCluster s c).rail with
  | .a => s.hub.railParts[0].getLsbD part
  | .b => s.hub.railParts[1].getLsbD part
  | .c => s.hub.railParts[2].getLsbD part
  | .d => s.hub.railParts[3].getLsbD part
  | .e => true
/-- The cores of a cluster. -/
def coresOf (c : Nat) : List Nat := (List.range 8).map fun r => 8 * c + r
/-- Whether some core of a cluster is reserved (R313). -/
def anyReserved (s : State) (c : Nat) : Bool := (coresOf c).any fun k => (getCore s k).reserved.isSome
/-- Whether some core of a cluster is reserved for a launch other than the one that asks for a wake (R311, R354). -/
def otherReserved (s : State) (req : WakeReq) (c : Nat) : Bool :=
  (coresOf c).any fun k => (getCore s k).reserved.any fun r => !(r.ctx == req.ctx && some r.lid == req.lid)
/-- Whether a core has an engine command queued, running or in flight. -/
def enginesBusy (c : Core) : Bool :=
  !c.vq.isEmpty || !c.mq.isEmpty || c.mrun.isSome || !c.cq.isEmpty || !c.flight.isEmpty || !c.kq.isEmpty || c.sweep.isSome
/-- Whether a core has no task, no run-queue entry and no busy engine (R350). -/
def coreQuiet (c : Core) : Bool :=
  c.task.isNone && c.svcq.isEmpty && c.runq.isEmpty && c.deque.isEmpty && c.bank == .user && !(enginesBusy c)
/-- Whether a cluster's clock runs. -/
def clockRuns (x : Cluster) : Bool := x.pstate == .run && !x.gated

/-! ### Frequency steps -/

/-- The boost step of a bin in units of 25 MHz (R14). -/
def boostStep (f : Fuses) : Nat := if f.bin = 0 then 72 else if f.bin = 1 then 66 else 60
/-- Rail E's setpoint in mV at an ember step (R400). -/
def emberMv (f : Nat) : Nat := 420 + ((f - 2) * 90 + 5) / 11
/-- The lowest step of a cluster (R14, R359). -/
def floorStep (c : Nat) : Nat := if c = 128 then 2 else 16
/-- Whether a cluster's request is a boost step (R285). -/
def wantsBoost (s : State) (c : Nat) : Bool := c != 128 && decide ((nominalStep s.fuses).toNat < (getCluster s c).request.toNat)
/-- Whether a cluster takes one of the 32 places of boost: it is granted to it, or its generators have not left a boost step yet (R285). -/
def holdsBoost (s : State) (c : Nat) : Bool :=
  let x := getCluster s c
  let n := (nominalStep s.fuses).toNat
  c != 128 && ((wantsBoost s c && !(s.hub.boostWait.contains c)) || decide (n < x.fstep.toNat) || (x.locking && decide (n < x.lockStep.toNat)))
/-- The clusters other than c that take a place of boost. -/
def boostingBut (s : State) (c : Nat) : Nat := ((List.range 128).filter fun d => d != c && holdsBoost s d).length
/-- The step granted under R285: a cluster that waits for boost runs at its bin's nominal step. -/
def grantedStep (s : State) (c : Nat) : Nat :=
  if s.hub.boostWait.contains c then (nominalStep s.fuses).toNat else (getCluster s c).request.toNat
/-- The step a cluster is to run at: the granted step under the limiter, the heat and the package ceiling, not below the floor. -/
def targetStep (s : State) (c : Nat) : Nat :=
  let x := getCluster s c
  max (floorStep c) (min (min (grantedStep s c) x.limiter.toNat) (min x.thermal.toNat s.hub.ceiling.toNat))
/-- A lock of the idle generator begun, or begun again, when the target is not the step in force (R361); on the ember cluster a higher
step raises the voltage first (R285). -/
def retarget (s : State) (c : Nat) : State :=
  let t := targetStep s c
  let x := getCluster s c
  if (if x.locking then x.lockStep.toNat else x.fstep.toNat) = t then s
  else
    let v := if c = 128 ∧ x.fstep.toNat < t then BitVec.ofNat 10 (max x.vcode.toNat (emberMv t)) else x.vcode
    setCluster s c { x with locking := true, lockStep := BitVec.ofNat 8 t, vcode := v }
/-- Every enabled cluster retargeted (after a change of the ceiling). -/
def retargetAll (s : State) : State := ((List.range 129).filter (enabled s)).foldl retarget s
/-- Boost granted to waiting clusters while fewer than 32 have it (R285). -/
def grantBoost (s : State) : Nat → State
  | 0 => s
  | n + 1 =>
    match s.hub.boostWait with
    | [] => s
    | c :: r =>
      if boostingBut s c < 32 then grantBoost (retarget { s with hub := { s.hub with boostWait := r } } c) n else s
/-- PWRREQ's request recorded and acted on (R285). -/
def requestStep (s : State) (c : Nat) (step : BitVec 8) : State :=
  let was := wantsBoost s c && !(s.hub.boostWait.contains c)
  let s1 := modCluster s c fun x => { x with request := step }
  let want := wantsBoost s1 c
  let wait :=
    if !want then s.hub.boostWait.filter fun x => x != c
    else if was || s.hub.boostWait.contains c then s.hub.boostWait
    else if s.hub.boostWait.isEmpty && decide (boostingBut s c < 32) then s.hub.boostWait
    else s.hub.boostWait ++ [c]
  let s2 := retarget { s1 with hub := { s1.hub with boostWait := wait } } c
  grantBoost s2 s2.hub.boostWait.length

/-! ### Wakes (R352 to R355) -/

/-- How deep a cluster sleeps, as the wake classes count. -/
def depthOf : PState → Nat
  | .run => 0 | .idle => 1 | .smoored => 2 | .cold => 3
/-- How deep a class wakes. -/
def classDepth : WakeClass → Nat
  | .idle => 1 | .smoored => 2 | .cold => 3
/-- A cluster told to wake; one in transition finishes it first (R352). -/
def startWake (x : Cluster) (req : Option WakeReq) : Cluster :=
  { x with waking := req, moving := true, target := if x.moving then x.target else some .run }
/-- A cluster that sleeps, or is falling asleep, woken because one of its cores has got work, and one that stands idle with its clock gated in
RUN at once (R350; log 31). -/
def rouse (s : State) (c : Nat) : State :=
  let x := getCluster s c
  if x.pstate = .idle ∧ x.moving = false then setCluster s c { x with pstate := .run }
  else if (x.pstate = .smoored ∨ x.pstate = .cold ∨ x.moving = true) ∧ ¬ (x.waking.isSome = true ∨ (x.moving = true ∧ x.target = some .run)) then
    setCluster s c (startWake x none)
  else s
/-- Whether a KINDLE may choose a cluster (R354). -/
def wakeCandidate (s : State) (req : WakeReq) (c : Nat) : Bool :=
  let x := getCluster s c
  enabled s c && !x.pend && railAllows s c (partitionOf req.ctx) && !(otherReserved s req c) && !x.khold && x.waking.isNone
    && decide (1 ≤ depthOf x.pstate) && decide (depthOf x.pstate ≤ classDepth req.cls)
/-- The clusters a KINDLE may choose, shallowest first, then lowest number. -/
def wakeOrder (s : State) (req : WakeReq) : List Nat :=
  let l := (List.range 128).filter (wakeCandidate s req)
  [1, 2, 3].flatMap fun d => l.filter fun c => depthOf (getCluster s c).pstate == d
/-- The code of a class in KCLASS (R350). -/
def kclassCode : WakeClass → BitVec 2
  | .idle => 1 | .smoored => 2 | .cold => 3
/-- A cluster chosen by a KINDLE: held for its context, and woken. -/
def chooseCluster (req : WakeReq) (s : State) (c : Nat) : State :=
  modCluster s c fun x => startWake { x with khold := true, kclass := kclassCode req.cls, kctx := some req.ctx } (some req)
/-- What one KINDLE can choose now, chosen; how many it still wants. -/
def serveKindle (s : State) (k : Kindle) : State × Kindle :=
  let l := (wakeOrder s k.req).take k.left
  (l.foldl (chooseCluster k.req) s, { k with left := k.left - l.length })
/-- Several KINDLEs served in the order in which they retired (R355). -/
def serveAll (s : State) : List Kindle → State × List Kindle
  | [] => (s, [])
  | k :: r =>
    let (s1, k1) := serveKindle s k
    let (s2, l) := serveAll s1 r
    (s2, if k1.left = 0 then l else k1 :: l)
/-- The waiting KINDLEs served. -/
def serveKindles (s : State) : State :=
  let (s1, l) := serveAll s s.hub.kindles
  { s1 with hub := { s1.hub with kindles := l } }
/-- A KINDLE, or an accepted host wake write (R354, R362): every LPDDR-6 channel wakes with it (R353). -/
def askWake (s : State) (req : WakeReq) (n : Nat) : State :=
  serveKindles { s with hub := { s.hub with kindles := s.hub.kindles ++ [⟨req, n⟩], awake := List.range 96 } }
/-- Whether a context holds the wake grant (R354). -/
def wakeGranted (s : State) (ctx : CtxId) : Bool :=
  match getCtx s ctx with
  | some c => c.wakeGrant
  | none => false

end Sys2Proof.Machine
end

