-- ==== Sys2Proof/Machine/ScalarFp.lean ====
section
/-!
DEFINITION. Sys2Proof/Machine/ScalarFp.lean: class 0x4, scalar FP32 (spec/10 R202 to R205).
-/
namespace Sys2Proof.Machine

/-- The F32 pattern of a register (R182). -/
def f32At (s : State) (r : WG) : Nat := f32Of (readWG s r)
/-- A two-operand F32 instruction on patterns. -/
def fpOp (h : Hdr) (d a b : WG) (f : Nat → Nat → Nat) (s : State) : Host.Outcome State Fault Refusal :=
  scalarOp h d (fun s => f32Word (f (f32At s a) (f32At s b))) s
/-- A one-operand F32 instruction on patterns. -/
def fpOp1 (h : Hdr) (d a : WG) (f : Nat → Nat) (s : State) : Host.Outcome State Fault Refusal :=
  scalarOp h d (fun s => f32Word (f (f32At s a))) s

/-- a / b, √a, 1 / a, 1 / √a, 2^a and log2 a rounded to F32 (R202, R205, R235). -/
def divBits (a b : Nat) : Nat := fround .f32 false (fdiv (fdecode .f32 a) (fdecode .f32 b))
def sqrtBits (a : Nat) : Nat := fround .f32 false (fsqrt (fdecode .f32 a))
def rcpBits (a : Nat) : Nat := fround .f32 false (fdiv (.fin false 1 0) (fdecode .f32 a))
def rsqBits (a : Nat) : Nat := fround .f32 false (frsqrt (fdecode .f32 a))
def exp2Bits (a : Nat) : Nat := fround .f32 false (fexp2 (fdecode .f32 a))
def log2Bits (a : Nat) : Nat := fround .f32 false (flog2 (fdecode .f32 a))

/-- FADD (R202). -/
def execFadd (h : Hdr) (d : WG) (a : WG) (b : WG) (s : State) : Host.Outcome State Fault Refusal :=
  fpOp h d a b (addBits .f32) s

/-- FSUB (R202). -/
def execFsub (h : Hdr) (d : WG) (a : WG) (b : WG) (s : State) : Host.Outcome State Fault Refusal :=
  fpOp h d a b (subBits .f32) s

/-- FMUL (R202). -/
def execFmul (h : Hdr) (d : WG) (a : WG) (b : WG) (s : State) : Host.Outcome State Fault Refusal :=
  fpOp h d a b (mulBits .f32) s

/-- FFMA (R202): one rounding. -/
def execFfma (h : Hdr) (d : WG) (a : WG) (b : WG) (s : State) : Host.Outcome State Fault Refusal :=
  scalarOp h d (fun s => f32Word (fmaBits .f32 (f32At s a) (f32At s b) (f32At s d))) s

/-- FDIV (R202). -/
def execFdiv (h : Hdr) (d : WG) (a : WG) (b : WG) (s : State) : Host.Outcome State Fault Refusal :=
  fpOp h d a b divBits s

/-- FSQRT (R202). -/
def execFsqrt (h : Hdr) (d : WG) (a : WG) (s : State) : Host.Outcome State Fault Refusal :=
  fpOp1 h d a sqrtBits s

/-- FMIN (R203). -/
def execFmin (h : Hdr) (d : WG) (a : WG) (b : WG) (s : State) : Host.Outcome State Fault Refusal :=
  fpOp h d a b (fminBits .f32) s

/-- FMAX (R203). -/
def execFmax (h : Hdr) (d : WG) (a : WG) (b : WG) (s : State) : Host.Outcome State Fault Refusal :=
  fpOp h d a b (fmaxBits .f32) s

/-- FABS (R203). -/
def execFabs (h : Hdr) (d : WG) (a : WG) (s : State) : Host.Outcome State Fault Refusal :=
  fpOp1 h d a (fabsBits .f32) s

/-- FNEG (R203). -/
def execFneg (h : Hdr) (d : WG) (a : WG) (s : State) : Host.Outcome State Fault Refusal :=
  fpOp1 h d a (fnegBits .f32) s

/-- FCVTIF (R202). -/
def execFcvtif (h : Hdr) (t : Ty) (d : WG) (a : WG) (s : State) : Host.Outcome State Fault Refusal :=
  scalarOp h d (fun s => f32Word (fround .f32 false (fofInt (opInt t (readWG s a))))) s

/-- FCVTFI (R204): to nearest, ties to even. -/
def execFcvtfi (h : Hdr) (t : Ty) (d : WG) (a : WG) (s : State) : Host.Outcome State Fault Refusal :=
  scalarOp h d (fun s => extend t (ftoInt false (tyMin t) (tyMax t) (fdecode .f32 (f32At s a)))) s

/-- FCVTFIZ (R204): truncated towards zero. -/
def execFcvtfiz (h : Hdr) (t : Ty) (d : WG) (a : WG) (s : State) : Host.Outcome State Fault Refusal :=
  scalarOp h d (fun s => extend t (ftoInt true (tyMin t) (tyMax t) (fdecode .f32 (f32At s a)))) s

/-- FRCP (R205). -/
def execFrcp (h : Hdr) (d : WG) (a : WG) (s : State) : Host.Outcome State Fault Refusal :=
  fpOp1 h d a rcpBits s

/-- FEXP2 (R205). -/
def execFexp2 (h : Hdr) (d : WG) (a : WG) (s : State) : Host.Outcome State Fault Refusal :=
  fpOp1 h d a exp2Bits s

/-- FLOG2 (R205). -/
def execFlog2 (h : Hdr) (d : WG) (a : WG) (s : State) : Host.Outcome State Fault Refusal :=
  fpOp1 h d a log2Bits s

end Sys2Proof.Machine
end

