-- ==== Sys2Proof/Machine/VectorFp.lean ====
section
/-!
DEFINITION. Sys2Proof/Machine/VectorFp.lean: class 0x8, vector floating point, conversion and the long accumulator (spec/11 R233 to
R242; R113, R114).
-/
namespace Sys2Proof.Machine

/-- A two-operand floating-point vector instruction on patterns (R233, R234). -/
def vecFp (i : Instr) (h : Hdr) (t : Ty) (d a : V) (b : VWG) (f : Nat → Nat → Nat) (s : State) : Host.Outcome State Fault Refusal :=
  vecOp i h (vHigh a || vwgBad b) (Ty.width t) d
    (fun s L => f (lane (Ty.width t) L (readV s a)) (laneBF s (Ty.width t) b L)) s
/-- A one-operand floating-point vector instruction on patterns. -/
def vecFp1 (i : Instr) (h : Hdr) (w : Nat) (d a : V) (f : Nat → Nat) (s : State) : Host.Outcome State Fault Refusal :=
  vecOp i h (vHigh a) w d (fun s L => f (lane w L (readV s a))) s
/-- A narrowing conversion (R237): source lanes of ws bits, result lanes of wr bits, in part p. -/
def vecNarrow (i : Instr) (h : Hdr) (ws wr : Nat) (p : BitVec 6) (d a : V) (f : Nat → Nat) (s : State) : Host.Outcome State Fault Refusal :=
  let m := 512 / ws
  vecPart i h (vHigh a) wr d (fun L => L / m == p.toNat) (fun s L => f (lane ws (L - p.toNat * m) (readV s a))) s
/-- The F32 patterns of the active lanes of A, ascending (R236). -/
def activeF32 (s : State) (h : Hdr) (a : V) : List Nat :=
  ((List.range 16).filter (active s h)).map fun L => lane 32 L (readV s a)
/-- A reduction from the first element on. -/
def reduce (f : Nat → Nat → Nat) (none_ : Nat) : List Nat → Nat
  | [] => none_
  | x :: r => r.foldl f x

/-- One step of the stochastic-rounding generator (R113). -/
def genStep (S : Word) : Word := S * BitVec.ofNat 64 0x9E6C63D0676A9A99 + 0x0F4B
/-- The generator after n steps. -/
def genSteps : Nat → Word → Word
  | 0, S => S
  | n + 1, S => genSteps n (genStep S)
/-- How many of the lanes before L of a part are active: lane L of the part draws the step after them (R113, R238). -/
def stepsBefore (act : Nat → Bool) (lo L : Nat) : Nat := ((List.range (L - lo)).filter fun i => act (lo + i)).length

/-- A long-accumulator instruction (R215, R217, R241): bit 0 of the guard decides, a coal handler may not run it, and it passes through
the vector queue. It counts as one operation (R314; log 26). -/
def longOp (i : Instr) (s : State) (h : Hdr) (k : State → Eff State) : State :=
  if inCoal s then illegal s
  else if guardBit s h then issueVec s i ((k s).map fun t => countOps t 1)
  else advance s
/-- Where a long accumulator lies in the own local memory (R88, R241): an address that is not the core's own comes before the checks of R72. -/
def longAt (s : State) (a : Word) : Eff Nat :=
  if !(namesOwn s.core.id a true) then .error (.fault .lmAddr a)
  else
    match checkWindow a 80 16 with
    | .error e => .error e
    | .ok _ =>
      match ownLocal s.core.id a 80 true with
      | none => .error (.fault .lmAddr a)
      | some off => .ok off
/-- The number of a long accumulator. -/
def longRead (s : State) (off : Nat) : Nat := memRead s.mem (localKey s.core.id off) 80
/-- A long accumulator written. -/
def longWrite (s : State) (off n : Nat) : State := { s with mem := memWrite s.mem (localKey s.core.id off) 80 n }

/-- VFADD (R233, R234). -/
def execVfadd (h : Hdr) (t : Ty) (d : V) (a : V) (b : VWG) (s : State) : Host.Outcome State Fault Refusal :=
  vecFp (.vfadd h t d a b) h t d a b (addBits (fmtOf t)) s

/-- VFSUB (R233, R234). -/
def execVfsub (h : Hdr) (t : Ty) (d : V) (a : V) (b : VWG) (s : State) : Host.Outcome State Fault Refusal :=
  vecFp (.vfsub h t d a b) h t d a b (subBits (fmtOf t)) s

/-- VFMUL (R233, R234). -/
def execVfmul (h : Hdr) (t : Ty) (d : V) (a : V) (b : VWG) (s : State) : Host.Outcome State Fault Refusal :=
  vecFp (.vfmul h t d a b) h t d a b (mulBits (fmtOf t)) s

/-- VFFMA (R233, R234): one rounding. -/
def execVffma (h : Hdr) (t : Ty) (d : V) (a : V) (b : VWG) (s : State) : Host.Outcome State Fault Refusal :=
  vecOpN (.vffma h t d a b) 2 h (vHigh a || vwgBad b) (Ty.width t) d (fun s L =>
    fmaBits (fmtOf t) (lane (Ty.width t) L (readV s a)) (laneBF s (Ty.width t) b L) (lane (Ty.width t) L (readV s d))) s

/-- VFMIN (R234). -/
def execVfmin (h : Hdr) (t : Ty) (d : V) (a : V) (b : VWG) (s : State) : Host.Outcome State Fault Refusal :=
  vecFp (.vfmin h t d a b) h t d a b (fminBits (fmtOf t)) s

/-- VFMAX (R234). -/
def execVfmax (h : Hdr) (t : Ty) (d : V) (a : V) (b : VWG) (s : State) : Host.Outcome State Fault Refusal :=
  vecFp (.vfmax h t d a b) h t d a b (fmaxBits (fmtOf t)) s

/-- VFABS (R234). -/
def execVfabs (h : Hdr) (t : Ty) (d : V) (a : V) (s : State) : Host.Outcome State Fault Refusal :=
  vecFp1 (.vfabs h t d a) h (Ty.width t) d a (fabsBits (fmtOf t)) s

/-- VFNEG (R234). -/
def execVfneg (h : Hdr) (t : Ty) (d : V) (a : V) (s : State) : Host.Outcome State Fault Refusal :=
  vecFp1 (.vfneg h t d a) h (Ty.width t) d a (fnegBits (fmtOf t)) s

/-- VFRCP (R235). -/
def execVfrcp (h : Hdr) (d : V) (a : V) (s : State) : Host.Outcome State Fault Refusal :=
  vecFp1 (.vfrcp h d a) h 32 d a rcpBits s

/-- VFRSQ (R235). -/
def execVfrsq (h : Hdr) (d : V) (a : V) (s : State) : Host.Outcome State Fault Refusal :=
  vecFp1 (.vfrsq h d a) h 32 d a rsqBits s

/-- VFEXP2 (R235). -/
def execVfexp2 (h : Hdr) (d : V) (a : V) (s : State) : Host.Outcome State Fault Refusal :=
  vecFp1 (.vfexp2 h d a) h 32 d a exp2Bits s

/-- VFLOG2 (R235). -/
def execVflog2 (h : Hdr) (d : V) (a : V) (s : State) : Host.Outcome State Fault Refusal :=
  vecFp1 (.vflog2 h d a) h 32 d a log2Bits s

/-- VFCMP (R233, R171). -/
def execVfcmp (h : Hdr) (t : Ty) (c : FCond) (d : P) (a : V) (b : VWG) (s : State) : Host.Outcome State Fault Refusal :=
  .next (vector (.vfcmp h t c d a b) s h (pHigh d || vHigh a || vwgBad b) (laneCount s h (512 / Ty.width t) fun _ => true) fun s =>
    let w := Ty.width t
    let f := fmtOf t
    let res := fun L => fcondHolds c (fdecode f (lane w L (readV s a))) (fdecode f (laneBF s w b L))
    .ok (advance (writeP s d (predOf (512 / w) (active s h) res (readP s d)))))

/-- VFRADD (R236). -/
def execVfradd (h : Hdr) (d : WG) (a : V) (s : State) : Host.Outcome State Fault Refusal :=
  vecScalar (.vfradd h d a) h 32 d (fun s => f32Word (reduce (addBits .f32) 0 (activeF32 s h a))) s

/-- VFRMAX (R236). -/
def execVfrmax (h : Hdr) (d : WG) (a : V) (s : State) : Host.Outcome State Fault Refusal :=
  vecScalar (.vfrmax h d a) h 32 d (fun s => f32Word (reduce (fmaxBits .f32) 0xFF800000 (activeF32 s h a))) s

/-- VCVTFI (R237, R204). -/
def execVcvtfi (h : Hdr) (t : Ty) (d : V) (a : V) (s : State) : Host.Outcome State Fault Refusal :=
  vecFp1 (.vcvtfi h t d a) h 32 d a (fun x => wrap 32 (ftoInt false (tyMin t) (tyMax t) (fdecode .f32 x))) s

/-- VCVTIF (R237). -/
def execVcvtif (h : Hdr) (t : Ty) (d : V) (a : V) (s : State) : Host.Outcome State Fault Refusal :=
  vecFp1 (.vcvtif h t d a) h 32 d a (fun x => fround .f32 false (fofInt (intAt t x))) s

/-- VCVTFB (R237). -/
def execVcvtfb (h : Hdr) (p : BitVec 6) (d : V) (a : V) (s : State) : Host.Outcome State Fault Refusal :=
  vecNarrow (.vcvtfb h p d a) h 32 16 p d a (convert .f32 .b16 false) s

/-- VCVTFBS (R238, R114): one generator step for each active result lane, ascending. -/
def execVcvtfbs (h : Hdr) (p : BitVec 6) (d : V) (a : V) (s : State) : Host.Outcome State Fault Refusal :=
  .next (vector (.vcvtfbs h p d a) s h (vHigh d || vHigh a) (laneCount s h 32 fun L => L / 16 == p.toNat) fun s =>
    let lo := p.toNat * 16
    let act := active s h
    let S := s.core.genS
    let rnd := fun L => ((genSteps (stepsBefore act lo L + 1) S).extractLsb' 48 16).toNat
    let s1 := writeV s d (mergeIf 16 (fun L => L / 16 == p.toNat && act L) (readV s d)
      fun L => stochB16 (lane 32 (L - lo) (readV s a)) (rnd L))
    .ok (advance (onCore s1 fun c => { c with genS := genSteps (stepsBefore act lo (lo + 16)) S })))

/-- VCVTFH (R237). -/
def execVcvtfh (h : Hdr) (p : BitVec 6) (d : V) (a : V) (s : State) : Host.Outcome State Fault Refusal :=
  vecNarrow (.vcvtfh h p d a) h 32 16 p d a (convert .f32 .h16 false) s

/-- VCVTE4S (R237). -/
def execVcvte4s (h : Hdr) (t : Ty) (p : BitVec 6) (d : V) (a : V) (s : State) : Host.Outcome State Fault Refusal :=
  vecNarrow (.vcvte4s h t p d a) h (Ty.width t) 8 p d a (convert (fmtOf t) .e4 true) s

/-- VCVTE4O (R237). -/
def execVcvte4o (h : Hdr) (t : Ty) (p : BitVec 6) (d : V) (a : V) (s : State) : Host.Outcome State Fault Refusal :=
  vecNarrow (.vcvte4o h t p d a) h (Ty.width t) 8 p d a (convert (fmtOf t) .e4 false) s

/-- VCVTE5S (R237). -/
def execVcvte5s (h : Hdr) (t : Ty) (p : BitVec 6) (d : V) (a : V) (s : State) : Host.Outcome State Fault Refusal :=
  vecNarrow (.vcvte5s h t p d a) h (Ty.width t) 8 p d a (convert (fmtOf t) .e5 true) s

/-- VCVTE5O (R237). -/
def execVcvte5o (h : Hdr) (t : Ty) (p : BitVec 6) (d : V) (a : V) (s : State) : Host.Outcome State Fault Refusal :=
  vecNarrow (.vcvte5o h t p d a) h (Ty.width t) 8 p d a (convert (fmtOf t) .e5 false) s

/-- VCVTF4S (R237). -/
def execVcvtf4s (h : Hdr) (t : Ty) (p : BitVec 6) (d : V) (a : V) (s : State) : Host.Outcome State Fault Refusal :=
  vecNarrow (.vcvtf4s h t p d a) h (Ty.width t) 8 p d a (convert (fmtOf t) .f4 true) s

/-- VWIDF (R237): exact. -/
def execVwidf (h : Hdr) (t : Ty) (p : BitVec 6) (d : V) (a : V) (s : State) : Host.Outcome State Fault Refusal :=
  let w := Ty.width t
  vecOp (.vwidf h t p d a) h (vHigh a) 32 d (fun s L => convert (fmtOf t) .f32 false (lane w (p.toNat * 16 + L) (readV s a))) s

/-- VDECQ (R239): the block is checked when some lane is active; a fault's address is 0. -/
def execVdecq (h : Hdr) (t : Ty) (p : BitVec 6) (d : V) (a : V) (b : WG) (s : State) : Host.Outcome State Fault Refusal :=
  .next (vector (.vdecq h t p d a b) s h (vHigh d || vHigh a || isWReg b) (laneCount s h 16 fun _ => true) fun s =>
    let x := (readV s a).toNat
    let bad := if (List.range 16).any (active s h) then blkCheck t x else none
    match bad with
    | some c => .error (.fault c 0)
    | none =>
      .ok (advance (writeV s d (mergeLanes 32 (guardMask s h) (readV s d)
        fun L => blkDecode t x (16 * p.toNat + L) (f32At s b)))))

/-- VENCQ (R240, R109). -/
def execVencq (h : Hdr) (p : BitVec 6) (d : V) (a : V) (b : WG) (s : State) : Host.Outcome State Fault Refusal :=
  vecPart (.vencq h p d a b) h (vHigh a || isWReg b) 8 d (fun L => L / 16 == p.toNat)
    (fun s L => blkEncode (fdecode .f32 (lane 32 (L - 16 * p.toNat) (readV s a))) (fdecode .f32 (f32At s b))) s

/-- LWADD (R241, R118): in program order with the task's stores, which are performed first. -/
def execLwadd (h : Hdr) (t : Ty) (d : WG) (a : WG) (b : WG) (s : State) : Host.Outcome State Fault Refusal :=
  .next (longOp (.lwadd h t d a b) s h fun s => do
    let off ← longAt s (readWG s d)
    let s1 := drainAll s s.core.id
    let w := Ty.width t
    .ok (advance (longWrite s1 off
      (longAdd t (longRead s1 off) ((readWG s a).toNat % 2 ^ w) ((readWG s b).toNat % 2 ^ w)))))
/-- LRND (R242, R119). -/
def execLrnd (h : Hdr) (d : WG) (a : WG) (s : State) : Host.Outcome State Fault Refusal :=
  .next (longOp (.lrnd h d a) s h fun s => do
    let off ← longAt s (readWG s a)
    let s1 := drainAll s s.core.id
    .ok (advance (writeWG s1 d (f32Word (longRound (longRead s1 off))))))
/-- LCLR (R242). -/
def execLclr (h : Hdr) (a : WG) (s : State) : Host.Outcome State Fault Refusal :=
  .next (longOp (.lclr h a) s h fun s => do
    let off ← longAt s (readWG s a)
    let s1 := drainAll s s.core.id
    .ok (advance (longWrite s1 off 0)))

end Sys2Proof.Machine
end

