-- ==== Sys2Proof/Machine/Message.lean ====
section
/-!
DEFINITION. Sys2Proof/Machine/Message.lean: messages and streams of class 0x9 (spec/12 R252 to R255; spec/02 R28 to R32).
-/
namespace Sys2Proof.Machine

/-! ### Sending (R252 to R254) -/

/-- The message header word (R28). -/
def MsgHdr.word (h : MsgHdr) : Word :=
  h.msgid ++ h.len ++ (if h.rel then 1#1 else 0#1) ++ (if h.rel then Scope.code h.scope else 0#3) ++ 0#1 ++ h.src ++ h.tag
/-- TAG of a header control word (R253). -/
def ctlTag (w : Word) : BitVec 16 := w.extractLsb' 16 16
/-- DEST of a header control word. -/
def ctlDest (w : Word) : Nat := (w.extractLsb' 0 11).toNat
/-- The checks of a header control word, in the order of R253. -/
def checkControl (s : State) (w : Word) : Eff Unit := do
  need (w.extractLsb' 32 32 == 0 && w.extractLsb' 11 5 == 0) .illegalOperand (pcOf s)
  need (coreEnabled s (ctlDest w)) .illegalOperand (pcOf s)
  need ((getCore s (ctlDest w)).owner == some (curCtx s)) .pagePerm w
/-- The header and beats put into the network, with the MSG record (R28, R254, R375). -/
def inject (s : State) (w : Word) (rel : Bool) (sc : Scope) (beats : List VReg) : State :=
  let c := s.core
  let hdr : MsgHdr := ⟨c.nextMsg, BitVec.ofNat 12 beats.length, rel, if rel then sc else .core, BitVec.ofNat 11 c.id, ctlTag w⟩
  let s1 := { s with network := s.network ++ [⟨hdr, ctlDest w, curCtx s, beats, none, false⟩] }
  let s2 := onCore s1 fun c => { c with nextMsg := c.nextMsg + 1, sending := some true, blocked := some .send }
  if traces (getCluster s (clusterOf c.id)) 5 true then traceRec s2 c.id 7 [hdr.word] else s2
/-- A send (R254): the release, the header and beats; then the wait for the tail, after which the instruction is done. A header that the network
does not take at once, being full of other messages (R31; log 91), waits, and the send is tried again. A message without a route is a machine
check (R18). -/
def sendOn (s : State) (ord : Ord) (sc : Scope) (w : Word) (beats : State → List VReg) : Eff State := do
  match s.core.sending with
  | some true => .error (.wait .send)
  | some false => .ok (advance (onCore s fun c => { c with sending := none }))
  | none =>
    need (reaches s (dieOf s.core.id) (dieOf (ctlDest w))) .machineCheck w
    let s1 := if ordRel ord then release s s.core.id sc else s
    if s.network.isEmpty || !(freeChoice s.free) then .ok (inject s1 w (ordRel ord) sc (beats s1))
    else .ok (standIn { s1 with free := s1.free + 1 } .send)

/-- SEND (R254). A service task may send a message without payload; one that names a v register is illegal in it (R27). -/
def execSend (h : Hdr) (ord : Ord) (sc : Scope) (d : WG) (a : Option V) (s : State) : Host.Outcome State Fault Refusal :=
  .next (if inService s && a.isSome then illegal s
    else scalar s h fun s => do
      let w := readWG s d
      if s.core.sending.isNone then checkControl s w
      sendOn s ord sc w fun s => match a with | some n => [readV s n] | none => [])
/-- The payload of a SENDL: 64-byte beats of the core's own local memory, as core loads in slot order. -/
def localBeats (s : State) (off n : Nat) : List VReg :=
  (List.range n).map fun i => BitVec.ofNat 512 (readOwn s (off + 64 * i) 64)
/-- SENDL (R254): the header control word is checked first, then the beat count, then the payload address; with no beats there is
no byte whose address could break a rule but its alignment. -/
def execSendl (h : Hdr) (ord : Ord) (sc : Scope) (d : WG) (a : WG) (b : WGI) (s : State) : Host.Outcome State Fault Refusal :=
  .next (scalar s h fun s => do
    let w := readWG s d
    let n := (readWGI s b).toNat
    if s.core.sending.isSome then sendOn s ord sc w fun _ => []
    else
      checkControl s w
      need (decide (n ≤ 4095)) .illegalOperand (pcOf s)
      let off ← ownTarget s (readWG s a) (max 1 (64 * n)) 64 false
      sendOn s ord sc w fun s => localBeats s off n)

/-! ### Streams (R255, R32) -/

/-- Whether a header waits on a core for a run-queue entry: the next one that frees is its (R49). -/
def headerWaits (c : Core) : Bool := c.chans.toList.any fun l => l.any fun m => m.waiting

/-- Whether an entry of a channel is the running activation's message, not yet ended. -/
def isMine (t : TaskInfo) (ch : Channel) : Bool := some ch.hdr == t.msg && !ch.discard
/-- The check of a stream instruction's channel, and the running activation's message while it has one. -/
def streamOf (s : State) (n : Chan) : Eff (Option Channel) :=
  match s.core.task with
  | none => .error (.fault .illegalOperand s.core.pc)
  | some t =>
    if t.info.chan = some n ∧ s.core.bank = .user then .ok (s.core.chans[n.val].find? (isMine t.info))
    else .error (.fault .illegalOperand s.core.pc)
/-- The entry of the running activation's message changed, or taken out. -/
def onStream (s : State) (n : Chan) (f : Channel → Option Channel) : State :=
  match s.core.task with
  | none => s
  | some t =>
    onCore s fun c => { c with chans := c.chans.set n.val (c.chans[n.val].filterMap fun ch => if isMine t.info ch then f ch else some ch) }
/-- Whether every beat of a message has arrived (its tail with the last). -/
def tailIn (ch : Channel) : Bool := decide (ch.hdr.len.toNat ≤ ch.arrived)
/-- VSRED and VSMAC: every arrived beat consumed in order, until the tail has been; with no active lane nothing is consumed.
`ops` operations an active lane and beat are counted (R314). -/
def streamAll (s : State) (h : Hdr) (ops : Nat) (d : V) (n : Chan) (f : Nat → Nat → Nat → Nat) : Eff State := do
  let ch ← streamOf s n
  match ch with
  | none => .ok (advance s)
  | some m =>
    if (List.range 16).any (active s h) then
      let one := fun (old x : VReg) => mergeLanes 32 (guardMask s h) old fun L => f L (lane 32 L old) (lane 32 L x)
      let s0 := countOps s (ops * m.beats.length * popBelow 16 (guardMask s h).toNat)
      let s1 := onStream (writeV s0 d (m.beats.foldl one (readV s d))) n fun ch => some { ch with beats := [] }
      .ok (if tailIn m then advance s1 else onCore s1 fun c => { c with blocked := some .stream })
    else .ok (advance s)
/-- A stream instruction `i`: never in a service task or a coal handler; it goes through the vector queue (R124, R244), where a wait for beats
holds the vector engine. -/
def stream (i : Instr) (s : State) (k : State → Eff State) : State :=
  match s.core.bank with
  | .service => illegal s
  | .coal => illegal s
  | .user => issueVec s i (k s)

/-- One beat added to a lane (R255). -/
def beatAdd (t : Ty) (acc x : Nat) : Nat := if t = .f32 then addBits .f32 acc x else wrap 32 ((acc : Int) + x)
/-- One beat multiplied and added to a lane (R255). -/
def beatMac (t : Ty) (acc x b : Nat) : Nat :=
  if t = .f32 then fmaBits .f32 x b acc else wrap 32 ((acc : Int) + (x : Int) * b)
/-- VSRED (R255). -/
def execVsred (h : Hdr) (t : Ty) (d : V) (a : Chan) (s : State) : Host.Outcome State Fault Refusal :=
  .next (stream (.vsred h t d a) s fun s => streamAll s h 0 d a fun _ acc x => beatAdd t acc x)
/-- VSMAC (R255): b_L is the lane of B when the beat is added, so that with D = B it is the sum so far (log 25). -/
def execVsmac (h : Hdr) (t : Ty) (d : V) (a : Chan) (b : V) (s : State) : Host.Outcome State Fault Refusal :=
  .next (stream (.vsmac h t d a b) s fun s =>
    let m := readV s b
    streamAll s h 2 d a fun L acc x => beatMac t acc x (if d = b then acc else lane 32 L m))
/-- The next beat of the running activation's message into D, or zero when no beat is left (R255). -/
def nextBeat (s : State) (d : V) (a : Chan) : Eff State := do
  match ← streamOf s a with
  | none => .ok (advance (writeV s d 0))
  | some m =>
    match m.beats with
    | x :: r => .ok (advance (onStream (writeV s d x) a fun ch => some { ch with beats := r }))
    | [] => if tailIn m then .ok (advance (writeV s d 0)) else .error (.wait .stream)
/-- VSMOV (R255): with a false guard it issues no command and waits on nothing (R168). -/
def execVsmov (h : Hdr) (d : V) (a : Chan) (s : State) : Host.Outcome State Fault Refusal :=
  .next (if guardBit s h || s.core.bank != .user then stream (.vsmov h d a) s fun s => nextBeat s d a
    else settle s .vector (do
      let _ ← streamOf s a
      .ok (advance s)))
/-- CHEND (R255, R32). -/
def execChend (h : Hdr) (a : Chan) (s : State) : Host.Outcome State Fault Refusal :=
  .next (if inCoal s then illegal s
    else settle s .scalar (do
      let _ ← streamOf s a
      if guardBit s h then .ok (advance (onStream s a dropChannel)) else .ok (advance s)))

end Sys2Proof.Machine
end

