-- ==== Sys2Proof/Machine/Rake.lean ====
section
/-!
DEFINITION. Sys2Proof/Machine/Rake.lean: class 0xC, the rake (spec/12 R268 to R270; spec/02 R40 to R45; R144). What a declaration, a
sampled beat and the end of a sweep do stands beside the instructions, for the events of EvEngine.lean.
-/
namespace Sys2Proof.Machine

/-! ### Clamp tensors in local memory (R40) -/

/-- The elements of a clamp. -/
def Clamp.size (c : Clamp) : Nat := c.ecount.toNat + 1
/-- The beats of a clamp. -/
def Clamp.beats (c : Clamp) : Nat := (c.size + 7) / 8
/-- The bytes of an element. -/
def Clamp.width (c : Clamp) : Nat := 2 ^ c.esize.toNat
/-- The keys of an element's coal, its element and its skip byte on core k. -/
def coalKey (k : Nat) (c : Clamp) (i : Nat) : Nat := localKey k (c.cbase.toNat + 8 * i)
def elemKey (k : Nat) (c : Clamp) (i : Nat) : Nat := localKey k (c.ebase.toNat + c.width * i)
def skipKey (k : Nat) (c : Clamp) (i : Nat) : Nat := localKey k (c.sbase.toNat + i / 8)
/-- Declaration record n of a core. -/
def clampRec (c : Core) (n : Nat) : Clamp := c.clamps[n]?.getD Clamp.zero
/-- A clamp declared on a core. -/
def clampOf (c : Core) (n : Nat) : Option Clamp := if (clampRec c n).valid then some (clampRec c n) else none
/-- Declaration record n written. -/
def setClamp (c : Core) (n : Nat) (x : Clamp) : Core := { c with clamps := c.clamps.setIfInBounds n x }
/-- Element i's skip bit. -/
def skipBit (m : List Host.Cell) (k : Nat) (c : Clamp) (i : Nat) : Bool := (memGet m (skipKey k c i)).getLsbD (i % 8)
/-- Element i's skip bit written. -/
def setSkip (m : List Host.Cell) (k : Nat) (c : Clamp) (i : Nat) (on : Bool) : List Host.Cell :=
  let bit : Byte := BitVec.ofNat 8 (2 ^ (i % 8))
  let old := memGet m (skipKey k c i)
  memSet m (skipKey k c i) (if on then old ||| bit else old &&& ~~~bit)

/-! ### Wakes (R41, R43) -/

/-- A wake takes effect (R41): the memory after it, or none where the coal is DONE, which any STATE but WAITING and AWAKE counts as. -/
def wakeCoal (m : List Host.Cell) (k : Nat) (c : Clamp) (i : Nat) (cause : BitVec 8) : Option (List Host.Cell) :=
  let st := memGet m (coalKey k c i)
  if st = 1 ∨ st = 2 then some (setSkip (memSet (memSet m (coalKey k c i) 2) (coalKey k c i + 1) cause) k c i false) else none
/-- PENDING of a clamp set. -/
def setPending (c : Core) (n : Nat) (on : Bool) : Core := setClamp c n { clampRec c n with pending := on }
/-- A wake that takes effect at once on core k, with the pending-wake bit where `behind` (R43). -/
def wakeAtOnce (s : State) (k n : Nat) (c : Clamp) (i : Nat) (cause : BitVec 8) (behind : Bool) : State :=
  match wakeCoal s.mem k c i cause with
  | none => s
  | some m => if behind then modCore { s with mem := m } k fun x => setPending x n true else { s with mem := m }
/-- A wake of element i of clamp n on core k (R43). The element is below the count. -/
def wakeElement (s : State) (k n i : Nat) (cause : BitVec 8) : State :=
  let core := getCore s k
  match clampOf core n with
  | none => s
  | some c =>
    match core.sweep with
    | none => wakeAtOnce s k n c i cause false
    | some w =>
      if w.c ≠ n then wakeAtOnce s k n c i cause false
      else
        match w.pos with
        | none => wakeAtOnce s k n c i cause false
        | some p =>
          if p < i / 8 then wakeAtOnce s k n c i cause false
          else if i / 8 = p ∧ w.running then
            modCore s k fun x => { x with sweep := some { w with held := w.held ++ [(i, cause)] } }
          else wakeAtOnce s k n c i cause true

/-! ### Instructions -/

/-- A rake command issued: a full queue stalls the scalar core (R124). -/
def issueRake (h : Hdr) (cmd : State → RakeCmd) (s : State) : Host.Outcome State Fault Refusal :=
  .next (if !inCoal s && guardBit s h && decide (2 ≤ s.core.kq.length) then stallOn s .rake
    else scalar s h fun s =>
      let x := cmd s
      issueCmd s fun c => { c with kq := c.kq ++ [x] })
/-- RKDECL (R269). -/
def execRkdecl (h : Hdr) (c : BitVec 6) (a : WG) (s : State) : Host.Outcome State Fault Refusal :=
  issueRake h (fun s => .decl c.toNat (recordOf s 0 (readWG s a) 0 0)) s
/-- RKSWEEP (R270). -/
def execRksweep (h : Hdr) (c : BitVec 6) (s : State) : Host.Outcome State Fault Refusal :=
  issueRake h (fun s => .sweep c.toNat (recordOf s 0 0 0 0)) s
/-- The fault of an RKWAKE (R270): precise, of the scalar core, in a coal handler for the sweep's task. -/
def wakeFault (s : State) : State :=
  match s.core.bank, s.core.sweep with
  | .coal, some w =>
    let r := impreciseRec s { w.rcd with pc := s.core.coal.pc } .engineCmd .scalar 0
    faultLaunch s w.rcd.ctx { r with imp := false, op0 := 0, op1 := 0, op2 := 0, op3 := 0 } .engineCmd
  | _, _ => raise s .scalar .engineCmd 0
/-- The effect of RKWAKE (R270): earlier stores of the core are performed first, so that its own order is kept (R293). -/
def rkwake (s : State) (n : Nat) (i : Word) (cause : BitVec 8) : State :=
  match clampOf s.core n with
  | none => wakeFault s
  | some c => if c.size ≤ i.toNat then wakeFault s else advance (wakeElement (drainAll s s.core.id) s.core.id n i.toNat cause)
/-- RKWAKE (R270), which a coal handler may run with g and imm operands (R42). -/
def execRkwake (h : Hdr) (c : BitVec 6) (a : WGI) (b : WGI) (s : State) : Host.Outcome State Fault Refusal :=
  .next (if inCoal s && (wgiBad a || wgiBad b || pHigh h.gp) then illegalOperand s
    else if guardBit s h then rkwake s c.toNat (readWGI s a) ((readWGI s b).extractLsb' 0 8)
    else advance s)

/-- One lane of a beat written back under p1 (R42). -/
def putLane (m : List Host.Cell) (k : Nat) (c : Clamp) (bank : CoalBank) (beat L : Nat) : List Host.Cell :=
  let i := 8 * beat + L
  if bank.p1.getLsbD L ∧ i < c.size then
    let coal := lane 64 L (bank.v[0])
    let m1 := memWrite m (coalKey k c i) 8 coal
    let m2 := memWrite m1 (elemKey k c i) c.width (lane 64 L (bank.v[1]))
    setSkip m2 k c i (decide (coal % 256 ≠ 2))
  else m
/-- RKNEXT (R42): the beat's lanes are written back, the wakes held meanwhile take effect, and the handler ends. -/
def rknext (s : State) : State :=
  let k := s.core.id
  match s.core.sweep with
  | none => s
  | some w =>
    let c := clampRec s.core w.c
    match w.pos with
    | some p =>
      let m := (List.range 8).foldl (fun m L => putLane m k c s.core.coal p L) s.mem
      let s1 := onCore { s with mem := m } fun x => { x with sweep := some { w with running := false, held := [] } }
      w.held.foldl (fun acc h => wakeAtOnce acc k w.c c h.1 h.2 true) s1
    | none => s
/-- RKNEXT (R270): anywhere but in a coal handler it is illegal. -/
def execRknext (h : Hdr) (s : State) : Host.Outcome State Fault Refusal :=
  .next (if inCoal s then (if pHigh h.gp then illegalOperand s else if guardBit s h then advance (rknext s) else advance s)
    else illegal s)

/-- Whether a sweep of a clamp runs or is queued. -/
def sweeping (c : Core) (n : Nat) : Bool :=
  (match c.sweep with | some w => w.c == n | none => false) ||
    c.kq.any fun x => match x with | .sweep m _ => m == n | .decl _ _ => false
/-- RKWAIT (R44, R270): an undeclared clamp's completes at once. -/
def execRkwait (h : Hdr) (c : BitVec 6) (s : State) : Host.Outcome State Fault Refusal :=
  .next (scalar s h fun s => do
    waitFor ((clampOf s.core c.toNat).isNone || !sweeping s.core c.toNat) .rake
    .ok (advance (acquire s s.core.id .core)))
/-- RKSTAT's result word (R270). -/
def rkstatWord (c : Core) (n : Nat) : Word :=
  let pos : BitVec 17 := match c.sweep with
    | some w => if w.c = n then (match w.pos with | some p => BitVec.ofNat 17 (p + 1) | none => 0) else 0
    | none => 0
  let bit := fun (b : Bool) => if b then 1#1 else 0#1
  let x := clampRec c n
  (0 : BitVec 36) ++ pos ++ bit x.valid ++ x.autos ++ bit x.pending ++ (if sweeping c n then 1#1 else 0#1)
/-- RKSTAT (R270). -/
def execRkstat (h : Hdr) (c : BitVec 6) (d : WG) (s : State) : Host.Outcome State Fault Refusal :=
  .next (scalar s h fun s => .ok (advance (writeWG s d (rkstatWord s.core c.toNat))))

/-! ### What a command does -/

/-- The generic address of an offset of the own local memory. -/
def ownAddr (off : Nat) : Word := BitVec.ofNat 64 (localBase + off)
/-- A declaration block as a clamp (R269), with the checks of R144 and R269; AUTOS and PENDING of the record
stand. -/
def declared (x : Nat) (r : OpRec) (old : Clamp) : Except MFault Clamp :=
  let c : Clamp :=
    { handler := BitVec.ofNat 56 x, ebase := BitVec.ofNat 19 (x / 2 ^ 64), cbase := BitVec.ofNat 19 (x / 2 ^ 83),
      sbase := BitVec.ofNat 19 (x / 2 ^ 102), ecount := BitVec.ofNat 16 (x / 2 ^ 128), esize := BitVec.ofNat 2 (x / 2 ^ 144),
      auto := x.testBit 146, rlimit := BitVec.ofNat 8 (x / 2 ^ 147), autos := old.autos, pending := old.pending,
      valid := true, ctx := r.ctx, lid := r.lid }
  let foreign := old.valid && !(old.ctx == r.ctx && old.lid == r.lid)
  if field x 56 8 ≠ 0 ∨ field x 121 7 ≠ 0 ∨ field x 155 101 ≠ 0 ∨ foreign = true then .error (.engineCmd, 0)
  else if c.cbase.toNat % 8 ≠ 0 then .error (.align, ownAddr c.cbase.toNat)
  else if 2 ^ 19 < c.ebase.toNat + c.width * c.size then .error (.lmAddr, ownAddr c.ebase.toNat)
  else if 2 ^ 19 < c.cbase.toNat + 8 * c.size then .error (.lmAddr, ownAddr c.cbase.toNat)
  else if 2 ^ 19 < c.sbase.toNat + c.beats then .error (.lmAddr, ownAddr c.sbase.toNat)
  else .ok c
/-- RKDECL performed on core k (R144, R269). -/
def performDecl (s : State) (k n : Nat) (r : OpRec) : Except MFault State := do
  let off ← engineLocal k r.a 32 8
  let c ← declared (localNat s.mem k off 32) r (clampRec (getCore s k) n)
  .ok (modCore s k fun x => setClamp x n c)
/-- RKSWEEP performed on core k (R42, R144, R270). -/
def performSweep (s : State) (k n : Nat) (r : OpRec) : Except MFault State :=
  match clampOf (getCore s k) n with
  | none => .error (.engineCmd, 0)
  | some c =>
    .ok (modCore s k fun x =>
      { setClamp x n { c with autos := 0, pending := false } with sweep := some ⟨n, none, false, [], r, []⟩ })

/-- Lane L of a beat is live: its element exists and its skip bit is clear. -/
def laneLive (m : List Host.Cell) (k : Nat) (c : Clamp) (beat L : Nat) : Bool :=
  decide (8 * beat + L < c.size) && !(skipBit m k c (8 * beat + L))
/-- Lane L of a beat is awake (R42). -/
def laneAwake (m : List Host.Cell) (k : Nat) (c : Clamp) (beat L : Nat) : Bool :=
  laneLive m k c beat L && memGet m (coalKey k c (8 * beat + L)) == 2
/-- The handler bank at the start of a beat (R42). -/
def beatBank (m : List Host.Cell) (k : Nat) (c : Clamp) (beat : Nat) : CoalBank :=
  let get := fun (f : Nat → Nat) => vregOf 64 ((List.range 8).map fun L => if 8 * beat + L < c.size then f (8 * beat + L) else 0)
  let p1 := (List.range 8).foldl (fun acc L => if laneAwake m k c beat L then acc + 2 ^ L else acc) 0
  { v := ((Vector.replicate 32 (0 : VReg)).set 0 (get fun i => memRead m (coalKey k c i) 8)).set 1
      (get fun i => memRead m (elemKey k c i) c.width),
    p1 := BitVec.ofNat 64 p1, pc := c.handler.zeroExtend 64, ran := 0 }
/-- The next beat of core k's sweep sampled (R42): no effect where the sweep has no beat left or a handler runs. -/
def sampleBeat (s : State) (k : Nat) : State :=
  let core := getCore s k
  match core.sweep with
  | none => s
  | some w =>
    let c := clampRec core w.c
    let p := match w.pos with | some x => x + 1 | none => 0
    if w.running ∨ c.beats ≤ p then s
    else
      let run := (List.range 8).any (laneAwake s.mem k c p)
      modCore s k fun x => { x with
        sweep := some { w with pos := some p, running := run }
        coal := if run then beatBank s.mem k c p else x.coal }
/-- The end of a sweep of core k (R44): an automatic sweep follows, or the command ends. It uses its clamp's record, which only another RKDECL
changes (R144): where the declaring launch has retired meanwhile, the sweep goes on with the record as it is (log 83). -/
def endSweep (s : State) (k : Nat) : State :=
  let core := getCore s k
  match core.sweep with
  | none => s
  | some w =>
    let c := clampRec core w.c
    if w.running ∨ (match w.pos with | some p => p + 1 | none => 0) < c.beats then s
    else if c.pending ∧ c.auto ∧ c.autos.toNat < c.rlimit.toNat then
      modCore s k fun x => { setClamp x w.c { c with pending := false, autos := c.autos + 1 } with sweep := some { w with pos := none } }
    else countDown (modCore s k fun x => { x with sweep := none }) w.rcd.ctx w.rcd.lid 1

end Sys2Proof.Machine
end

