-- ==== Sys2Proof/Machine/Cut.lean ====
section
/-!
DEFINITION. Sys2Proof/Machine/Cut.lean: the consistent cut (spec/15 R327, R328, R330, R399; R38, R68, R303): naming the work, the first
stage's acknowledgements, the images and their restoration. MIGRATE starts a cut; the events of EvCut.lean carry it through.
-/
namespace Sys2Proof.Machine

/-! ### The work of a cut -/

/-- Whether a launch has a running task on a cluster. -/
def runsOn (s : State) (c : Nat) (l : Launch) : Bool :=
  (allCores s).any fun k => clusterOf k.id == c && (match k.task with | some t => t.info.ofLaunch l.ctx l.lid | none => false)
/-- The live launches that a stop request names. -/
def workLaunches (s : State) (w : StopWork) : List (CtxId × Lid) :=
  let names := fun (l : List Launch) => l.map fun x => (x.ctx, x.lid)
  match w with
  | .context ctx => names (s.launches.filter fun l => l.ctx == ctx)
  | .launch ctx lid => names (s.launches.filter fun l => l.ctx == ctx && l.lid == lid)
  | .victims _ v => names (s.launches.filter fun l => v.contains (l.ctx, l.lid))
  | .hotSpot c => names (s.launches.filter (runsOn s c))
/-- Whether a cut in progress is a cut of a context (R357). -/
def Cut.of (c : Cut) (ctx : CtxId) : Bool := decide (c.stage < 3) && (c.whole ctx || c.launches.any fun x => x.1 == ctx)
/-- A stop request's part in a cut: the work that it names, and what it is for. -/
structure StopReq where
  works : List StopWork
  launches : List (CtxId × Lid)
  migrate : Option (CtxId × Bool)
  claims : List (Nat × CtxId × Lid × List (CtxId × Lid))
  dests : List (Nat × Nat)
deriving DecidableEq, Repr
/-- A request's part in one context. -/
def StopReq.part (r : StopReq) (ctx : CtxId) : StopReq :=
  { r with launches := r.launches.filter fun x => x.1 == ctx, migrate := r.migrate.filter fun m => m.1 == ctx
           claims := r.claims.map fun x => (x.1, x.2.1, x.2.2.1, x.2.2.2.filter fun y => y.1 == ctx) }
/-- A request that joins a cut; where it brings launches into a second stage, the cut goes back to its first (log 88). -/
def Cut.join (c : Cut) (r : StopReq) : Cut :=
  let new := r.launches.filter fun x => !(c.launches.contains x)
  { c with works := c.works ++ r.works, launches := c.launches ++ new, migrate := r.migrate.or c.migrate, claims := c.claims ++ r.claims,
           dests := c.dests ++ r.dests, stage := if new.isEmpty then c.stage else min c.stage 1 }
/-- A cut that begins with a request. -/
def Cut.start (r : StopReq) : Cut :=
  { works := r.works, stage := 1, launches := r.launches, acks := [], cycles := [], asked := false, images := [], header := 0,
    migrate := r.migrate, claims := r.claims,
    dests := r.dests }
/-- Whether an operand record belongs to a cut's work. -/
def Cut.owns (c : Cut) (r : OpRec) : Bool := c.launches.contains (r.ctx, r.lid)
/-- A cut's second stage given up: the multiplications that it froze go on from the cycle at which they stood (R328, R330). -/
def thaw (s : State) (c : Cut) : State :=
  mapCores s fun k =>
    match k.mrun, assocGet c.cycles (clusterOf k.id) with
    | some m, some t => if c.owns m.rcd then { k with mstart := k.mstart + ((getCluster s (clusterOf k.id)).cycle - t) } else k
    | _, _ => k
/-- A request's part in one context: it joins the context's cut in progress, or begins one (R357). -/
def cutPart (r : StopReq) (s : State) (ctx : CtxId) : State :=
  match s.cuts.findIdx? fun c => c.of ctx with
  | some i =>
    match s.cuts[i]? with
    | none => s
    | some c =>
      let d := c.join (r.part ctx)
      if d.stage < c.stage then { thaw s c with cuts := s.cuts.set i { d with cycles := [] } } else { s with cuts := s.cuts.set i d }
  | none => { s with cuts := s.cuts ++ [Cut.start (r.part ctx)] }
/-- A stop request (R327): the work of a cut that is complete is stopped already. -/
def startCut (s : State) (r : StopReq) : State :=
  let stopped := fun (x : CtxId × Lid) => s.cuts.any fun c => c.stage == 3 && c.launches.contains x
  let q := { r with launches := r.launches.filter fun x => !(stopped x) }
  (q.launches.map Prod.fst ++ (q.migrate.map Prod.fst).toList).eraseDups.foldl (cutPart q) s
/-- Whether a cut in its second stage or complete holds a launch's engines (R328). -/
def workHeld (s : State) (ctx : CtxId) (lid : Lid) : Bool := s.cuts.any fun c => decide (2 ≤ c.stage) && c.launches.contains (ctx, lid)
/-- Whether a cut holds the engine command of a record. -/
def engineHeld (s : State) (r : OpRec) : Bool := workHeld s r.ctx r.lid
/-- Whether a cut in its second stage, or complete, stops a context's walkers. -/
def walkerHeld (s : State) (ctx : CtxId) : Bool := s.cuts.any fun c => decide (2 ≤ c.stage) && c.whole ctx

/-! ### The first stage (R327) -/

/-- The STEPNO at which a core's task of a cut's work can acknowledge now: it stands at a STEP, or in a wait that counts as stopped. -/
def ackOf (c : Cut) (k : Core) : Option (BitVec 32) :=
  match k.task with
  | none => none
  | some t =>
    if c.launches.contains (t.info.ctx, t.info.lid) ∧ k.bank = .user then
      match k.cutAck with
      | some n => some n
      | none =>
        match k.blocked with
        | some w => if w.stops ∧ k.sending = none then some t.stepno else none
        | none => none
    else none
/-- A task's acknowledgement taken by the collector. -/
def acknowledge (s : State) (i k : Nat) : State :=
  match s.cuts[i]? with
  | none => s
  | some c =>
    match ackOf c (getCore s k) with
    | none => s
    | some n =>
      if c.stage = 1 then
        let s1 := modCore s k fun x => { x with cutAck := some n }
        { s1 with cuts := s1.cuts.set i { c with acks := assocSet c.acks k n } }
      else s
/-- The cores whose running task belongs to a launch. -/
def taskCores (s : State) (w : CtxId × Lid) : List Core :=
  (allCores s).filter fun k => match k.task with | some t => t.info.ofLaunch w.1 w.2 | none => false
/-- The greatest STEPNO acknowledged among a launch's tasks. -/
def highest (c : Cut) (l : List Core) : Nat :=
  (l.filterMap fun k => (assocGet c.acks k.id).map BitVec.toNat).foldl max 0
/-- The collector's step for one launch: when every running task has acknowledged, those behind are released (R327). -/
def releaseBehind (s : State) (i : Nat) (w : CtxId × Lid) : State :=
  match s.cuts[i]? with
  | none => s
  | some c =>
    let l := taskCores s w
    if l.all fun k => (assocGet c.acks k.id).isSome then
      let top := highest c l
      let behind := (l.filter fun k => match assocGet c.acks k.id with | some n => decide (n.toNat < top) | none => false).map Core.id
      let s1 := behind.foldl (fun acc k => modCore acc k fun x => { x with cutAck := none, cutGoal := some (BitVec.ofNat 32 top) }) s
      { s1 with cuts := s1.cuts.set i { c with acks := c.acks.filter fun p => !(behind.contains p.1) } }
    else s
/-- Whether a launch's tasks all stand at one count. -/
def countsEqual (s : State) (c : Cut) (w : CtxId × Lid) : Bool :=
  let l := taskCores s w
  l.all fun k => assocGet c.acks k.id == some (BitVec.ofNat 32 (highest c l)) && k.cutAck.isSome

/-! ### The second stage (R328) -/

/-- Whether a message in a channel belongs to a cut's work, and its handler has not ended. -/
def Cut.ownsMsg (c : Cut) (m : Channel) : Bool := c.launches.contains (m.ctx, m.lid) && !m.discard && m.clamp.isNone
/-- Whether a copy stands at the end of a chunk (R328). -/
def chunkEnd (x : Copy) : Bool :=
  let b := firstBeat x
  decide (beatCount x ≤ b) || ((b == 0 || chunkOf x b != chunkOf x (b - 1)) && x.done.all fun y => decide (chunkOf x y < chunkOf x b))
/-- Whether a core's task belongs to a cut's work. -/
def Cut.ownsTask (c : Cut) (k : Core) : Bool := match k.task with | some t => c.launches.contains (t.info.ctx, t.info.lid) | none => false
/-- Whether every unit of a cut's work on a core has stopped, and every message of it has been captured whole (R328, R399). -/
def unitsStopped (c : Cut) (k : Core) : Bool :=
  k.bank == .user
    && (!(c.ownsTask k) || k.svcq.all fun r => !r.own)
    && (k.flight.all fun x => !(c.owns x.rcd) || chunkEnd x)
    && (match k.sweep with | some w => !(c.owns w.rcd) || !w.running | none => true)
    && (k.chans.toList.all fun l => l.all fun m => !(c.ownsMsg m) || tailIn m)
/-- Whether a rake command's record passes a test. -/
def RakeCmd.whose (p : OpRec → Bool) : RakeCmd → Bool
  | .decl _ r => p r
  | .sweep _ r => p r
/-- What a core holds of some launches, or all but it (R68, R328, R358): their task where the core runs it, and their entries in its queues, its
engines and its tables. -/
def ofWork (mine : CtxId × Lid → Bool) (k : Core) : Core :=
  let cmd := fun (r : OpRec) => mine (r.ctx, r.lid)
  releaseTables (fun o => !(mine o)) { k with
    task := match k.task with | some t => if mine (t.info.ctx, t.info.lid) then some t else none | none => none
    runq := k.runq.filter fun e => mine (e.task.ctx, e.task.lid)
    deque := k.deque.filter fun t => mine (t.ctx, t.lid)
    vq := k.vq.filter fun m => mine (m.ctx, m.lid)
    mq := k.mq.filter fun m => cmd m.rcd
    mrun := match k.mrun with | some m => if cmd m.rcd then some m else none | none => none
    cq := k.cq.filter fun m => cmd m.rcd
    flight := k.flight.filter fun m => cmd m.rcd
    kq := k.kq.filter fun m => m.whose cmd
    sweep := match k.sweep with | some w => if cmd w.rcd then some w else none | none => none }
/-- Whether a core has an engine command queued, running or in flight. -/
def anyCommand (c : Core) : Bool :=
  !c.vq.isEmpty || !c.mq.isEmpty || c.mrun.isSome || !c.cq.isEmpty || !c.flight.isEmpty || !c.kq.isEmpty || c.sweep.isSome
/-- Whether a core holds anything of a launch. -/
def holdsLaunch (k : Core) (w : CtxId × Lid) : Bool :=
  let x := ofWork (fun o => o == w) k
  x.task.isSome || !x.runq.isEmpty || !x.deque.isEmpty || anyCommand x || !x.ringDecls.isEmpty || !x.routes.isEmpty
/-- Whether a core holds work of a cut, or a message of it (R328, R399). -/
def holdsWork (c : Cut) (k : Core) : Bool := c.launches.any (holdsLaunch k) || k.chans.toList.any fun l => l.any c.ownsMsg
/-- What a core keeps when the work of a cut leaves it; the task's message and every captured message free their channels. -/
def leaveWork (c : Cut) (k : Core) : Core :=
  let x := ofWork (fun o => !(c.launches.contains o)) k
  let y := { x with chans := k.chans.map fun l => l.filter fun m => !(c.ownsMsg m) }
  if c.ownsTask k then
    { y with blocked := none, loop := { k.loop with on := false }, loopBuf := [], ibuf := [], early := [], sending := none,
             atBarrier := false, cutAck := none, cutGoal := none }
  else y
/-- The messages of a launch of a cut's work on a core, with their channels, oldest first. -/
def workMsgs (c : Cut) (w : CtxId × Lid) (k : Core) : List (Chan × Channel) :=
  (List.finRange 8).flatMap fun n => (k.chans[n.val].filter fun m => c.ownsMsg m && m.ctx == w.1 && m.lid == w.2).map fun m => (n, m)
/-- A local memory's 512 KiB copied from one key to another. -/
def copyLocal (m : List Host.Cell) (src dst : Nat) : List Host.Cell :=
  let l := (m.filter fun p => decide (src ≤ p.1) && decide (p.1 < src + 2 ^ 19)).map fun p => (dst + (p.1 - src), p.2)
  memSetAll (memClear m dst (dst + 2 ^ 19)) l

/-! ### The layout of images (R329, R358) -/

/-- MSIMG of this part (R67). -/
def msimg : Word := 0x0000000100032100
/-- MSIMG.VERSION. -/
def msVersion : BitVec 16 := msimg.extractLsb' 32 16
/-- The bytes of a core's state record, of its matrix save image and of its local memory, and of them together (R358). -/
def recordSize : Nat := 4096 + (msimg.extractLsb' 0 32).toNat + 2 ^ 19
/-- The bytes of a context image of n core records, as far as its local memories. -/
def imageSize (n : Nat) : Nat := 4096 + n * recordSize
/-- Where the matrix save image of core record i lies in an image, and its local memory behind it. -/
def matrixOffset (i : Nat) : Nat := 4096 + i * recordSize + 4096
def localOffset (i : Nat) : Nat := matrixOffset i + (msimg.extractLsb' 0 32).toNat
/-- The key of byte `off` of context image n, in device memory that no page of a context names (R328; log 21). -/
def imageKey (n off : Nat) : Nat := 2 ^ 51 + n * 2 ^ 40 + off
/-- The gang of what a core runs, has queued or waits to start, and its member index there. -/
def coreGang (c : Core) : Option (Gang × Nat) :=
  let cmd := fun (m : MatrixCmd) => m.gang.map fun g => (g, m.member)
  ((c.task.bind fun t => t.info.gang.map fun g => (g, t.info.gangm.toNat)).or
    ((c.mrun.bind cmd).or (c.mq.findSome? cmd))).or (c.runq.findSome? fun e => e.task.gang.map fun g => (g, e.task.gangm.toNat))
/-- How many cycles a multiplication has run at a cluster cycle: 256 for each of its steps (R329, log 16). -/
def cyclesRun (m : MatrixCmd) (start now : Word) : Nat :=
  let steps := match m.op, m.gang with | .mgang _ _, some g => 2 ^ g.log | _, _ => 1
  min (now - start).toNat (256 * steps - 1)
/-- The multiplication that a cut freezes. -/
def frozenOp (c : Core) : Option MatrixCmd :=
  match c.mrun with
  | some m => (match m.op with | .mma _ _ | .mgang _ _ => some m | .mlda _ _ | .mzero | .mstf | .mstq | .mstb | .mldc => none)
  | none => none
/-- The header of a core's matrix save image (R329). -/
def matrixHeader (c : Core) (cycle : Word) : BitVec 512 :=
  let n := match frozenOp c with | some m => cyclesRun m c.mstart cycle | none => 0
  let step := match frozenOp c with | some m => (match m.op with | .mgang _ _ => n / 256 | _ => 0) | none => 0
  let place := match frozenOp c with | some m => m.rcd.d.extractLsb' 0 14 | none => 0
  let hm1 := match frozenOp c with | some m => m.hm1 | none => 0
  let latch := match c.latch with | some l => (1#1, Ty.code l.tb, Ty.code l.ta) | none => (0#1, 0#4, 0#4)
  let gang := match coreGang c with | some g => (g.1.log, g.2) | none => (0, 0)
  (0 : BitVec 405) ++ BitVec.ofNat 2 c.mq.length ++ place ++ BitVec.ofNat 6 hm1 ++ latch.1 ++ latch.2.1 ++ latch.2.2
    ++ (if (frozenOp c).isSome then 1#1 else 0#1) ++ BitVec.ofNat 8 (n % 256) ++ BitVec.ofNat 3 step ++ BitVec.ofNat 2 gang.1
    ++ BitVec.ofNat 3 gang.2 ++ BitVec.ofNat 11 c.id ++ msimg.extractLsb' 0 32 ++ msVersion
/-- The cycle of the frozen operation that a header names, over all its steps. -/
def headerCycle (h : BitVec 512) : Nat := 256 * field h.toNat 64 3 + field h.toNat 67 8
/-- The first 64 bytes of the header of a cut's image (R358): LAYOUT 1, CTX, FROM, NPEND, NCORE, MSVER. -/
def contextHeader (ctx : CtxId) (ember : Bool) (pending records : Nat) : BitVec 512 :=
  (0 : BitVec 400) ++ msVersion ++ BitVec.ofNat 32 records ++ BitVec.ofNat 32 pending ++ 0#8 ++ (if ember then 1#2 else 0#2) ++ ctx ++ 1#12
/-- A core as a context's image keeps it: where its first matrix command has yet to clear what another owner's left in the accumulator store
and the latch ring (R87), they are zero (log 118). -/
def keptStore (ctx : CtxId) (k : Core) : Core :=
  let runs := k.mrun.any fun m => m.rcd.ctx == ctx
  let due := (k.accStale && k.owner == some ctx) || k.mq.any fun m => m.zero && m.rcd.ctx == ctx
  { k with acc := if due && !runs then [] else k.acc, latch := if due && !runs then none else k.latch, accStale := false }
/-- The header of a core's matrix save image in a cut (R329), at the cycle at which the second stage froze its cluster. -/
def imageHeader (s : State) (c : Cut) (ctx : CtxId) (k : Core) : BitVec 512 :=
  let cl := clusterOf k.id
  matrixHeader (keptStore ctx (ofWork (fun o => c.launches.contains o) k)) ((assocGet c.cycles cl).getD (getCluster s cl).cycle)
/-- The images of a cut's work on a core, launch by launch (R328, R358): core record i of context image n, which lies at a base address; they
share the core's matrix save image and its local memory. -/
def coreImages (s : State) (c : Cut) (n : Nat) (base : Word) (i : Nat) (k : Core) : List Image :=
  (c.launches.filter fun w => holdsLaunch k w || !(workMsgs c w k).isEmpty).map fun w =>
    { ctx := w.1, lid := w.2, header := imageHeader s c w.1 k, place := base + BitVec.ofNat 64 (matrixOffset i)
      snap := keptStore w.1 (ofWork (fun o => o == w) k), lm := imageKey n (localOffset i), msgs := workMsgs c w k, away := false }
/-- The bytes of core record i of an image whose layout the spec gives (R329, R358), written to device memory (R328): the header of the matrix
save image, and the local memory. -/
def writeRecord (n i : Nat) (header : BitVec 512) (k : Nat) (m : List Host.Cell) : List Host.Cell :=
  copyLocal (memWrite m (imageKey n (matrixOffset i)) 64 header.toNat) (localKey k 0) (imageKey n (localOffset i))

/-! ### Core queue word and STOP records (R122, R375) -/

/-- Whether a message makes its channel busy: from its header to its tail's consumption; one without payload beats is consumed with its
activation. -/
def chanBusy (m : Channel) : Bool := m.waiting || !m.beats.isEmpty || !(tailIn m) || m.hdr.len == 0
/-- The core queue word (R122). -/
def queueWord (k : Core) : Word :=
  let busy := (List.finRange 8).foldl (fun acc n => if k.chans[n.val].any chanBusy then acc + 2 ^ n.val else acc) 0
  BitVec.ofNat 6 (k.runq.length + k.svcq.length) ++ BitVec.ofNat 3 k.svcq.length ++ BitVec.ofNat 5 k.deque.length
    ++ BitVec.ofNat 2 k.vq.length ++ BitVec.ofNat 2 k.mq.length ++ BitVec.ofNat 2 k.cq.length ++ BitVec.ofNat 2 k.kq.length
    ++ BitVec.ofNat 8 k.flight.length ++ BitVec.ofNat 8 busy ++ 0#26
/-- A STOP record of core k, where its cluster writes them (R375, R376): with the running task's words, or those of the activation that
ended last. -/
def stopRecord (s : State) (k : Nat) : State :=
  let c := getCore s k
  if traces (getCluster s (clusterOf k)) 3 false then
    let words := match c.task with
      | some t => [(t.info.entry.extractLsb' 0 56).zeroExtend 64, t.actid ++ t.stepno, c.pc]
      | none => [c.lastEntry.zeroExtend 64, c.lastAct ++ 0#32, 0]
    traceRec s k 5 (queueWord c :: words)
  else s

/-! ### Resuming (R330, R399) -/

/-- A command's record as the core that resumes it carries it. -/
def OpRec.at (r : OpRec) (k : Nat) : OpRec := { r with core := k }
/-- A task as the core that resumes it runs it: its watchdog counts from zero (R156), and its gang lies around it (R38). -/
def resumeTask (t : Task) (k : Nat) : Task :=
  { t with wdog := 0, info := { t.info with gang := t.info.gang.map fun g => { g with base := k - t.info.gangm.toNat } } }
/-- A gang command or a waiting gang member as the core that resumes it carries it (R38). -/
def movedGang (k m : Nat) (g : Option Gang) : Option Gang := g.map fun x => { x with base := k - m }
/-- A matrix command as core k resumes it. -/
def MatrixCmd.at (m : MatrixCmd) (k : Nat) : MatrixCmd := { m with rcd := m.rcd.at k, gang := movedGang k m.member m.gang }
/-- A run-queue entry as core k resumes it. -/
def RunEntry.at (e : RunEntry) (k : Nat) : RunEntry := { e with task := { e.task with gang := movedGang k e.task.gangm.toNat e.task.gang } }
/-- The registers of an image's task put onto a core (R68). -/
def restoreTask (x : Core) (t : Task) (c : Core) : Core :=
  { c with
    pc := x.pc, srcPc := x.srcPc, bank := .user, win := x.win, out := x.out, below := x.below, g := x.g, v := x.v, p := x.p
    wstack := x.wstack, wlimit := x.wlimit, wdepth := x.wdepth, task := some (resumeTask t c.id)
    loop := x.loop, loopBuf := [], ibuf := [], early := [], stallBank := x.stallBank, stallVector := x.stallVector
    stallMatrix := x.stallMatrix, stallCopy := x.stallCopy, stallRake := x.stallRake, genS := x.genS, blocked := none, atBarrier := false
    cutAck := none, cutGoal := none }
/-- Whether an image brings the declaration record of a clamp (R144, R358): its launch's own, or the one that its sweep goes over. -/
def bringsClamp (w : CtxId × Lid) (x : Core) (i : Fin 4) : Bool :=
  ((x.clamps[i]).valid && (x.clamps[i]).ctx == w.1 && (x.clamps[i]).lid == w.2) || x.sweep.any fun r => r.c == i.val
/-- Whether core c can take what an image's engines and its tables hold: its own engines have no work (log 87), and a record that the image brings
does not meet one of a launch that has not retired, which stays valid (R144). -/
def takesImage (img : Image) (c : Core) : Bool :=
  let x := img.snap
  let own := fun (i : Fin 4) => (c.clamps[i]).ctx == (x.clamps[i]).ctx && (c.clamps[i]).lid == (x.clamps[i]).lid
  !(anyCommand c) && (List.finRange 4).all fun i => !(bringsClamp (img.ctx, img.lid) x i) || !(c.clamps[i]).valid || own i
/-- The tables of an image put into a core's (R133, R134, R144, R358): the entries of its launch. A tag that the core's own table binds keeps
that binding, a full table takes no more, and a clamp record of the same launch that the core holds gives way (log 89). -/
def restoreTables (w : CtxId × Lid) (x : Core) (c : Core) : Core :=
  let ring := fun (i : Fin 16) => x.ringOwners[i] == some w
  { c with
    rings := Vector.ofFn fun i => if ring i then x.rings[i] else c.rings[i]
    ringOwners := Vector.ofFn fun i => if ring i then some w else c.ringOwners[i]
    ringDecls := c.ringDecls ++ x.ringDecls
    clamps := Vector.ofFn fun i => if bringsClamp w x i then x.clamps[i] else c.clamps[i]
    routes := (c.routes ++ x.routes.filter fun r => !(c.routes.any fun y => y.tag == r.tag)).take 64 }
/-- An image put onto core k at a cluster cycle (R68, R330): a frozen operation goes on from the cycle after OPCYC. -/
def restore (img : Image) (cycle : Word) (c : Core) : Core :=
  let x := img.snap
  let k := c.id
  let c1 := match x.task with | some t => restoreTask x t c | none => c
  let matrix := x.task.isSome || !x.mq.isEmpty || x.mrun.isSome
  let mine := c.owner == some img.ctx
  restoreTables (img.ctx, img.lid) x { c1 with
    runq := x.runq.map (fun e => e.at k) ++ c.runq, deque := x.deque ++ c.deque, vq := x.vq
    vecIssued := max c.vecIssued x.vecIssued
    mq := x.mq.map fun m => m.at k
    mrun := x.mrun.map fun m => m.at k
    mstart := cycle - BitVec.ofNat 64 (headerCycle img.header + 1)
    cq := x.cq.map fun m => { m with rcd := m.rcd.at k }
    flight := x.flight.map fun m => { m with rcd := m.rcd.at k }
    kq := x.kq.map fun m => match m with | .decl n r => .decl n (r.at k) | .sweep n r => .sweep n (r.at k)
    sweep := x.sweep.map fun w => { w with rcd := w.rcd.at k, code := [] }
    coal := if x.sweep.isSome then x.coal else c.coal
    chans := Vector.ofFn fun n => ((img.msgs.filter fun m => m.1 == n).map Prod.snd) ++ c.chans[n.val]
    acc := if matrix then x.acc else if mine then c.acc else []
    latch := if matrix then x.latch else if mine then c.latch else none
    accStale := !matrix && mine && c.accStale
    owner := some img.ctx, lastCtx := some img.ctx }
/-- The record that names an image's work: its command's, or its task's. -/
def imageRec (img : Image) : OpRec :=
  let x := img.snap
  match x.mrun, x.mq with
  | some m, _ => m.rcd
  | none, m :: _ => m.rcd
  | none, [] =>
    { pc := x.pc, core := x.id, ctx := img.ctx, lid := img.lid, actid := (x.task.map Task.actid).getD 0,
      stepno := (x.task.map Task.stepno).getD 0, d := 0, a := 0, a2 := 0, b := 0, behind := 0 }
/-- Whether an image's local memory is no longer that of core k: it goes there from the image. -/
def Image.moved (img : Image) (k : Nat) : Bool := img.away || img.snap.id != k
/-- An image restored on core k: the acquire of R303, the local memory where it left the core, and the rest; a save image of another version
than this part's faults its launch (R329). -/
def resumeImage (s : State) (img : Image) (k : Nat) : State :=
  if img.header.extractLsb' 0 16 ≠ msVersion then raiseEngine s ((imageRec img).at k) .matrix .engineCmd img.place
  else
    let s1 := acquire s k .pkg
    let s2 := if img.moved k then { s1 with mem := copyLocal s1.mem img.lm (localKey k 0) } else s1
    modCore s2 k (restore img (getCluster s2 (clusterOf k)).cycle)
/-- The images filed anywhere whose core gets another local memory, of another owner or of an image put there: they hold its own from then on
(R311, R330). -/
def passOn (s : State) (k : Nat) : State :=
  let mark := fun (l : List Image) => l.map fun i => if i.snap.id = k then { i with away := true } else i
  { s with
    cuts := s.cuts.map fun c => { c with images := mark c.images }
    stores := s.stores.map fun l => l.map fun p => { p with saved := mark p.saved } }

end Sys2Proof.Machine
end

