-- ==== Sys2Proof/Machine/Launch.lean ====
section
/-!
DEFINITION. Sys2Proof/Machine/Launch.lean: launch packets and their blocks (spec/14 R307, R308, R135, R133), entering launches and graphs
into the pending-launch stores (R127, R273, R310), levels of work, cancelling and reading their counters (R46, R47, R155, R274).
-/
namespace Sys2Proof.Machine

/-! ### Launch packets (R307, R308) -/

/-- What reads a packet and its blocks: an address and a size in bytes, to the bytes as a number. -/
abbrev Reader := State → Word → Nat → Eff (Nat × State)
/-- The reader of the focus core: plain loads (R273). -/
def coreReader : Reader := fun s a n => load s a n 1
/-- The reader of a hub unit or a walker. -/
def hubReader (w : Acc) : Reader := fun s a n => (hubRead s w a n 1).map fun p => (ofBytes p.1, p.2)

/-- Fields of a launch packet. -/
def pkEntry (p : Nat) : BitVec 56 := BitVec.ofNat 56 (p / 2 ^ 456)
def pkArg (p : Nat) : Word := BitVec.ofNat 64 (p / 2 ^ 392)
def pkAstep (p : Nat) : BitVec 16 := BitVec.ofNat 16 (p / 2 ^ 376)
def pkPwb (p : Nat) : Nat := field p 320 56
def pkXblk (p : Nat) : Nat := field p 264 56
def pkWsbase (p : Nat) : Nat := field p 240 24
def pkWsend (p : Nat) : Nat := field p 216 24
def pkUnits (p : Nat) : Nat := field p 192 24
def pkDlen (p : Nat) : Nat := field p 176 16
def pkWdog (p : Nat) : Nat := field p 168 8
def pkRcount (p : Nat) : Nat := field p 163 5
def pkGang (p : Nat) : Nat := field p 160 3
def pkTarget (p : Nat) : Nat := field p 157 3
def pkLink (p : Nat) : Nat := field p 155 2
def pkType (p : Nat) : Nat := field p 0 8

/-- The rules of R308 that a packet's own bits break; TARGET counts in a queue alone (R143, R273). -/
def packetBad (queued : Bool) (p : Nat) : Bool :=
  decide (field p 8 147 ≠ 0) || decide (pkUnits p = 0) || decide (4 ≤ pkGang p) || decide (pkUnits p % 2 ^ pkGang p ≠ 0)
    || (queued && (decide (pkTarget p = 5) || decide (pkTarget p = 6))) || (decide (1 ≤ pkWdog p) && decide (pkWdog p ≤ 9)) || decide (32 < pkWdog p)
    || decide (16 < pkRcount p) || (decide (pkRcount p ≠ 0) && decide (pkXblk p = 0)) || decide (pkWsbase p % 8 ≠ 0)
    || decide (pkWsend p < pkWsbase p) || decide (pkPwb p % 16 ≠ 0) || decide (pkXblk p % 64 ≠ 0)
/-- A binding (R135). -/
def bindingAt (x i : Nat) : Binding :=
  { base := BitVec.ofNat 64 (x / 2 ^ (128 * i + 64)), size := BitVec.ofNat 32 (x / 2 ^ (128 * i + 32)), bound := x.testBit (128 * i) }
/-- Whether binding i of a block breaks R135. -/
def bindingBad (x i : Nat) : Bool :=
  let b := bindingAt x i
  let win := windowOf b.base.toNat
  decide (field x (128 * i + 1) 31 ≠ 0) || (b.bound && !((win == some .global || win == some .ember) && b.base.toNat % 8 == 0))

/-- What reading a packet's blocks ends in: the sub-launch, or none for a packet that is malformed. -/
def readBlocks (rd : Reader) (queued : Bool) (s : State) (p : Nat) : Eff (Option SubLaunch × State) := do
  if packetBad queued p then .ok (none, s)
  else
    let (pw, s1) ← if pkPwb p = 0 then .ok (0, s) else rd s (BitVec.ofNat 64 (pkPwb p)) 128
    let (xb, s2) ← if pkXblk p = 0 then .ok (0, s1) else rd s1 (BitVec.ofNat 64 (pkXblk p)) (64 + 16 * pkRcount p)
    if (List.range 8).any (bindingBad pw) then .ok (none, s2)
    else
      let wdog := BitVec.ofNat 33 (2 ^ (if pkWdog p = 0 then 32 else pkWdog p))
      .ok (some
        { entry := pkEntry p, arg := pkArg p, astep := pkAstep p, windows := Vector.ofFn fun i => bindingAt pw i.val,
          globals := Vector.ofFn fun i => if i.val = 0 then 0 else BitVec.ofNat 64 (xb / 2 ^ (64 * i.val)),
          rings := (List.range (pkRcount p)).map fun r => BitVec.ofNat 128 (xb / 2 ^ (512 + 128 * r)),
          wsbase := BitVec.ofNat 24 (pkWsbase p), wsend := BitVec.ofNat 24 (pkWsend p), units := pkUnits p, dlen := pkDlen p,
          wdog := wdog, gang := pkGang p, placed := 0 }, s2)

/-! ### The pending-launch stores (R127) -/

/-- The entries a store holds. -/
def storeOf (s : State) (st : Nat) : List Pend := s.stores[st]?.getD []
/-- Its size: 256 on a compute die, 64 on the hub. -/
def storeSize (st : Nat) : Nat := if st = 4 then 64 else 256
/-- Whether a store is full. -/
def storeFull (s : State) (st : Nat) : Bool := decide (storeSize st ≤ (storeOf s st).length)
/-- The entries that a store has free. -/
def storeFree (s : State) (st : Nat) : Nat := storeSize st - (storeOf s st).length
/-- The packets of a queue not yet parsed. -/
def unparsed (x : CmdQueue) : Nat := (x.wridx - x.rdidx).toNat
/-- Whether the complex serves a queue (R126, R306). -/
def servable (x : CmdQueue) : Bool := !x.barred && !x.closed && !x.cancelled && decide (0 < unparsed x)
/-- How many packets the complex holds for entries of a store (R127): freed entries go to them first. -/
def heldQueues (s : State) (st : Nat) : Nat := ((s.ctxs.flatMap Ctx.queues).filter fun x => servable x && x.heldFor == some st).length
/-- An entry made in a store. -/
def addPending (s : State) (st : Nat) (ctx : CtxId) (ident : BitVec 32) (isGraph : Bool) (prio : BitVec 6) : State :=
  let e : Pend := ⟨ctx, ident, isGraph, prio, 0, s.serial, false, false, [], []⟩
  { s with stores := s.stores.setIfInBounds st (storeOf s st ++ [e]), serial := s.serial + 1 }
/-- A LAUNCH or GLAUNCH refused (R161). -/
def refuse (s : State) (st : Nat) : State :=
  { s with refusals := s.refusals.setIfInBounds st (satAdd (s.refusals[st]?.getD 0) 1) }

/-- Who issues a launch or a graph: the queue the chain began at, its priority, phase, and what else it belongs to. -/
structure Issuer where
  ctx : CtxId
  queue : BitVec 4
  prio : BitVec 6
  jseq : Option Word
  graph : Option (BitVec 32)
  phase : Option (BitVec 32)
  privileged : Bool
deriving DecidableEq, Repr

/-- The PRIO of a queue now, where it exists (R273). -/
def queuePrio (s : State) (ctx : CtxId) (q : BitVec 4) (default_ : BitVec 6) : BitVec 6 :=
  match getQueue s ctx q with
  | some x => x.prio
  | none => default_
/-- The issuer of what the focus core's task issues (R273): its launch passes its chain on. -/
def taskIssuer (s : State) : Issuer :=
  match curLaunch s with
  | some l => ⟨l.ctx, l.queue, queuePrio s l.ctx l.queue l.prio, none, none, l.phase, l.privileged⟩
  | none => ⟨curCtx s, 0, queuePrio s (curCtx s) 0 0, none, none, none, privileged s⟩

/-- One more thing begun in the phase and the job of an issuer (R46). -/
def joinLevels (s : State) (i : Issuer) : State :=
  let more := fun (p : Phase) => if i.phase = some p.num then { p with count := p.count + 1 } else p
  let s1 := modCtx s i.ctx fun c => { c with phases := c.phases.map more }
  modQueue s1 i.ctx i.queue fun q => { q with count := q.count + 1 }
/-- The next launch identifier of a context. -/
def nextLidOf (s : State) (ctx : CtxId) : BitVec 32 :=
  match getCtx s ctx with
  | some c => BitVec.ofNat 32 c.nextLid
  | none => 0
/-- The next graph identifier of a context. -/
def nextGidOf (s : State) (ctx : CtxId) : BitVec 32 :=
  match getCtx s ctx with
  | some c => BitVec.ofNat 32 c.nextGid
  | none => 0
/-- Bytes of a context's page zeroed, from one address to another of one 64 KiB granule: in its frame, or in the flash copy of a cold page. -/
def zeroGranule (root : Nat) (s : State) (lo hi : Nat) : State :=
  match walkFrom s.mem lo 3 root with
  | none => s
  | some (e, _, level) =>
    let p := pteFrame e + lo % pageSize level
    let f := (e / 2 ^ 12) * (match s.hub.nvme with | some n => n.block | none => 512) + lo % pageSize level
    if hi ≤ lo then s
    else if pteCold e then { s with flash := memClear s.flash f (f + (hi - lo)) }
    else { s with mem := memClear s.mem p (p + (hi - lo)) }
/-- A context's watch table as firmware has zeroed it before the context's first launch (R398), through its page tables (log 70). -/
def zeroWatch (s : State) (ctx : CtxId) : State :=
  match getCtx s ctx with
  | none => s
  | some c =>
    if c.watch = 0 ∨ c.nextLid ≠ 0 ∨ c.nextGid ≠ 0 then s
    else
      let lo := c.watch.toNat
      let hi := lo + 1179648
      (List.range 19).foldl (fun acc i =>
        let a := (lo / 65536 + i) * 65536
        zeroGranule c.root.toNat acc (max lo a) (min hi (a + 65536))) s
/-- A launch entered into a store with room. -/
def enterLaunch (s0 : State) (i : Issuer) (subs : List SubLaunch) (st : Nat) (target : BitVec 3) : State :=
  let s := zeroWatch s0 i.ctx
  let lid := nextLidOf s i.ctx
  let l : Launch :=
    { ctx := i.ctx, lid := lid, subs := subs, count := 0, faulted := none, cancelled := false, queue := i.queue, prio := i.prio,
      jseq := i.jseq, graph := i.graph, phase := i.phase, privileged := i.privileged, store := st, target := target, placedPrio := 0,
      placedAt := 0, resumedLately := false, moved := [], ops := 0, bytes := 0, mark := .none }
  let s1 := modCtx { s with launches := s.launches ++ [l] } i.ctx fun c => { c with nextLid := c.nextLid + 1 }
  let s2 := match i.graph with
    | some g => modGraph s1 i.ctx g fun x => { x with count := x.count + 1 }
    | none => s1
  addPending (joinLevels s2 i) st i.ctx lid false i.prio
/-- A graph started: it holds an entry in its walker's store. -/
def enterGraph (s0 : State) (i : Issuer) (base : Word) (nodes walker : Nat) : State :=
  let s := zeroWatch s0 i.ctx
  let gid := nextGidOf s i.ctx
  let g : Graph :=
    { ctx := i.ctx, gid := gid, base := base, nodes := nodes, walker := walker, node := 0, counts := [], held := none, parsed := none,
      count := 0, faultSeen := none,
      ended := none, queue := i.queue, prio := i.prio, jseq := i.jseq, phase := i.phase, privileged := i.privileged, cancelled := false }
  let s1 := modCtx { s with graphs := s.graphs ++ [g] } i.ctx fun c => { c with nextGid := c.nextGid + 1 }
  addPending (joinLevels s1 i) walker i.ctx gid true i.prio

/-! ### Phases and leases (R46, R365) -/

/-- The split of a link at reset and at every phase end (R16). -/
def resetSplit (l : Link) : BitVec 5 := BitVec.ofNat 5 ((l.count + 1) / 2)
/-- A queue's open phase closed (R46), with the leases it held (R365): the turn queue holds the return to the reset split alone. Where a PHASE
packet closes it, its new phase takes the lease; otherwise another open phase of the context holds it on. -/
def closePhase (s : State) (ctx : CtxId) (q : BitVec 4) (reopens : Bool) : State :=
  let close := fun (p : Phase) => if p.queue = q then { p with closed := true } else p
  let s1 := modCtx s ctx fun c => { c with phases := c.phases.map close }
  let other := (getCtx s1 ctx).bind fun c => (c.phases.find? fun p => !p.closed).map Phase.queue
  let next := fun (l : Link) =>
    if l.lease = some ctx then (if reopens then some (ctx, q) else other.map fun o => (ctx, o)) else none
  let fix := fun (l : Link) =>
    if l.holder = some (ctx, q) then { l with turns := if l.inService then [resetSplit l] else [], holder := next l } else l
  { s1 with links := s1.links.map fix }
/-- The numbers of a context's phases that COMPL still knows: the 2^31 most recent (R274). -/
def lately (l : List (BitVec 32)) : List (BitVec 32) := l.drop (l.length - 2 ^ 31)
/-- A phase opened (R46, R309): the links leased to the context are held by it, unless another phase holds them (R365). -/
def openPhase (s : State) (ctx : CtxId) (q : BitVec 4) (num : BitVec 32) : State :=
  let s1 := modCtx s ctx fun c => { c with phases := c.phases ++ [⟨num, q, 0, false⟩], phaseLog := lately (c.phaseLog ++ [num]) }
  let s2 := modQueue s1 ctx q fun y => { y with phase := some num, count := y.count + 1 }
  { s2 with links := s2.links.map fun l => if l.lease = some ctx ∧ l.holder = none then { l with holder := some (ctx, q) } else l }

/-! ### Ending work (R46, R47) -/

/-- A graph retired: its entry leaves, the levels above it count down, its journal entry ends. -/
def retireGraph (s : State) (g : Graph) (st : BitVec 2) (status : BitVec 16) : State :=
  let s1 := dropPending s g.ctx g.gid true
  let less := fun (p : Phase) => if g.phase = some p.num then { p with count := p.count - 1 } else p
  let s2 := modCtx s1 g.ctx fun c => { c with phases := c.phases.map less }
  let s3 := modQueue s2 g.ctx g.queue fun q => { q with count := q.count - 1 }
  let s4 := journalEnd s3 g.jseq st status
  { s4 with graphs := s4.graphs.filter fun x => !(x.ctx == g.ctx && x.gid == g.gid) }

/-- Several launches ended as cancelled: retired with STATUS 1 (R47, R325). -/
def cancelLaunches (s : State) (l : List Launch) : State := l.foldl (fun acc x => retireLaunch acc x 2 1) s
/-- Several graphs ended as cancelled. -/
def cancelGraphs (s : State) (l : List Graph) : State := l.foldl (fun acc x => retireGraph acc x 2 1) s
/-- The launches and graphs that two tests pick, cancelled. -/
def cancelWork (s : State) (pl : Launch → Bool) (pg : Graph → Bool) : State :=
  cancelGraphs (cancelLaunches s (s.launches.filter pl)) (s.graphs.filter pg)

/-- The engine commands of an activation on a core (R46, R155): queued, running and in
flight. -/
def unitCommands (c : Core) (ctx : CtxId) (act : BitVec 32) : Nat :=
  let mine := fun (r : OpRec) => r.ctx == ctx && r.actid == act
  (c.vq.filter fun m => m.ctx == ctx && m.actid == act).length + (c.mq.filter fun m => mine m.rcd).length +
    (match c.mrun with | some m => if mine m.rcd then 1 else 0 | none => 0)
    + (c.cq.filter fun m => mine m.rcd).length + (c.flight.filter fun m => mine m.rcd).length
    + (c.kq.filter fun m => match m with | .decl _ r => mine r | .sweep _ r => mine r).length
    + (match c.sweep with | some w => if mine w.rcd then 1 else 0 | none => 0)
/-- Whether an activation runs on a core. -/
def unitRuns (c : Core) (ctx : CtxId) (act : BitVec 32) : Bool :=
  match c.task with
  | some t => t.info.ctx == ctx && t.actid == act
  | none => false
/-- What is left of a core without an activation (R47): its task ends there, and its engine commands go. -/
def dropUnit (ctx : CtxId) (act : BitVec 32) (c : Core) : Core :=
  let mine := fun (r : OpRec) => r.ctx == ctx && r.actid == act
  let c1 := if unitRuns c ctx act then clearTask c else c
  { c1 with
    vq := c1.vq.filter fun m => !(m.ctx == ctx && m.actid == act)
    mq := c1.mq.filter fun m => !(mine m.rcd)
    mrun := match c1.mrun with | some m => if mine m.rcd then none else some m | none => none
    cq := c1.cq.filter fun m => !(mine m.rcd)
    flight := c1.flight.filter fun m => !(mine m.rcd)
    kq := c1.kq.filter fun m => match m with | .decl _ r => !(mine r) | .sweep _ r => !(mine r)
    sweep := match c1.sweep with | some w => if mine w.rcd then none else some w | none => none }
/-- The launches that an activation's commands on a core count in, one for each command that is queued, or swept. -/
def unitCounts (c : Core) (ctx : CtxId) (act : BitVec 32) : List (CtxId × Lid) :=
  let of := fun (r : OpRec) => if r.ctx == ctx && r.actid == act then some (r.ctx, r.lid) else none
  ((c.vq.filter fun m => m.ctx == ctx && m.actid == act).map fun m => (m.ctx, m.lid)) ++ c.mq.filterMap (fun m => of m.rcd) ++
    (c.kq.filterMap fun m => match m with | .decl _ r => of r | .sweep _ r => of r) ++ (match c.sweep with | some w => (of w.rcd).toList | none => [])
/-- One activation cancelled on core k (R47): the task's stores are performed at SYS and it ends (R301), its queued commands go, and those at
work stop at their stopping units; the wakes that a sweep holds for the beat in hand go with it (log 84). -/
def cancelUnit (s : State) (k : Nat) (ctx : CtxId) (act : BitVec 32) : State :=
  let c := getCore s k
  let s0 := if unitRuns c ctx act then release s k .sys else s
  let s1 := modCore (stopEngines s0 k fun r => r.ctx == ctx && r.actid == act) k (dropUnit ctx act)
  let s2 := (unitCounts c ctx act).foldl (fun acc r => countDown acc r.1 r.2 1) s1
  match c.task with
  | some t => if unitRuns c ctx act then countDown s2 ctx t.info.lid 1 else s2
  | none => s2
/-- Every image of stopped work: those of cuts and those that wait in the stores. -/
def allImages (s : State) : List Image := s.cuts.flatMap Cut.images ++ s.stores.toList.flatMap fun l => l.flatMap Pend.saved
/-- Whether an image holds work of an activation of core k, stopped by a cut: as much of the unit as is left (R46). -/
def Image.ofUnit (k : Nat) (ctx : CtxId) (act : BitVec 32) (i : Image) : Bool :=
  i.snap.id == k && (unitRuns i.snap ctx act || decide (unitCommands i.snap ctx act ≠ 0))
/-- The images that hold work of an activation of core k. -/
def savedUnits (s : State) (k : Nat) (ctx : CtxId) (act : BitVec 32) : List Core := ((allImages s).filter (Image.ofUnit k ctx act)).map Image.snap
/-- What a cut has saved of an activation of core k, cancelled (R47): it is never resumed, and its task and commands leave their launch's
counter. -/
def cancelSaved (s : State) (k : Nat) (ctx : CtxId) (act : BitVec 32) : State :=
  let without := fun (l : List Image) => l.map fun i => if i.ofUnit k ctx act then { i with snap := dropUnit ctx act i.snap } else i
  let s1 := { s with
    cuts := s.cuts.map fun c => { c with images := without c.images }
    stores := s.stores.map fun l => l.map fun e => { e with saved := without e.saved } }
  ((allImages s).filter (Image.ofUnit k ctx act)).foldl (fun acc i =>
    countDown acc i.ctx i.lid (unitCommands i.snap ctx act + if unitRuns i.snap ctx act then 1 else 0)) s1

/-- The result of a cancel (R274). -/
inductive Found where
  | here | absent
deriving DecidableEq, Repr

/-- The instance a cancel names in the context: whether it is there, and the state without it (R47, R274). -/
def cancelled (s : State) (lvl : Level) (ctx : CtxId) (a : Word) : Found × State :=
  match lvl with
  | .unit =>
    let k := field a.toNat 32 11
    let act := a.extractLsb' 0 32
    if coreEnabled s k && (unitRuns (getCore s k) ctx act || decide (unitCommands (getCore s k) ctx act ≠ 0)) then
      (.here, cancelUnit s k ctx act)
    else if (savedUnits s k ctx act).isEmpty then (.absent, s)
    else (.here, cancelSaved s k ctx act)
  | .launch =>
    match getLaunch s ctx (a.extractLsb' 0 32) with
    | some l => (.here, cancelLaunches s [l])
    | none => (.absent, s)
  | .graph =>
    let gid := a.extractLsb' 0 32
    match getGraph s ctx gid with
    | some _ => (.here, cancelWork s (fun l => l.ctx == ctx && l.graph == some gid) fun g => g.ctx == ctx && g.gid == gid)
    | none => (.absent, s)
  | .phase =>
    let num := a.extractLsb' 0 32
    if (match getCtx s ctx with | some c => c.phases.any fun p => p.num == num | none => false) then
      let s1 := cancelWork s (fun l => l.ctx == ctx && l.phase == some num) fun g => g.ctx == ctx && g.phase == some num
      let gone : List Phase := (match getCtx s1 ctx with | some c => c.phases.filter fun p => p.num == num | none => [])
      let s2 := gone.foldl (fun acc p => modQueue acc ctx p.queue fun q => { q with count := q.count - 1 }) s1
      (.here, modCtx s2 ctx fun c => { c with phases := c.phases.filter fun p => p.num != num })
    else (.absent, s)
  | .job =>
    let q := a.extractLsb' 0 4
    match getQueue s ctx q with
    | some x =>
      if (x.closed ∨ x.cancelled) ∧ x.count = 0 then (.absent, s)
      else
        let s1 := cancelWork s (fun l => l.ctx == ctx && l.queue == q) fun g => g.ctx == ctx && g.queue == q
        let s2 := modCtx (closePhase s1 ctx q false) ctx fun c => { c with phases := c.phases.filter fun p => p.queue != q }
        (.here, modQueue s2 ctx q fun y => { y with cancelled := true, count := 0 })
    | none => (.absent, s)

/-- Whether an identifier lies among the 2^31 most recent of `total` issued ones, modulo 2^32 (R274). -/
def issuedLately (total : Nat) (id : BitVec 32) : Bool :=
  let back := (total + 2 ^ 32 - 1 - id.toNat) % 2 ^ 32
  decide (back < 2 ^ 31) && decide (back < total)
/-- COMPL's word of a live instance (R274): one whose issuing has closed at a count of 0 is not retired before its retirement (log 61). -/
def liveWord (count : Nat) : Word := if count ≠ 0 then BitVec.ofNat 64 count else BitVec.ofNat 64 (2 ^ 32)
/-- COMPL's word of an instance that is not live. -/
def goneWord (started : Bool) : Word := if started then 0 else BitVec.allOnes 64
/-- Whether every unit of a launch has been placed (R46). -/
def allPlaced (l : Launch) : Bool := l.subs.all fun x => x.placed == x.units
/-- COMPL's result word (R274). -/
def complWord (s : State) (lvl : Level) (ctx : CtxId) (a : Word) : Word :=
  let c := getCtx s ctx
  let id := a.extractLsb' 0 32
  match lvl with
  | .unit =>
    let k := field a.toNat 32 11
    if coreEnabled s k then
      let core := getCore s k
      let saved := savedUnits s k ctx id
      let n := unitCommands core ctx id + (saved.map fun c => unitCommands c ctx id).sum
      if unitRuns core ctx id || decide (n ≠ 0) || !saved.isEmpty then liveWord n
      else goneWord (issuedLately core.nextAct id)
    else BitVec.allOnes 64
  | .launch =>
    match getLaunch s ctx id with
    | some l => liveWord l.count
    | none => goneWord (match c with | some x => issuedLately x.nextLid id | none => false)
  | .graph =>
    match getGraph s ctx id with
    | some g => liveWord g.count
    | none => goneWord (match c with | some x => issuedLately x.nextGid id | none => false)
  | .phase =>
    match c with
    | none => BitVec.allOnes 64
    | some x =>
      match x.phases.find? fun p => p.num == id with
      | some p => liveWord p.count
      | none => goneWord (x.phaseLog.contains id)
  | .job =>
    match getQueue s ctx (a.extractLsb' 0 4) with
    | some q => if (q.closed ∨ q.cancelled) ∧ q.count = 0 then 0 else liveWord q.count
    | none => BitVec.allOnes 64

end Sys2Proof.Machine
end

