-- ==== Sys2Proof/Machine/Watch.lean ====
section
/-!
DEFINITION. Sys2Proof/Machine/Watch.lean: the token watch unit (spec/07 R140, R147 to R150, R398) and the notify targets it shares with
NOTIFY (R147, R278). A row is held as the number its bytes hold.
-/
namespace Sys2Proof.Machine

/-- A number with one field replaced. -/
def setField (x lo w v : Nat) : Nat := x - field x lo w * 2 ^ lo + v % 2 ^ w * 2 ^ lo

/-! ### Rows and entries (R147, R398) -/

/-- Where row r of a table lies. -/
def rowAddr (base : BitVec 56) (row : Word) : Word := base.zeroExtend 64 + 288 * row
/-- Header fields. -/
def hdState (h : Nat) : Nat := field h 0 2
def hdLen (h : Nat) : Nat := field h 80 32
def hdHlen (h : Nat) : Nat := field h 2 2
def hdMap (h : Nat) : Nat := field h 112 56
def hdLog (h : Nat) : Nat := field h 168 56
def hdLogsz (h : Nat) : Nat := field h 224 8
/-- The token p places before the next one: place 1 is the newest in HIST. -/
def hdTok (h p : Nat) : Nat := field h (8 + 24 * (p - 1)) 24
/-- A token pushed onto HIST. -/
def pushTok (h t : Nat) : Nat :=
  setField (setField h 8 72 (field h 8 72 * 2 ^ 24 + t)) 2 2 (min 3 (hdHlen h + 1))
/-- Entry fields. -/
def enArmed (e : Nat) : Bool := e.testBit 103
def enAction (e : Nat) : Nat := field e 104 3
def enPlen (e : Nat) : Nat := field e 100 3
def enBudget (e : Nat) : Nat := field e 112 32
def enNinj (e : Nat) : Nat := field e 107 4
def enFslot (e : Nat) : Nat := field e 144 12
def enInj (e k : Nat) : Nat := field e (224 + 24 * k) 24
def enNtgt (e : Nat) : Word := BitVec.ofNat 64 (e / 2 ^ 160)
/-- BUDGET replaced. -/
def putBudget (e v : Nat) : Nat := setField e 112 32 v
/-- Whether an entry's action, pattern length and inject count are ones that TKWSET accepts (R148, R277). -/
def enSound (e : Nat) : Bool := decide (1 ≤ enAction e) && decide (enAction e ≤ 5) && decide (enPlen e ≤ 4) && decide (enNinj e ≤ 8)
/-- Whether an entry takes part (R148). -/
def enLive (e : Nat) : Bool := enArmed e && enSound e
/-- Whether an entry's pattern ends at token t (R148). -/
def enMatches (h e t : Nat) : Bool :=
  decide (0 < enPlen e) && decide (enPlen e ≤ hdHlen h + 1) &&
    (List.range (enPlen e)).all fun i =>
      e.testBit (96 + i) || field e (24 * i) 24 == (if i + 1 = enPlen e then t else hdTok h (enPlen e - 1 - i))

/-! ### Committing tokens (R148) -/

/-- One token: the entries with their budgets counted down, and which of them hit. -/
def countToken (h t : Nat) (es : List Nat) : List (Nat × Bool) :=
  es.map fun e =>
    if enLive e then
      let b := enBudget e
      let e1 := if b = 0 then e else putBudget e (b - 1)
      (e1, (b == 1) || enMatches h e t)
    else (e, false)
/-- The state of a commit: the header, the entries, the tokens committed (oldest first) and the winner. -/
structure Commit where
  hd : Nat
  es : List Nat
  toks : List Nat
  win : Option Nat
deriving DecidableEq, Repr
/-- The tokens handled in order, up to the one at which an entry fires. -/
def commitToks (c : Commit) : List Nat → Commit
  | [] => c
  | t :: r =>
    let l := countToken c.hd t c.es
    let hd := pushTok c.hd t
    match (l.zipIdx.find? fun p => p.1.2).map Prod.snd with
    | none => commitToks { hd := hd, es := l.map Prod.fst, toks := c.toks ++ [t], win := none } r
    | some w =>
      let hold := fun (p : (Nat × Bool) × Nat) =>
        if p.2 = w then setField p.1.1 103 1 0 else if p.1.2 && enBudget p.1.1 == 0 then putBudget p.1.1 1 else p.1.1
      { hd := hd, es := l.zipIdx.map hold, toks := c.toks ++ [t], win := some w }
/-- Injected tokens count budgets down, and hold those they bring to zero at 1 (R149). -/
def injectBudgets (n : Nat) (es : List Nat) : List Nat :=
  es.map fun e => if enLive e && enBudget e != 0 then putBudget e (max 1 (enBudget e - n)) else e

/-! ### Notify targets (R147, R149, R278) -/

/-- A notify target performed with a value; a target that cannot be performed faults with the target as the address, and one that no route
leads to is a machine check (R18). -/
def notifyTarget (s : State) (w : Acc) (tgt val : Word) : Eff State :=
  let code := field tgt.toNat 62 2
  if code = 0 then .ok s
  else if code = 1 then
    let n := tgt.extractLsb' 0 10
    if !(reaches s (cacheOf w) 4) then .error (.fault .machineCheck tgt)
    else if s.hub.apertureGrants.contains (n, w.ctx) then
      .ok { s with hub := { s.hub with aperture := (n, val) :: s.hub.aperture.filter fun p => p.1 != n } }
    else .error (.fault .pagePerm tgt)
  else if code = 2 then
    let a := BitVec.ofNat 64 (field tgt.toNat 0 56)
    if a.toNat % 8 ≠ 0 then .error (.fault .align tgt)
    else
      match resolve s w a 8 8 true with
      | .error e =>
        match e.bare with
        | .fault c _ => .error (.fault (if c = .machineCheck then c else .pagePerm) tgt)
        | _ => .error e
      | .ok (l, s1) =>
        let bytes := (l.map Spot.key).zip (toBytes 8 val.toNat)
        .ok (if w.core < 1032 then unitPut s1 w.core bytes else homePut s1 bytes)
  else
    let k := field tgt.toNat 0 11
    let n := field tgt.toNat 11 2
    let i := field tgt.toNat 13 16
    if !(coreEnabled s k) then .error (.fault .illegalOperand tgt)
    else if !(reaches s (cacheOf w) (dieOf k)) then .error (.fault .machineCheck tgt)
    else if (getCore s k).owner ≠ some w.ctx then .error (.fault .pagePerm tgt)
    else
      match clampOf (getCore s k) n with
      | none => .error (.fault .illegalOperand tgt)
      | some c => if c.size ≤ i then .error (.fault .illegalOperand tgt) else .ok (wakeElement s k n i (tgt.extractLsb' 29 8))

/-! ### Serving a request -/

/-- A TKCMT result word (R150). -/
def resultWord (injn who act done : Nat) : Word := BitVec.ofNat 64 (done % 256 + act % 256 * 2 ^ 8 + who % 2 ^ 16 * 2 ^ 16 + injn % 256 * 2 ^ 32)
/-- CLOSED, with nothing committed. -/
def closedWord : Word := resultWord 0 0 7 0
/-- The accessor of the unit's log, map and notify accesses for a context: checked as a user's (R148), whatever launch commits (log 106). -/
def userAcc (ctx : CtxId) : Acc := { hubAcc ctx with priv := false }
/-- The log words of a commit, with their addresses (R148): model tokens, then injected ones. -/
def logWords (h : Nat) (toks inj : List Nat) : List (Word × Nat) :=
  let words : List Nat := toks ++ inj.map fun t => t + 2 ^ 24
  words.zipIdx.map fun p =>
    (BitVec.ofNat 64 (hdLog h) + BitVec.ofNat 64 (4 * ((hdLen h + p.2) % 2 ^ hdLogsz h)), p.1)
/-- Every log store translated before any is made, and then made, as stores of the committing context; the fault is that of the lowest slot
that faults. -/
def logStores (s : State) (ctx : CtxId) (l : List (Word × Nat)) : Eff State :=
  let (s1, stops) := l.foldl (fun (acc : State × List (Word × Stop)) p =>
    match resolve acc.1 (userAcc ctx) p.1 4 4 true with
    | .ok (_, t) => (t, acc.2)
    | .error e => (e.state acc.1, acc.2 ++ [(p.1, e.bare)])) (s, [])
  let faults : List (Word × FCode) := stops.filterMap fun t => match t.2 with | .fault c _ => some (t.1, c) | _ => none
  match faults, stops with
  | f :: r, _ =>
    let low := r.foldl (fun m x => if x.1.toNat < m.1.toNat then x else m) f
    keeping s1 (.error (.fault low.2 low.1))
  | [], t :: _ => keeping s1 (.error t.2)
  | [], [] => bareStop (l.foldlM (fun acc p => hubWrite acc (userAcc ctx) p.1 4 (toBytes 4 p.2)) s1)

/-- A row of a context's table, and the state after the read. -/
def readRow (s : State) (ctx : CtxId) (a : Word) : Eff (Nat × List Nat × State) := do
  let (x, s1) ← hubRead s (hubAcc ctx) a 288 8
  let y := ofBytes x
  .ok (y % 2 ^ 256, (List.range 4).map fun i => field y (256 + 512 * i) 512, s1)
/-- A row written back. -/
def writeRow (s : State) (ctx : CtxId) (a : Word) (h : Nat) (es : List Nat) : Eff State :=
  bareStop (hubWrite s (hubAcc ctx) a 8 (toBytes 32 h ++ es.flatMap fun e => toBytes 64 e))

/-- A KV page map forked (R140, R149): the state with both maps marked, or none where the target map is too small. -/
def forkMap (s : State) (ctx : CtxId) (src dst : Nat) : Eff (Option State) := do
  let (sh, s1) ← hubRead s (userAcc ctx) (BitVec.ofNat 64 src) 16 1
  let (dh, s2) ← hubRead s1 (userAcc ctx) (BitVec.ofNat 64 dst) 16 1
  let n := field (ofBytes sh) 0 16
  let cap := field (ofBytes dh) 16 16
  if cap < n then .ok none
  else
    let (es, s3) ← hubRead s2 (userAcc ctx) (BitVec.ofNat 64 (src + 16)) (max 1 (8 * n)) 1
    let marked := (List.range n).flatMap fun i => toBytes 8 (ofBytes ((es.drop (8 * i)).take 8) ||| 1)
    if n = 0 then
      let s4 ← hubWrite s3 (userAcc ctx) (BitVec.ofNat 64 dst) 1 (toBytes 2 0)
      .ok (some s4)
    else
      let s4 ← hubWrite s3 (userAcc ctx) (BitVec.ofNat 64 (src + 16)) 1 marked
      let s5 ← hubWrite s4 (userAcc ctx) (BitVec.ofNat 64 (dst + 16)) 1 marked
      let s6 ← hubWrite s5 (userAcc ctx) (BitVec.ofNat 64 dst) 1 (toBytes 2 n)
      .ok (some s6)
/-- FORK into row `slot` (R149): the state with that row active, or none where a condition fails. -/
def forkRow (s : State) (ctx : CtxId) (base : BitVec 56) (h slot : Nat) : Eff (Option State) := do
  let a := rowAddr base (BitVec.ofNat 64 slot)
  let (fh, fe, s1) ← readRow s ctx a
  if hdState fh ≠ 0 then .ok none
  else
    match ← forkMap s1 ctx (hdMap h) (hdMap fh) with
    | none => .ok none
    | some s2 =>
      let fh1 := setField (setField (setField (setField fh 0 2 1) 2 2 (hdHlen h)) 8 72 (field h 8 72)) 80 32 (hdLen h)
      let s3 ← writeRow s2 ctx a fh1 fe
      .ok (some s3)

/-- A TKCMT of one row served (R148, R149): its result word, or the fault that ends the TKCMT; a cold page makes the unit wait. With `dead` the
fetch of the page that it waited for has failed: a NOTIFY whose target lies in a page that is cold still cannot be performed (R149). -/
def serveCommit (s : State) (ctx : CtxId) (base : BitVec 56) (row : Word) (toks : List Nat) (dead : Bool) : Eff (Word × State) := do
  let a := rowAddr base row
  let (h, es, s1) ← readRow s ctx a
  if hdState h ≠ 1 then .ok (closedWord, s1)
  else
    let c := commitToks ⟨h, es, [], none⟩ toks
    let winner := c.win.map fun w => (w, c.es.getD w 0)
    let inj := match winner with
      | some (_, e) => if enAction e = 3 then (List.range (enNinj e)).map (enInj e) else []
      | none => []
    let es1 := injectBudgets inj.length c.es
    let s2 ← logStores s1 ctx (logWords h c.toks inj)
    let hd := setField c.hd 80 32 (hdLen h + c.toks.length + inj.length)
    let done := c.toks.length
    match winner with
    | none =>
      let s3 ← writeRow s2 ctx a hd es1
      .ok (resultWord 0 0 0 done, s3)
    | some (w, e) =>
      if enAction e = 1 then
        let s3 ← writeRow s2 ctx a (setField hd 0 2 2) es1
        .ok (resultWord 0 w 1 done, s3)
      else if enAction e = 2 then
        match ← bareStop (forkRow s2 ctx base hd (enFslot e)) with
        | some s3 =>
          let s4 ← writeRow s3 ctx a hd es1
          .ok (resultWord 0 (enFslot e) 2 done, s4)
        | none =>
          let s3 ← writeRow s2 ctx a (setField hd 0 2 2) es1
          .ok (resultWord 0 w 6 done, s3)
      else if enAction e = 4 then
        let s3 ← writeRow s2 ctx a hd es1
        match notifyTarget s3 (userAcc ctx) (enNtgt e) (resultWord 0 w 4 done) with
        | .ok s4 => .ok (resultWord 0 w 4 done, s4)
        | .error x =>
          match x.bare with
          | .fault .machineCheck y => .error (.fault .machineCheck y)
          | .fault _ _ => .ok (resultWord 0 w 8 done, s3)
          | .cold m => if dead then .ok (resultWord 0 w 8 done, s3) else .error (.cold m)
          | y => .error y
      else
        let s3 ← writeRow s2 ctx a hd es1
        .ok (resultWord inj.length w (enAction e) done, s3)

/-- TKWSET served (R277): its status. -/
def serveSet (s : State) (ctx : CtxId) (base : BitVec 56) (row : Word) (idx : Nat) (image : List Byte) : Eff (Word × State) := do
  let a := rowAddr base row
  let (h, es, s1) ← readRow s ctx a
  if idx = 4 then
    if hdState h ≠ 0 then .ok (2, s1)
    else
      let hd := setField (setField (setField (setField (ofBytes image) 0 2 1) 2 2 0) 8 72 0) 80 32 0
      let s2 ← writeRow s1 ctx a hd es
      .ok (0, s2)
  else if hdState h = 0 then .ok (3, s1)
  else
    let s2 ← writeRow s1 ctx a h (es.set idx (setField (ofBytes image) 103 1 1))
    .ok (0, s2)
/-- TKWCLR served (R277): its status. -/
def serveClear (s : State) (ctx : CtxId) (base : BitVec 56) (row : Word) (idx : Nat) : Eff (Word × State) := do
  let a := rowAddr base row
  let (h, es, s1) ← readRow s ctx a
  if idx = 4 then
    let s2 ← writeRow s1 ctx a (setField h 0 2 0) (List.replicate 4 0)
    .ok (0, s2)
  else if hdState h = 0 then .ok (3, s1)
  else
    let s2 ← writeRow s1 ctx a h (es.set idx 0)
    .ok (0, s2)

/-- The core that made a request, and its context. -/
def WatchReq.who : WatchReq → Nat × CtxId
  | .commit k c _ _ | .setEntry k c _ _ _ | .clear k c _ _ => (k, c)
/-- The base of a context's watch table (R398). -/
def watchBase (s : State) (ctx : CtxId) : BitVec 56 :=
  match getCtx s ctx with
  | some c => c.watch
  | none => 0
/-- A request served; `dead` as for a TKCMT. -/
def serveWatch (s : State) (r : WatchReq) (dead : Bool) : Eff (Word × State) :=
  let base := watchBase s r.who.2
  match r with
  | .commit _ c row toks => serveCommit s c base row (toks.map BitVec.toNat) dead
  | .setEntry _ c row idx image => serveSet s c base row idx image
  | .clear _ c row idx => serveClear s c base row idx
/-- A result handed to the core that waits for it: a later request of the same core shows that the first one's task has ended. -/
def handResult (s : State) (k : Nat) (r : Except (FCode × Word) Word) : State :=
  if s.hub.watchQueue.any fun x => x.who.1 == k then s
  else modCore s k fun c => if c.watchResult = some none then { c with watchResult := some (some r) } else c

end Sys2Proof.Machine
end

