-- ==== Sys2Proof/Machine/Work.lean ====
section
/-!
DEFINITION. Sys2Proof/Machine/Work.lean: class 0xD, work (spec/12 R271 to R279).
-/
namespace Sys2Proof.Machine

/-- A status or result word written to D, and the PC moved on (R271). -/
def answer (s : State) (d : WG) (x : Word) : State := advance (writeWG s d x)
/-- The word of LAUNCH and GLAUNCH on success: the identifier in [63:32] (R271). -/
def identWord (id : BitVec 32) : Word := id.zeroExtend 64 <<< 32

/-! ### Stores and dies (R307, R311, R315, R356) -/

/-- Whether core k is free for a context (R311, R354, R287): the conditions of the scheduler, without those of reservations. -/
def coreFreeFor (s : State) (ctx : CtxId) (k : Nat) : Bool :=
  let c := getCore s k
  let x := getCluster s (clusterOf k)
  coreEnabled s k && !x.pend && railAllows s (clusterOf k) (partitionOf ctx) && c.task.isNone && c.runq.isEmpty && c.deque.isEmpty
    && !c.halted && (!x.khold || x.kctx == some ctx)
/-- The free cores of a die. -/
def freeOn (s : State) (ctx : CtxId) (d : Nat) : Nat := ((dieCores s d).filter fun k => coreFreeFor s ctx k && (getCore s k).reserved.isNone).length
/-- The die of a launch with TARGET 7 (R315): a new launch counts as mixed and prefers none, so the one with the most free cores; the
lowest-numbered of several. -/
def chooseDie (s : State) (ctx : CtxId) : Nat :=
  [1, 2, 3].foldl (fun best d => if freeOn s ctx best < freeOn s ctx d then d else best) 0
/-- The store that a packet's TARGET means for a context, which may live on an island (R307, R356). -/
def targetStore (s : State) (ctx : CtxId) (t : Nat) : Nat :=
  match (getCtx s ctx).bind fun c => c.lives with
  | some true => 4
  | some false => if t < 4 then t else chooseDie s ctx
  | none => if t = 7 then chooseDie s ctx else t
/-- The TARGET of a graph's LAUNCH node. -/
def ndTarget (x : Nat) : Nat := field x 8 8
/-- How many graphs wait at a LAUNCH node for an entry of a store (R39, R127). -/
def heldNodes (s : State) (st : Nat) : Nat :=
  (s.graphs.filter fun g => g.ended.isNone && g.parsed.isSome && (g.held.any fun x => targetStore s g.ctx (ndTarget x.toNat) == st)).length
/-- Whether a LAUNCH or a GLAUNCH finds a store full: free entries belong to held packets and then to graphs first (R127). -/
def storeTaken (s : State) (st : Nat) : Bool := decide (storeFree s st ≤ heldQueues s st + heldNodes s st)

/-! ### Tasks, launches and graphs (R272, R273) -/

/-- The task SPAWN adds, of the issuing task's launch. -/
def spawnInfo (s : State) (entry arg : Word) : Option TaskInfo :=
  s.core.task.map fun t =>
    { entry := entry, arg := arg, origin := 0, ctx := t.info.ctx, lid := t.info.lid, sub := t.info.sub, gangm := 0,
      gang := none, msg := none, chan := none, joinAddr := none }
/-- SPAWN (R272): with no general run-queue entry free, and where no user task stands behind a service task, it returns FULL. -/
def execSpawn (h : Hdr) (d a : WG) (b : WGI) (s : State) : Host.Outcome State Fault Refusal :=
  .next (scalar s h fun s =>
    match spawnInfo s (readWG s a) (readWGI s b) with
    | none => .ok (answer s d 1)
    | some x =>
      if 28 ≤ s.core.runq.length ∨ headerWaits s.core = true then .ok (answer s d 1)
      else do
        issueRoom s 1
        .ok (answer (charge (onCore s fun c => { c with runq := c.runq ++ [⟨.spawned, x⟩] }) 1) d 0))

/-- The store of the issuing core's die (R273). -/
def ownStoreOf (s : State) : Nat := dieOf s.core.id
/-- LAUNCH (R273): a release at PKG, the packet and its blocks read as plain loads, and the launch entered, or refused (R127, R161). -/
def execLaunch (h : Hdr) (d a : WG) (s : State) : Host.Outcome State Fault Refusal :=
  .next (scalar s h fun s => do
    let addr := readWG s a
    let (p, s1) ← load s addr 64 64
    let bad : Stop := .fault .illegalOperand addr
    if pkType p ≠ 1 ∨ pkLink p ≠ 0 then .error bad
    else
      match ← readBlocks coreReader false s1 p with
      | (none, _) => .error bad
      | (some sub, s2) =>
        let s3 := release s2 s2.core.id .pkg
        let st := ownStoreOf s3
        if storeTaken s3 st then .ok (answer (refuse s3 st) d 1)
        else
          let id := nextLidOf s3 (taskIssuer s3).ctx
          .ok (answer (enterLaunch s3 (taskIssuer s3) [sub] st 7) d (identWord id)))
/-- GLAUNCH (R273). -/
def execGlaunch (h : Hdr) (d a : WG) (b : WGI) (s : State) : Host.Outcome State Fault Refusal :=
  .next (scalar s h fun s => do
    let base := readWG s a
    let x := (readWGI s b).toNat
    let nodes := field x 0 17
    let walker := field x 17 3
    need (base.toNat % 32 == 0) .illegalOperand base
    need (decide (x < 2 ^ 20) && decide (1 ≤ nodes) && decide (nodes ≤ 65536) && decide (walker ≤ 4)) .illegalOperand (pcOf s)
    need (reaches s (cacheOf (coreAcc s)) walker) .machineCheck (pcOf s)
    let s1 := release s s.core.id .pkg
    if storeTaken s1 walker then .ok (answer (refuse s1 walker) d 1)
    else
      let id := nextGidOf s1 (taskIssuer s1).ctx
      .ok (answer (enterGraph s1 (taskIssuer s1) base nodes walker) d (identWord id)))

/-! ### Cancelling and counters (R274) -/

/-- CANCEL (R47, R274): D is written before a self-cancel ends the task. -/
def execCancel (h : Hdr) (lvl : Level) (d : WG) (a : WGI) (s : State) : Host.Outcome State Fault Refusal :=
  .next (scalar s h fun s =>
    let ctx := curCtx s
    let x := readWGI s a
    match (cancelled s lvl ctx x).1 with
    | .absent => .ok (answer s d 3)
    | .here => .ok (cancelled (answer s d 0) lvl ctx x).2)
/-- COMPL (R274): one that reads 0 is an acquire at PKG scope (R301). -/
def execCompl (h : Hdr) (lvl : Level) (d : WG) (a : WGI) (s : State) : Host.Outcome State Fault Refusal :=
  .next (scalar s h fun s =>
    let x := complWord s lvl (curCtx s) (readWGI s a)
    let s1 := if x = 0 then acquire s s.core.id .pkg else s
    .ok (answer s1 d x))

/-! ### The route table (R134, R275) -/

/-- The entry that BIND writes, from B, the handler entry and its argument. -/
def routeOf (s : State) (entry arg b : Word) : Route :=
  { arg := arg, entry := entry.extractLsb' 0 56, ctx := curCtx s, lid := curLid s, tag := b.extractLsb' 0 16, clamp := b.extractLsb' 20 2,
    chan := Fin.ofNat 8 (field b.toNat 16 3), kind := b.getLsbD 19 }
/-- Whether a route belongs to the running launch. -/
def ownRoute (s : State) (r : Route) : Bool := r.ctx == curCtx s && r.lid == curLid s
/-- BIND's status and the routes it leaves (R134). -/
def bindRoute (s : State) (r : Route) : Word × List Route :=
  match s.core.routes.find? fun x => x.tag == r.tag with
  | some x => if ownRoute s x then (0, s.core.routes.map fun y => if y.tag = r.tag then r else y) else (2, s.core.routes)
  | none => if 64 ≤ s.core.routes.length then (1, s.core.routes) else (0, s.core.routes ++ [r])
/-- BIND (R275): its clamp and channel are checked when a header arrives. -/
def execBind (h : Hdr) (d a b : WG) (s : State) : Host.Outcome State Fault Refusal :=
  .next (scalar s h fun s => do
    let x := readWG s b
    need (decide (x.toNat < 2 ^ 22)) .illegalOperand (pcOf s)
    let (st, l) := bindRoute s (routeOf s (readWG s a) (readWG s (nextReg a)) x)
    .ok (answer (onCore s fun c => { c with routes := l }) d st))
/-- UNBIND (R275). -/
def execUnbind (h : Hdr) (d : WG) (b : WGI) (s : State) : Host.Outcome State Fault Refusal :=
  .next (scalar s h fun s =>
    let tag := (readWGI s b).extractLsb' 0 16
    let mine := fun (r : Route) => r.tag == tag && ownRoute s r
    if s.core.routes.any mine then .ok (answer (onCore s fun c => { c with routes := c.routes.filter fun r => !(mine r) }) d 0)
    else .ok (answer s d 3))

/-! ### KINDLE and MIGRATE (R276, R354, R356, R357) -/

/-- The hub, where the watch unit and the wake logic are, is reached over a route that remains (R18). -/
def hubRoute (s : State) : Eff Unit := need (reaches s (cacheOf (coreAcc s)) 4) .machineCheck (pcOf s)
/-- The arrival word that B names: none where B is no local-window address; a local-window B is checked as R276 orders. -/
def arrivalWord (s : State) (b : Word) : Eff (Option (Nat × BitVec 24)) :=
  if windowOf b.toNat ≠ some .local then .ok none
  else if b.toNat % 8 ≠ 0 then .error (.fault .align b)
  else
    let la := b.toNat - localBase
    if la.testBit 19 then .error (.fault .lmAddr b)
    else
      let k := localCore s.core.id la
      match peerStop s s.core.id k (curCtx s) b with
      | some e => .error e
      | none => .ok (some (k, BitVec.ofNat 24 (la % 2 ^ 19)))
/-- KINDLE (R276, R354). -/
def execKindle (h : Hdr) (cls : WakeClass) (sc : Scope) (d : WG) (a : WGI) (b : WG) (s : State) : Host.Outcome State Fault Refusal :=
  .next (scalar s h fun s => do
    let word ← arrivalWord s (readWG s b)
    let n := (readWGI s a).toNat
    hubRoute s
    if !(wakeGranted s (curCtx s)) then .ok (answer s d 4)
    else if n = 0 ∨ enabledCount s < n then .ok (answer s d 5)
    else .ok (askWake (answer s d 0) ⟨curCtx s, some (curLid s), word, sc, cls, some s.core.id⟩ n))
/-- Whether stopped work waits for the one that asked to resume it: victims of a pre-emption go back to their store instead (R317). -/
def StopWork.stays : StopWork → Bool
  | .victims _ _ => false
  | .context _ | .launch _ _ | .hotSpot _ => true
/-- A cut without its migration (R357): the work that other stop requests name is left in it, if there is any. -/
def Cut.unmigrate (s : State) (c : Cut) : Option Cut :=
  let works := if c.stage = 3 then c.works.filter StopWork.stays else c.works
  let left := works.flatMap (workLaunches s)
  if works.isEmpty then none
  else some { c with works := works, migrate := none, launches := c.launches.filter fun x => left.contains x
                     images := c.images.filter fun i => left.contains (i.ctx, i.lid) }
/-- The entry that a launch's saved units will enter, where it has none. -/
def holdEntry (st : Nat) (s : State) (l : Launch) : State :=
  if (storeOf s st).any fun e => !e.isGraph && e.ctx == l.ctx && e.ident == l.lid then s
  else { s with stores := s.stores.setIfInBounds st (storeOf s st ++ [⟨l.ctx, l.lid, false, l.prio, 0, l.placedAt, true, false, [], []⟩]) }
/-- Saved units into the pending entries of their launches (R123). -/
def saveInto (s : State) (st : Nat) (l : List Image) : State :=
  { s with stores := s.stores.setIfInBounds st ((storeOf s st).map fun e =>
    { e with saved := e.saved ++ l.filter fun i => !e.isGraph && i.ctx == e.ctx && i.lid == e.ident }) }
/-- An image put back into the store of its launch, if that has not ended. -/
def putBack (s : State) (i : Image) : State :=
  match getLaunch s i.ctx i.lid with
  | some l => saveInto (holdEntry l.store s l) l.store [i]
  | none => s
/-- A pending migration of a context withdrawn (R357): work that no other request stops runs on where it stands, and where its cut is
complete its saved units go back to the stores that they came from. -/
def withdraw (s : State) (ctx : CtxId) : State :=
  let mine := fun (c : Cut) => c.migrate.any fun m => m.1 == ctx
  let cuts := s.cuts.filter mine
  let left := s.cuts.filterMap fun c => if mine c then c.unmigrate s else some c
  let freed := fun (w : CtxId × Lid) => (cuts.any fun c => c.launches.contains w) && !(left.any fun c => c.launches.contains w || c.whole w.1)
  let s1 := cuts.foldl (fun acc c => thaw acc { c with launches := c.launches.filter freed }) s
  let s2 := mapCores { s1 with cuts := left } fun k =>
    match k.task with
    | some t => if freed (t.info.ctx, t.info.lid) then { k with cutAck := none, cutGoal := none } else k
    | none => k
  let s3 := ((cuts.flatMap Cut.images).filter fun i => freed (i.ctx, i.lid)).foldl putBack s2
  modCtx s3 ctx fun c => { c with migrating := none }
/-- MIGRATE (R276, R356, R357): its statuses in the order NO_GRANT, RANGE, SAME (log 107). -/
def execMigrate (h : Hdr) (d : WG) (a : WGI) (s : State) : Host.Outcome State Fault Refusal :=
  .next (scalar s h fun s => do
    let ctx := curCtx s
    let to_ := readWGI s a
    hubRoute s
    if !(wakeGranted s ctx) then .ok (answer s d 4)
    else if 2 ≤ to_.toNat then .ok (answer s d 5)
    else
      let ember := to_ == 1
      if ember = isEmber s.core.id then .ok (withdraw (answer s d 6) ctx)
      else if (match getCtx s ctx with | some c => c.migrating == some ember | none => true) then .ok (answer s d 0)
      else
        let s1 := modCtx (answer s d 0) ctx fun c => { c with migrating := some ember }
        .ok (startCut s1 ⟨[], workLaunches s1 (.context ctx), some (ctx, ember), [], []⟩))

/-! ### The token watch unit (R277) -/

/-- Whether a row has no place in the context's table (R277, R398). -/
def noRow (s : State) (row : Word) : Bool := decide (4096 ≤ row.toNat) || watchBase s (curCtx s) == 0
/-- A request to the watch unit and the wait for its result: done when the result is there. -/
def askWatch (s : State) (r : WatchReq) (done : State → Word → Eff State) : Eff State :=
  match s.core.watchResult with
  | none => do
    hubRoute s
    .ok (onCore { s with hub := { s.hub with watchQueue := s.hub.watchQueue ++ [r] } }
      fun c => { c with watchResult := some none, blocked := some .watch })
  | some none => .error (.wait .watch)
  | some (some (.error f)) => .error (.fault f.1 f.2)
  | some (some (.ok w)) => done (onCore s fun c => { c with watchResult := none }) w
/-- What follows a TKCMT's result: D written, and the watch trap taken where ACT is TRAP (R64, R277), once a reserved service entry is free
(R25). The result is kept until then, when the entries that wait may be taken (R27). -/
def committed (d : WG) (s : State) (w : Word) : Eff State :=
  if field w.toNat 8 8 = 5 ∧ (s.core.pins[5]).isSome ∧ ¬ svcRoom s then .ok (standIn (onCore s fun c => { c with trapDue := some w }) .memory)
  else if field w.toNat 8 8 = 5 then do
    let s1 ← raiseTrap s 5 0 w (some (s.core.pc + 12))
    .ok (answer s1 d w)
  else .ok (answer s d w)
/-- TKCMT (R148, R277): a v register is named, so a service task may not run it (R27). -/
def execTkcmt (h : Hdr) (cnt : BitVec 6) (d : WG) (a : WGI) (b : V) (s : State) : Host.Outcome State Fault Refusal :=
  .next (userOnly s h fun s =>
    let row := readWGI s a
    match s.core.trapDue with
    | some w => committed d (onCore s fun c => { c with trapDue := none }) w
    | none =>
      if s.core.watchResult = none ∧ noRow s row then .ok (answer s d closedWord)
      else
        let s1 := if s.core.watchResult = none then release s s.core.id .pkg else s
        let toks := (List.range cnt.toNat).map fun i => BitVec.ofNat 24 (lane 32 i (readV s b))
        askWatch s1 (.commit s.core.id (curCtx s) row toks) (committed d))
/-- Whether an image may be written (R277): reserved fields zero, and for an entry an action, a pattern length and an inject count that
exist. -/
def imageOk (idx x : Nat) : Bool :=
  if idx = 4 then field x 4 4 == 0 && field x 232 24 == 0
  else field x 416 96 == 0 && field x 156 4 == 0 && field x 111 1 == 0 && enSound x
/-- TKWSET (R277). -/
def execTkwset (h : Hdr) (idx : BitVec 6) (d : WG) (a : WGI) (b : WG) (s : State) : Host.Outcome State Fault Refusal :=
  .next (scalar s h fun s => do
    let row := readWGI s a
    let n := if idx = 4 then 32 else 64
    if s.core.watchResult = none then
      let off ← ownTarget s (readWG s b) n 8 true
      let x := readOwn s off n
      need (imageOk idx.toNat x) .illegalOperand (pcOf s)
      if noRow s row then .ok (answer s d 3)
      else askWatch s (.setEntry s.core.id (curCtx s) row idx.toNat (toBytes n x)) fun t w => .ok (answer t d w)
    else askWatch s (.setEntry s.core.id (curCtx s) row idx.toNat []) fun t w => .ok (answer t d w))
/-- TKWCLR (R277). -/
def execTkwclr (h : Hdr) (idx : BitVec 6) (d : WG) (a : WGI) (s : State) : Host.Outcome State Fault Refusal :=
  .next (scalar s h fun s =>
    let row := readWGI s a
    if s.core.watchResult = none ∧ noRow s row then .ok (answer s d 3)
    else askWatch s (.clear s.core.id (curCtx s) row idx.toNat) fun t w => .ok (answer t d w))

/-! ### NOTIFY and IDLE (R278, R279) -/

/-- NOTIFY (R278): a release at SYS, then the target. -/
def execNotify (h : Hdr) (a : WG) (b : WGI) (s : State) : Host.Outcome State Fault Refusal :=
  .next (scalar s h fun s => do
    let s1 ← notifyTarget (release s s.core.id .sys) (coreAcc s) (readWG s a) (readWGI s b)
    .ok (advance s1))
/-- IDLE (R279): END, and with nothing left to run the core sleeps until its next run-queue entry. -/
def execIdle (h : Hdr) (s : State) : Host.Outcome State Fault Refusal :=
  .next (userOnly s h fun s =>
    let s1 := endTask s
    .ok (onCore s1 fun c => { c with idling := c.task.isNone && c.svcq.isEmpty && c.runq.isEmpty && c.deque.isEmpty }))

end Sys2Proof.Machine
end

