-- ==== Sys2Proof/Machine/System.lean ====
section
/-!
DEFINITION. Sys2Proof/Machine/System.lean: class 0xE, system (spec/12 R280 to R290), with the special registers of R62 to R67 and CAPS
(R19).
-/
namespace Sys2Proof.Machine

/-! ### Special registers (R19, R61 to R67) -/

/-- A field of the running, or the interrupted, user task; zero where none was running (R63). -/
def taskWord (s : State) (f : Task → Word) : Word :=
  match s.core.task with
  | some t => f t
  | none => 0
/-- A field of the running handler activation's message header; zero for other origins (R63). -/
def msgWord (s : State) (f : MsgHdr → Word) : Word :=
  taskWord s fun t => match t.info.msg with | some m => f m | none => 0
/-- A trap register: zero in a user task (R64). -/
def trapWord (s : State) (x : Word) : Word := if inService s then x else 0
/-- The special register LAUNCH (R63): inside a handler, what the handler last wrote. -/
def launchWord (s : State) : Word :=
  let own := taskWord s fun t => (t.info.origin ++ t.info.sub ++ t.info.gangm ++ t.info.lid).zeroExtend 64
  match s.core.bank, s.core.svc.launchScratch with
  | .service, some x => x.zeroExtend 64
  | _, _ => own
/-- WSPILL.RES: the windows in the hardware; in a fill's handler the RET has counted its own window off already (R60). -/
def residents (c : Core) : Nat := if c.bank = .service ∧ c.svc.cause = 2 then c.below.length else c.below.length + 1
/-- WSPILL (R61). -/
def wspillWord (c : Core) : Word := 0#16 ++ c.wlimit ++ c.wdepth ++ BitVec.ofNat 4 (residents c) ++ 0#4
/-- STALLENG (R66). -/
def stallengWord (c : Core) : Word := c.stallRake ++ c.stallCopy ++ c.stallMatrix ++ c.stallVector
/-- The enabled clusters of a die. -/
def dieOn (f : Fuses) (d : Nat) : Nat := popBelow 32 (field f.clusEn.toNat (32 * d) 32)
/-- CAPS (R19). -/
def capsWord (s : State) : Word :=
  2#8 ++ BitVec.ofNat 8 (enabledCount s) ++ BitVec.ofNat 6 (dieOn s.fuses 3) ++ BitVec.ofNat 6 (dieOn s.fuses 2)
    ++ BitVec.ofNat 6 (dieOn s.fuses 1) ++ BitVec.ofNat 6 (dieOn s.fuses 0) ++ s.fuses.bin ++ s.lgfail ++ 0#12
/-- A special register as SRD reads it, reserved bits zero (R281). -/
def readSpecial (s : State) (r : SReg) : Word :=
  let c := s.core
  let x := getCluster s (clusterOf c.id)
  match r with
  | .core => BitVec.ofNat 64 c.id
  | .rank => BitVec.ofNat 64 (rankOf c.id)
  | .clus => BitVec.ofNat 64 (clusterOf c.id)
  | .die => BitVec.ofNat 64 (dieOf c.id)
  | .island => if isEmber c.id then 1 else 0
  | .ctxid => taskWord s fun t => t.info.ctx.zeroExtend 64
  | .actid => taskWord s fun t => t.actid.zeroExtend 64
  | .entry => taskWord s fun t => (t.info.entry.extractLsb' 0 56).zeroExtend 64
  | .arg => taskWord s fun t => t.info.arg
  | .msgtag => msgWord s fun m => m.tag.zeroExtend 64
  | .msgsrc => msgWord s fun m => m.src.zeroExtend 64
  | .msglen => msgWord s fun m => m.len.zeroExtend 64
  | .launch => launchWord s
  | .stepno => taskWord s fun t => t.stepno.zeroExtend 64
  | .wstack => c.wstack.zeroExtend 64
  | .wspill => wspillWord c
  | .link => (if inService s then c.svc.link else c.win.link).zeroExtend 64
  | .trapcause => trapWord s ((c.svc.tcode ++ c.svc.cause).zeroExtend 64)
  | .trappc => trapWord s (c.svc.trapPc.zeroExtend 64)
  | .trapinfo => trapWord s c.svc.trapInfo
  | .cycle => x.cycle
  | .vfstate => (vfstate x).zeroExtend 64
  | .stallbank => c.stallBank.zeroExtend 64
  | .stalleng => stallengWord c
  | .caps => capsWord s
  | .msimg => msimg
/-- A special register written by SWR; reserved fields ignore what is written (R281). RES of WSPILL is no field that SWR writes, and
outside a handler a write of LAUNCH or TRAPPC is kept by nothing (R61, R63, R64). -/
def writeSpecial (s : State) (r : SReg) (x : Word) : State :=
  match r with
  | .wstack => onCore s fun c => { c with wstack := x.extractLsb' 0 24 }
  | .wspill => onCore s fun c => { c with wlimit := x.extractLsb' 24 24, wdepth := x.extractLsb' 8 16 }
  | .link =>
    if inService s then onCore s fun c => { c with svc := { c.svc with link := x.extractLsb' 0 56 } }
    else onCore s fun c => { c with win := { c.win with link := x.extractLsb' 0 56 } }
  | .launch =>
    if inService s then onCore s fun c => { c with svc := { c.svc with launchScratch := some (x.extractLsb' 0 40) } } else s
  | .trappc => if inService s then onCore s fun c => { c with svc := { c.svc with trapPc := x.extractLsb' 0 56, resume := none } } else s
  | .stallbank => onCore s fun c => { c with stallBank := x.extractLsb' 0 32 }
  | .stalleng =>
    onCore s fun c =>
      { c with stallRake := x.extractLsb' 48 16, stallCopy := x.extractLsb' 32 16, stallMatrix := x.extractLsb' 16 16,
               stallVector := x.extractLsb' 0 16 }
  | .core | .rank | .clus | .die | .island | .ctxid | .actid | .entry | .arg | .msgtag | .msgsrc | .msglen | .stepno | .trapcause
  | .trapinfo | .cycle | .vfstate | .caps | .msimg => s
/-- Whether SWR of a register is privileged: access RP (R62). -/
def SReg.privWrite : SReg → Bool
  | .launch | .wstack | .wspill | .trappc => true
  | .core | .rank | .clus | .die | .island | .ctxid | .actid | .entry | .arg | .msgtag | .msgsrc | .msglen | .stepno | .link | .trapcause
  | .trapinfo | .cycle | .vfstate | .stallbank | .stalleng | .caps | .msimg => false

/-- SRD (R281). -/
def execSrd (h : Hdr) (d : WG) (a : SReg) (s : State) : Host.Outcome State Fault Refusal :=
  .next (scalar s h fun s => .ok (advance (writeWG s d (readSpecial s a))))
/-- SWR (R62, R281). A register of access R does not decode as its D (R62). -/
def execSwr (h : Hdr) (d : SReg) (a : WGI) (s : State) : Host.Outcome State Fault Refusal :=
  let k := fun s => Except.ok (advance (writeSpecial s d (readWGI s a)))
  .next (if SReg.privWrite d then privOnly s h k else scalar s h k)

/-! ### Translations (R96, R282) -/

/-- Whether a TLBINV removes a translation of a context's page. -/
def invalidates (q : InvKind × CtxId × Word) (ctx : CtxId) (covers : Nat → Bool) : Bool :=
  match q.1 with
  | .all => true
  | .ctx => ctx == q.2.1
  | .page => ctx == q.2.1 && covers q.2.2.toNat
/-- Whether it removes a held translation. -/
def removesTlb (q : InvKind × CtxId × Word) (t : Tlb) : Bool := invalidates q t.ctx fun va => t.vpage == va / pageSize t.level
/-- Whether it concerns a walk in progress: of a page in which the walk's address lies (R93, R96). -/
def nearWalk (s : State) (q : InvKind × CtxId × Word) (w : Walk) : Bool := invalidates q w.ctx fun va => samePage s w.ctx w.va.toNat va
/-- TLBINV (R282): it reaches every die and the hub over routes that remain (R18), the walks it concerns are discarded, and the task waits until
TLB_INVALIDATION_COMPLETE. -/
def execTlbinv (h : Hdr) (k : InvKind) (a b : WG) (s : State) : Host.Outcome State Fault Refusal :=
  .next (privOnly s h fun s =>
    match s.core.invalidating with
    | some (some _) => .error (.wait .tlbinv)
    | some none => .ok (advance (onCore s fun c => { c with invalidating := none }))
    | none => do
      need ((List.range 5).all fun d => reaches s (cacheOf (coreAcc s)) d) .machineCheck (pcOf s)
      let q := (k, (readWG s b).extractLsb' 0 10, readWG s a)
      let s1 := { s with walks := s.walks.map fun w => if nearWalk s q w then { w with discarded := true } else w }
      .ok (onCore s1 fun c => { c with invalidating := some (some q), blocked := some .tlbinv }))

/-! ### The generator (R113, R283) -/

/-- SEED (R283). -/
def execSeed (h : Hdr) (a : WGI) (s : State) : Host.Outcome State Fault Refusal :=
  .next (scalar s h fun s => .ok (advance (onCore s fun c => { c with genS := readWGI s a })))
/-- RAND (R283). -/
def execRand (h : Hdr) (d : WG) (s : State) : Host.Outcome State Fault Refusal :=
  .next (scalar s h fun s =>
    let n := genStep s.core.genS
    .ok (advance (writeWG (onCore s fun c => { c with genS := n }) d ((n.extractLsb' 32 32).zeroExtend 64))))

/-! ### Links, steps and rails (R284, R285) -/

/-- LTURN's status and the link it leaves, by the tests of R284 in order. -/
def turnStatus (l : Link) (ctx : CtxId) (b : Word) : Word × Link :=
  if !(l.holder.any fun x => x.1 == ctx) then (1, l)
  else if !l.inService || decide (b.toNat < 2) || decide (l.count < b.toNat + 2) then (3, l)
  else if 4 ≤ l.turns.length then (2, l)
  else (0, { l with turns := l.turns ++ [b.extractLsb' 0 5] })
/-- LTURN (R284). -/
def execLturn (h : Hdr) (d : WG) (a b : WGI) (s : State) : Host.Outcome State Fault Refusal :=
  .next (scalar s h fun s =>
    let n := (readWGI s a).toNat
    if hn : n < 8 then
      let (st, l) := turnStatus s.links[n] (curCtx s) (readWGI s b)
      .ok (answer { s with links := s.links.set n l } d st)
    else .ok (answer s d 3))
/-- Whether PWRREQ accepts a step on a core (R285). -/
def stepOk (s : State) (x : Word) : Bool :=
  if isEmber s.core.id then decide (2 ≤ x.toNat) && decide (x.toNat ≤ 24)
  else decide (16 ≤ x.toNat) && decide (x.toNat ≤ boostStep s.fuses)
/-- PWRREQ (R285). -/
def execPwrreq (h : Hdr) (d : WG) (a : WGI) (s : State) : Host.Outcome State Fault Refusal :=
  .next (scalar s h fun s =>
    let x := readWGI s a
    if stepOk s x then .ok (requestStep (answer s d 0) (clusterOf s.core.id) (x.extractLsb' 0 8))
    else .ok (answer s d 1))
/-- RAILSEL (R146, R285). -/
def execRailsel (h : Hdr) (d : WG) (a b : WGI) (s : State) : Host.Outcome State Fault Refusal :=
  .next (privOnly s h fun s =>
    let c := (readWGI s a).toNat
    let r := readWGI s b
    if c < 128 ∧ enabled s c = true ∧ r.toNat ≤ 3 then
      .ok (answer (modCluster s c fun x => { x with pend := true, newRail := r.extractLsb' 0 2 }) d 0)
    else .ok (answer s d 1))

/-! ### Trace marks, breakpoints, returning (R286, R287) -/

/-- TRMARK (R286, R375). -/
def execTrmark (h : Hdr) (a : WGI) (s : State) : Host.Outcome State Fault Refusal :=
  .next (scalar s h fun s =>
    if traces (getCluster s (clusterOf s.core.id)) 0 false then .ok (advance (traceRec s s.core.id 2 [readWGI s a]))
    else .ok (advance s))
/-- BKPT (R286): trap cause 0x06, raised at the instruction itself; one that a service task executes is a machine check (R321). -/
def execBkpt (h : Hdr) (a : BitVec 14) (s : State) : Host.Outcome State Fault Refusal :=
  .next (scalar s h fun s => do
    need (!inService s) .illegalInsn s.core.pc
    raiseTrap s 6 0 (immWord a) (some s.core.pc))
/-- ERET (R287): the service task ends and the user task resumes at TRAPPC; it is illegal elsewhere, whoever runs. -/
def execEret (h : Hdr) (s : State) : Host.Outcome State Fault Refusal :=
  .next (if inService s then scalar s h fun s => .ok (returnTrap s) else illegal s)
/-- A word of a machine-check block (R326). -/
def mcWord (m : McBlock) (n : Nat) : Word :=
  match n with
  | 0 => (if m.valid then 1#1 else 0#1) ++ 0#7 ++ m.src ++ m.bank ++ 0#24 ++ m.fcode
  | 1 => m.synd
  | 2 => m.maddr
  | 3 => m.mcyc
  | 4 => m.corr.zeroExtend 64
  | _ => 0
/-- MCRD (R287). -/
def execMcrd (h : Hdr) (d : WG) (a : WGI) (s : State) : Host.Outcome State Fault Refusal :=
  .next (privOnly s h fun s => .ok (answer s d (mcWord s.core.mcb ((readWGI s a).toNat % 8))))
/-- HALT (R287): the task ends and the core is halted, its state kept; a service task that halts ends too, and the user task it
interrupted stays where it was until the core restarts. -/
def execHalt (h : Hdr) (s : State) : Host.Outcome State Fault Refusal :=
  .next (privOnly s h fun s =>
    let s1 := if inService s then returnTrap s else endTask s
    .ok (onCore s1 fun c => { c with halted := true }))

/-! ### The pin table (R141, R142, R288) -/

/-- A pin image, laid out as R141; REC is 64-byte aligned, and its low bits are ignored (log 55). -/
def pinImage (x : Nat) : Pin :=
  { cbase := BitVec.ofNat 56 (x / 2 ^ 200), clen := BitVec.ofNat 24 (x / 2 ^ 176), dbase := BitVec.ofNat 19 (x / 2 ^ 157),
    dlen := BitVec.ofNat 14 (x / 2 ^ 143), record := BitVec.ofNat 19 (x / 2 ^ 130 * 64), entry := BitVec.ofNat 56 (x / 2 ^ 68) }
/-- Whether the page that holds a virtual address is present and pinned. -/
def pagePinned (s : State) (ctx : CtxId) (va : Nat) : Bool :=
  match getCtx s ctx with
  | none => false
  | some c =>
    decide (va < 2 ^ 56) &&
      (match walkFrom s.mem va 3 c.root.toNat with
        | some (e, _, _) => !(pteCold e) && ptePin e
        | none => false)
/-- The 64 KiB granules of a range of addresses. -/
def granulesOf (base len : Nat) : List Nat :=
  if len = 0 then [] else (List.range ((base + len - 1) / 2 ^ 16 + 1 - base / 2 ^ 16)).map fun i => (base / 2 ^ 16 + i) * 2 ^ 16
/-- Whether bytes [lo, lo + n) lie inside a region of local memory. -/
def inRegion (r : Pin) (lo n : Nat) : Bool := decide (r.dbase.toNat ≤ lo) && decide (lo + n ≤ r.dbase.toNat + 64 * r.dlen.toNat)
/-- The status of PINSET's checks for an entry (R142): the first that fails, or 0. -/
def pinStatus (s : State) (idx : Nat) (p : Pin) : Nat :=
  let data := fun (q : Pin) => (q.dbase.toNat, 64 * q.dlen.toNat)
  if idx = 7 then
    let others := ((List.range 7).filterMap fun i => s.core.pins[i]?.getD none)
    if decide ((data p).1 + (data p).2 ≤ 2 ^ 19) && others.all fun q => inRegion p (data q).1 (data q).2 then 0 else 2
  else if !((granulesOf p.cbase.toNat p.clen.toNat).all (pagePinned s (curCtx s))) then 1
  else if !(match s.core.pins[7] with
      | some r => inRegion r (data p).1 (data p).2 && inRegion r p.record.toNat 64
      | none => false) then 2
  else if decide (p.cbase.toNat ≤ p.entry.toNat) && decide (p.entry.toNat < p.cbase.toNat + p.clen.toNat) && p.entry.toNat % 4 == 0 then 0
  else 3
/-- PINSET (R288). -/
def execPinset (h : Hdr) (idx : BitVec 6) (d a : WG) (s : State) : Host.Outcome State Fault Refusal :=
  .next (privOnly s h fun s => do
    let off ← ownTarget s (readWG s a) 32 8 true
    let p := pinImage (readOwn s off 32)
    let q := if idx = 7 then { p with cbase := 0, clen := 0, record := 0, entry := 0 } else p
    let st := pinStatus s idx.toNat p
    let s1 := if st = 0 then onCore s fun c => { c with pins := c.pins.setIfInBounds idx.toNat (some q) } else s
    .ok (answer s1 d (BitVec.ofNat 64 st)))

/-! ### Delay accounts and CSYNC (R289, R290) -/

/-- An account: COUNT and SUM (R158). -/
def account (c : Core) (n : Nat) : BitVec 64 × BitVec 64 := (assocGet c.dly n).getD (0, 0)
/-- DLYRD (R289): SUM, then COUNT. -/
def execDlyrd (h : Hdr) (d : WG) (a : WGI) (s : State) : Host.Outcome State Fault Refusal :=
  .next (scalar s h fun s =>
    let n := (readWGI s a).toNat
    let x := if n < 110 then account s.core n else (0, 0)
    .ok (answer (writeWG s d x.2) (nextReg d) x.1))
/-- DLYCLR (R289). -/
def execDlyclr (h : Hdr) (a : WGI) (s : State) : Host.Outcome State Fault Refusal :=
  .next (scalar s h fun s =>
    let n := (readWGI s a).toNat
    .ok (advance (onCore s fun c => { c with dly := if n = 128 then [] else assocDel c.dly n })))
/-- CSYNC (R290): earlier stores performed, and what was fetched ahead dropped; the loop buffer stays. -/
def execCsync (h : Hdr) (s : State) : Host.Outcome State Fault Refusal :=
  .next (scalar s h fun s => .ok (advance (onCore (drainAll s s.core.id) fun c => { c with ibuf := [] })))

end Sys2Proof.Machine
end

