-- ==== Sys2Proof/Machine/EvCore.lean ====
section
/-!
DEFINITION. Sys2Proof/Machine/EvCore.lean: the events of a core's tasks and messages: reset of the device, the choice and start of a task
(R20 to R26, R35, R60, R63, R133), service entries (R27, R55, R57, R61), the watchdog (R23), and the arrival of messages (R28 to R32,
R41). An event that is not enabled leaves the state as it is (log 24).
-/
namespace Sys2Proof.Machine

/-- A state as the outcome of an event. -/
abbrev Happened := Host.Outcome State Fault Refusal

/-! ### Reset -/

/-- DEVICE_RESET: the part's whole state as its fuses and its link training leave it (R14, R19, R400); host memory and flash are not the
part's and stay. -/
def resetDevice (s : State) (fu : Fuses) : State :=
  { State.boot fu with
    mem := s.mem.filter fun p => decide (2 ^ 47 ≤ p.1) && decide (p.1 < 2 ^ 48)
    flash := s.flash, free := s.free, agenda := s.agenda }
/-- DEVICE_RESET. -/
def execDeviceReset (s : State) : Happened :=
  match s.now with
  | some (.deviceReset fu) => .next (resetDevice s fu)
  | _ => .next s

/-! ### Starting a task (R20 to R26) -/

/-- Whether a core may choose a task (R26, R287, R311, R380): it exists, its cluster's clock can run, no task and no service task runs or
waits, and it is not halted, stopped or being cleared. -/
def mayChoose (s : State) (k : Nat) : Bool :=
  let c := getCore s k
  let x := getCluster s (clusterOf k)
  coreEnabled s k && (x.pstate == .run || x.pstate == .idle) && !x.moving && !x.gated && c.task.isNone && c.bank == .user && c.svcq.isEmpty
    && !c.halted && !c.debugStop && !c.debugStopped && !c.clearing
/-- Whether a task may start now: no cut names its launch (R327). -/
def startable (s : State) (t : TaskInfo) : Bool := !(cutNames s t.ctx t.lid)
/-- Where the first run-queue entry of a class that may start stands. -/
def firstOf (s : State) (c : Core) (cls : RunClass) : Option Nat := c.runq.findIdx? fun e => e.cls == cls && startable s e.task
/-- The core's next task in the order of R26, and the core without it. -/
def chooseTask (s : State) (c : Core) : Option (TaskInfo × Core) :=
  let fromQueue := fun (i : Nat) => (c.runq[i]?).map fun e => (e.task, { c with runq := dropAt c.runq i })
  match firstOf s c .handler with
  | some i => fromQueue i
  | none =>
    match c.deque with
    | t :: r => if startable s t then some (t, { c with deque := r }) else (firstOf s c .spawned).bind fromQueue
    | [] => (firstOf s c .spawned).bind fromQueue

/-- The sub-launch of a task. -/
def subOf (s : State) (t : TaskInfo) : Option SubLaunch := (getLaunch s t.ctx t.lid).bind fun l => l.subs[t.sub.toNat]?
/-- A ring as a launch's descriptor list declares it (R133). -/
def ringEntry (x : BitVec 128) : RingEntry :=
  { RingEntry.zero with count := x.extractLsb' 117 7, ssize := x.extractLsb' 107 10, base := x.extractLsb' 88 19, valid := true }
/-- The check of a declared ring (R133): ALIGN, then LM_ADDR, with the ring's base as the address. -/
def ringFault (r : RingEntry) : Option (FCode × Word) :=
  let at_ := BitVec.ofNat 64 (localBase + r.base.toNat)
  if r.base.extractLsb' 0 6 ≠ 0 then some (.align, at_)
  else if r.count = 0 ∨ 64 < r.count.toNat ∨ r.ssize = 0 ∨ 2 ^ 19 < r.base.toNat + 64 * r.ssize.toNat * r.count.toNat then some (.lmAddr, at_)
  else none
/-- The rings of a launch declared on a core by its first task there (R133), and the first fault among them; its later tasks share them. An
entry that another live launch has declared is taken over (log 45). -/
def declareRings (s : State) (k : Nat) (t : TaskInfo) (l : List (BitVec 128)) : State × Option (FCode × Word) :=
  let w := (t.ctx, t.lid)
  if l.isEmpty ∨ w ∈ (getCore s k).ringDecls then (s, none)
  else
    (modCore s k fun c => { c with
        rings := Vector.ofFn fun i => match l[i.val]? with | some x => ringEntry x | none => c.rings[i]
        ringOwners := Vector.ofFn fun i => if i.val < l.length then some w else c.ringOwners[i]
        ringDecls := c.ringDecls ++ [w] },
      (l.map ringEntry).findSome? ringFault)

/-- The registers of a task at its start (R21, R60, R63, R66); the accumulator store and the latch of another context are gone, or go before the
task's first matrix command where commands queued for them are still to be performed (R87, R258). -/
def startOn (t : TaskInfo) (g : Vector Word 8) (wsbase wsend : BitVec 24) (wdog : BitVec 33) (priv : Bool) (c : Core) : Core :=
  let same := c.lastCtx == some t.ctx
  let busy := !c.mq.isEmpty || c.mrun.isSome
  { c with
    pc := t.entry, srcPc := t.entry, bank := .user
    win := { w := (Vector.replicate 16 0).set 0 t.arg, link := 0 }, out := Vector.replicate 8 0, below := [], g := g
    v := Vector.replicate 32 0, p := predsZero, wstack := wsbase, wlimit := wsend, wdepth := 0
    task := some { info := t, actid := BitVec.ofNat 32 c.nextAct, stepno := 0, wdog := 0, wdogLimit := wdog, privileged := priv }
    nextAct := c.nextAct + 1, loop := { c.loop with rem := 0, on := false }, loopBuf := [], ibuf := [], early := []
    stallBank := 0, stallVector := 0, stallMatrix := 0, stallCopy := 0, stallRake := 0, blocked := none, atBarrier := false
    cutAck := none, cutGoal := none, idling := false, lastCtx := some t.ctx
    acc := if same || busy then c.acc else [], latch := if same || busy then c.latch else none, accStale := if same then c.accStale else busy }
/-- The acquire with which a task starts: PKG for a unit of new work (R273), the message's scope for the activation of a releasing send
(R28, R301). -/
def startAcquire (s : State) (k : Nat) (t : TaskInfo) : State :=
  match t.msg with
  | some m => if m.rel then acquire s k m.scope else s
  | none => if t.origin = 0 ∨ t.origin = 1 then acquire s k .pkg else s
/-- The ACT record of core k's running task (R375, R376). -/
def actRecord (s : State) (k : Nat) : State :=
  match (getCore s k).task with
  | none => s
  | some t =>
    if traces (getCluster s (clusterOf k)) 2 true then
      let m := t.info.msg
      let tag := match m with | some x => x.tag | none => 0
      let src := match m with | some x => x.src | none => 0
      let mid := match m with | some x => x.msgid | none => 0
      traceRec s k 4 [(t.info.entry.extractLsb' 0 56).zeroExtend 64, t.actid ++ 0#16 ++ tag, t.info.lid ++ 0#1 ++ src ++ mid]
    else s
/-- A task started on core k, whose cluster runs from then on (R350): its rings are checked before its first instruction. -/
def startTask (s : State) (k : Nat) (t : TaskInfo) : State :=
  let sub := subOf s t
  let g := match sub with | some x => x.globals | none => Vector.replicate 8 0
  let base := match sub with | some x => x.wsbase | none => 0
  let stop := match sub with | some x => x.wsend | none => 0
  let wdog := match sub with | some x => x.wdog | none => BitVec.ofNat 33 (2 ^ 32)
  let priv := match getLaunch s t.ctx t.lid with | some l => l.privileged | none => false
  let rings := match sub with | some x => x.rings | none => []
  let s1 := modCluster (startAcquire s k t) (clusterOf k) fun x => { x with pstate := .run }
  let (s2, bad) := declareRings s1 k t rings
  let s3 := actRecord (modCore s2 k (startOn t g base stop wdog priv)) k
  match bad, (getCore s3 k).task with
  | some (c, a), some u => faultLaunch s3 t.ctx (preciseRec (focus s3 k) u t.entry c .scalar a) c
  | _, _ => s3
/-- What core k would start now (R26), and the core without it. -/
def nextTask (s : State) (k : Nat) : Option (TaskInfo × Core) := if mayChoose s k then chooseTask s (getCore s k) else none
/-- Whether a core would start its member of the gang of a task now. -/
def memberReady (s : State) (t : TaskInfo) (g : Gang) (k : Nat) : Bool :=
  match nextTask s k with
  | some (u, _) => memberOf g t.ctx t.lid u
  | none => false
/-- The task that core k would start, started. -/
def startNext (s : State) (k : Nat) : State :=
  match nextTask s k with
  | some (t, c) => startTask (setCore s c) k t
  | none => s
/-- NEXT_TASK_CHOICE (R26): the members of a gang start together, once each is the next task of its core (R36). -/
def execNextTaskChoice (s : State) : Happened :=
  match s.now with
  | some (.nextTaskChoice k) =>
    .next (match nextTask s k with
      | none => s
      | some (t, _) =>
        match t.gang with
        | none => startNext s k
        | some g =>
          if (gangCores g).all (memberReady s t g) then
            (gangCores g).foldl (fun acc j => if memberReady acc t g j then startNext acc j else acc) s
          else s)
  | _ => .next s

/-- The peers of a core in the order in which a thief examines them (R35). -/
def peersOf (k : Nat) : List Nat := (List.range 7).map fun i => 8 * clusterOf k + (rankOf k + 1 + i) % 8
/-- The top of a peer's deque, where it belongs to the thief's context. -/
def topFor (s : State) (owner : Option CtxId) (v : Nat) : Option TaskInfo :=
  match (getCore s v).deque.getLast? with
  | some t => if owner = some t.ctx ∧ startable s t then some t else none
  | none => none
/-- STEAL (R35): the core has nothing of its own to run; one that IDLE put to sleep does not look (R279). -/
def execSteal (s : State) : Happened :=
  match s.now with
  | some (.steal k) =>
    let c := getCore s k
    .next (if mayChoose s k && c.runq.isEmpty && c.deque.isEmpty && !c.idling then
        match (peersOf k).findSome? fun v => (topFor s c.owner v).map fun t => (v, t) with
        | some (v, t) => startTask (modCore s v fun x => { x with deque := x.deque.dropLast }) k t
        | none => s
      else s)
  | _ => .next s

/-! ### Service tasks (R27, R55, R57, R61) -/

/-- The bytes of a window in the window stack (R56). -/
def frameBytes (f : Frame) : List Byte := (f.w.toList.flatMap fun x => toBytes 8 x.toNat) ++ toBytes 8 f.link.toNat
/-- A window read back from 136 bytes. -/
def frameOf (x : Nat) : Frame :=
  { w := Vector.ofFn fun i => BitVec.ofNat 64 (x / 2 ^ (64 * i.val)), link := BitVec.ofNat 56 (x / 2 ^ 1024) }
/-- The code with which a window slot cannot be accessed (R61, R73): a pointer with its peer flag or low bits set, or a slot that is not
all local memory. -/
def slotFault (p : BitVec 24) (slot : BitVec 24) : Option FCode :=
  if p.getLsbD 23 then some .lmAddr
  else if p.extractLsb' 0 3 ≠ 0 then some .align
  else if slot.toNat.testBit 19 ∨ (slot.toNat + 135).testBit 19 then some .lmAddr
  else none
/-- The spill transfer of the focus core (R57): the oldest resident window to WSTACK. -/
def spillWindow (s : State) : State :=
  match s.core.below.getLast? with
  | none => s
  | some f =>
    let s1 := drainAll s s.core.id
    let off := s1.core.wstack.toNat % 2 ^ 19
    let s2 := { s1 with mem := memSetAll s1.mem ((frameBytes f).zipIdx.map fun b => (localKey s1.core.id (off + b.2), b.1)) }
    onCore s2 fun c => { c with below := c.below.dropLast, wstack := c.wstack + 136, wdepth := c.wdepth + 1 }
/-- The fill transfer of the focus core (R57): the caller's window from the slot below WSTACK. -/
def fillWindow (s : State) : State :=
  let p := s.core.wstack - 136
  let f := frameOf (readOwn s (p.toNat % 2 ^ 19) 136)
  onCore s fun c => { c with below := c.below ++ [f], wstack := p, wdepth := c.wdepth - 1 }
/-- A service entry on the focus core: the transfer of a spill or a fill, or the machine check it ends in, and the handler's entry. -/
def enterService (s : State) (r : SvcReq) (p : Pin) : State :=
  let slot := if r.cause = 1 then s.core.wstack else s.core.wstack - 136
  let bad := if r.cause = 1 ∨ r.cause = 2 then slotFault s.core.wstack slot else none
  match bad with
  | some f => machineCheck s s.core.id 9 0 f.code 0 (s.core.wstack.zeroExtend 64) (curCtx s)
  | none => takeTrap (if r.cause = 1 then spillWindow s else if r.cause = 2 then fillWindow s else s) r p
/-- Whether a core's task stands where a service task may be taken: not in an instruction that has begun (R27). A TKCMT whose own trap waits for
room in the run queue lets the first of the entries there go before it (R25). -/
def betweenInsns (c : Core) : Bool :=
  c.sending.isNone && c.invalidating.isNone && c.watchResult.isNone && (c.trapDue.isNone || decide (4 ≤ c.svcq.length))
/-- SERVICE_TASK_ENTRY (R27): the first service entry is taken at an instruction boundary, also on a halted or stopped core (R287, R380). -/
def execServiceTaskEntry (s : State) : Happened :=
  match s.now with
  | some (.serviceTaskEntry k) =>
    let c := getCore s k
    let x := getCluster s (clusterOf k)
    .next (if coreEnabled s k && (x.pstate == .run || x.pstate == .idle) && !x.gated && !c.clearing && c.bank == .user && betweenInsns c then
        match c.svcq with
        | [] => s
        | r :: rest =>
          let s1 := focus (modCluster (modCore s k fun y => { y with svcq := rest }) (clusterOf k) fun y => { y with pstate := .run }) k
          match s1.core.pins[r.cause.toNat]?.getD none with
          | some p => enterService s1 r p
          | none => s1
      else s)
  | _ => .next s

/-! ### The watchdog (R23, R156) -/

/-- STEP_WATCHDOG_EXPIRY: the count has reached the launch's limit. -/
def execStepWatchdogExpiry (s : State) : Happened :=
  match s.now with
  | some (.stepWatchdogExpiry k) =>
    .next (match (getCore s k).task with
      | some t =>
        if t.wdogLimit.toNat ≤ t.wdog.toNat ∧ (getCore s k).bank = .user then raise (focus s k) .scalar .hang 0 else s
      | none => s)
  | _ => .next s

/-! ### Messages (R28 to R32, R41) -/

/-- The route drop count of a core (R161). -/
def dropCount (s : State) (k : Nat) : State := modCore s k fun c => { c with routeDrops := satAdd c.routeDrops 1 }
/-- A message of the network replaced, or taken out once nothing of it is left to deliver. -/
def putMsg (s : State) (i : Nat) (m : NetMsg) : State :=
  { s with network := if m.beats.isEmpty && (m.dropped || m.chan.isSome) then dropAt s.network i else s.network.set i m }
/-- Whether an earlier message of the same source, tag and destination still waits with its header (R30). -/
def overtakes (s : State) (i : Nat) (m : NetMsg) : Bool :=
  (s.network.take i).any fun x => x.chan.isNone && !x.dropped && x.dest == m.dest && x.hdr.src == m.hdr.src && x.hdr.tag == m.hdr.tag
/-- The run-queue entry of a handler activation (R29). -/
def handlerEntry (ch : Channel) (n : Chan) : RunEntry :=
  ⟨.handler, { entry := ch.entry.zeroExtend 64, arg := ch.arg, origin := 2, ctx := ch.ctx, lid := ch.lid, sub := 0, gangm := 0, gang := none,
               msg := some ch.hdr, chan := some n, joinAddr := none }⟩
/-- A channel's last message with its run-queue entry made, where a general entry is free and the launch's counter has room (R31, R157);
else its header waits at the head of the channel. -/
def enqueueHeader (s : State) (k : Nat) (n : Chan) (ch : Channel) : State :=
  let room := decide ((getCore s k).runq.length < 28) &&
    (match getLaunch s ch.ctx ch.lid with | some l => decide (l.count + 1 < 2 ^ 32) | none => true)
  let put := fun (x : Channel) (c : Core) => { c with chans := c.chans.set n.val (c.chans[n.val].map fun y => if y.hdr = x.hdr then x else y) }
  if room then
    let s1 := modCore s k fun c => { put { ch with waiting := false } c with runq := c.runq ++ [handlerEntry ch n] }
    countUp (rouse s1 (clusterOf k)) ch.ctx ch.lid 1
  else modCore s k (put { ch with waiting := true })
/-- A header that a route takes: into its channel, with a handler entry or for a clamp; it waits behind headers that wait already. -/
def acceptHeader (s : State) (i : Nat) (m : NetMsg) (r : Route) : State :=
  let ch : Channel :=
    { hdr := m.hdr, ctx := m.ctx, beats := [], arrived := 0, waiting := !r.kind, clamp := if r.kind then some r.clamp.toNat else none,
      discard := false, entry := r.entry, arg := r.arg, lid := r.lid }
  let s1 := modCore s m.dest fun c => { c with chans := c.chans.set r.chan.val (c.chans[r.chan.val] ++ [ch]) }
  let s2 := putMsg s1 i { m with chan := some r.chan }
  if r.kind || headerWaits (getCore s m.dest) then s2 else enqueueHeader s2 m.dest r.chan ch
/-- MESSAGE_HEADER_ARRIVAL (R29, R30, R41, R134): a tag that is not bound in the message's context, a clamp that is not declared, and a clamp
message without payload drop the message; one that no route is left for is a machine check on its source (R18). -/
def headerArrives (s : State) (i : Nat) (m : NetMsg) : State :=
  let c := getCore s m.dest
  let drop := dropCount (putMsg s i { m with dropped := true }) m.dest
  if !(reaches s (outDie m.hdr.src.toNat) (dieOf m.dest)) then
    noRoute { s with network := dropAt s.network i } m.hdr.src.toNat m.ctx 0
  else
  match c.routes.find? fun r => r.tag == m.hdr.tag && r.ctx == m.ctx with
  | none => drop
  | some r =>
    if r.kind ∧ ((clampOf c r.clamp.toNat).isNone = true ∨ m.hdr.len = 0) then drop
    else if (c.chans[r.chan.val]).any fun ch => !(tailIn ch) then s
    else acceptHeader s i m r
/-- MESSAGE_HEADER_ARRIVAL. -/
def execMessageHeaderArrival (s : State) : Happened :=
  match s.now with
  | some (.messageHeaderArrival i) =>
    .next (match s.network[i]? with
      | some m => if m.chan.isNone && !m.dropped && !(overtakes s i m) then headerArrives s i m else s
      | none => s)
  | _ => .next s
/-- The header of a channel that waits for a run-queue entry of its core, where its launch's counter has room for it (R31, R157). -/
def readyHeader (s : State) (k : Nat) (n : Chan) : Option Channel :=
  ((getCore s k).chans[n.val].find? fun x => x.waiting).filter fun ch =>
    match getLaunch s ch.ctx ch.lid with | some l => decide (l.count + 1 < 2 ^ 32) | none => true
/-- HEADER_QUEUE_ENTRY (R31, R49): the oldest header that waits in a channel gets its entry when one is free; of several channels that wait the
lowest-numbered one comes first (R123). -/
def execHeaderQueueEntry (s : State) : Happened :=
  match s.now with
  | some (.headerQueueEntry k ch) =>
    .next (match readyHeader s k ch with
      | some x => if (List.finRange 8).any fun n => decide (n.val < ch.val) && (readyHeader s k n).isSome then s else enqueueHeader s k ch x
      | none => s)
  | _ => .next s

/-- The first beat of a clamp message (R41): the element it names is woken, or the message counts as dropped. -/
def clampBeat (s : State) (k n : Nat) (b : VReg) : State :=
  match clampOf (getCore s k) n with
  | none => dropCount s k
  | some c =>
    let i := (b.extractLsb' 0 16).toNat
    if c.size ≤ i then dropCount s k else wakeElement s k n i (b.extractLsb' 16 8)
/-- A beat that enters channel n, into the entry of its message (R30, R32). -/
def beatEnters (s : State) (k : Nat) (n : Chan) (hdr : MsgHdr) (b : VReg) : State :=
  match (getCore s k).chans[n.val].find? fun x => x.hdr == hdr with
  | none => s
  | some ch =>
    let ch1 := { ch with arrived := ch.arrived + 1, beats := if ch.discard || ch.clamp.isSome then ch.beats else ch.beats ++ [b] }
    let gone := tailIn ch1 && (ch1.discard || ch1.clamp.isSome)
    let s1 := modCore s k fun c =>
      { c with chans := c.chans.set n.val (c.chans[n.val].filterMap fun x => if x.hdr = hdr then (if gone then none else some ch1) else some x) }
    match ch.clamp with
    | some q => if ch.arrived = 0 then clampBeat s1 k q b else s1
    | none => s1
/-- Whether a channel takes one more beat of a message: it holds 64, discards without holding, and goes on taking the beats of a message that a
cut captures (R399). -/
def channelRoom (s : State) (c : Core) (n : Chan) (hdr : MsgHdr) : Bool :=
  let held := (c.chans[n.val].map fun x => x.beats.length).foldl (· + ·) 0
  let captured := fun (x : Channel) => s.cuts.any fun y => y.stage == 2 && y.ownsMsg x
  decide (held < 64) || (c.chans[n.val]).any fun x => x.hdr == hdr && (x.discard || x.clamp.isSome || captured x)
/-- A message that loses its route on the way (R18): it is gone, with the entry of its channel, and its source gets a machine check. -/
def loseMessage (s : State) (i : Nat) (m : NetMsg) : State :=
  let s1 := match m.chan with
    | some n => modCore s m.dest fun c => { c with chans := c.chans.set n.val (c.chans[n.val].filter fun x => x.hdr != m.hdr) }
    | none => s
  noRoute { s1 with network := dropAt s.network i } m.hdr.src.toNat m.ctx 0
/-- MESSAGE_BEAT_ARRIVAL (R30, R32): the message's next beat, over a route that remains (R18). -/
def execMessageBeatArrival (s : State) : Happened :=
  match s.now with
  | some (.messageBeatArrival i) =>
    .next (match s.network[i]? with
      | some m =>
        if !(reaches s (outDie m.hdr.src.toNat) (dieOf m.dest)) then loseMessage s i m else
        match m.beats, m.dropped, m.chan with
        | _ :: r, true, _ => putMsg s i { m with beats := r }
        | b :: r, false, some n =>
          if channelRoom s (getCore s m.dest) n m.hdr then beatEnters (putMsg s i { m with beats := r }) m.dest n m.hdr b else s
        | _, _, _ => s
      | none => s)
  | _ => .next s
/-- The message that core k sent last, as long as some of it is in the network. -/
def lastSent (s : State) (k : Nat) : Option NetMsg :=
  s.network.find? fun m => m.hdr.src.toNat == k && m.hdr.msgid == (getCore s k).nextMsg - 1
/-- Whether the network takes the tail of core k's message: no more of it is left to deliver than the network between has room for, which the
spec does not give (R31; log 91). -/
def tailLeaves (s : State) (k : Nat) : Bool :=
  match lastSent s k with
  | none => true
  | some m => decide (m.beats.length ≤ (freeWord s.free).toNat)
/-- SEND_TAIL_INJECTED (R254): the tail has left the core. -/
def execSendTailInjected (s : State) : Happened :=
  match s.now with
  | some (.sendTailInjected k) =>
    let s1 := if tailLeaves s k then modCore s k fun c => if c.sending = some true then { c with sending := some false } else c else s
    .next { s1 with free := s1.free + 1 }
  | _ => .next s

end Sys2Proof.Machine
end

