-- ==== Sys2Proof/Machine/EvMemory.lean ====
section
/-!
DEFINITION. Sys2Proof/Machine/EvMemory.lean: the events of the memory system: the store buffer (R295), responses and delay accounts (R81,
R158, R159), the directory (R82, R86, R145), evictions (R84), translation walks (R93) and the end of a TLBINV (R96, R282).
-/
namespace Sys2Proof.Machine

/-- STORE_BUFFER_DRAIN (R208, R295): core k's oldest store is performed, or a byte of it where it is misaligned. -/
def execStoreBufferDrain (s : State) : Happened :=
  match s.now with
  | some (.storeBufferDrain k) => .next (drainStep s k)
  | _ => .next s

/-! ### Responses (R81, R158, R159) -/

/-- One access added to a delay account; both words saturate. -/
def addDelay (c : Core) (n : Nat) (delay : BitVec 12) : Core :=
  if n < 110 then
    let (count, sum) := account c n
    { c with dly := assocSet c.dly n (satAdd count 1, satAdd sum delay.toNat) }
  else c
/-- The zero flag of a line whose 128 bytes arrived all zero (R81). -/
def flagZero (m : List Host.Cell) (line : Nat) (l : Line) : Line :=
  if l.addr ≠ line then l
  else
    match l.st with
    | .rc | .rd => if l.valid = BitVec.allOnes 128 ∧ l.data = 0 then { l with zero := true } else l
    | .s | .e | .m => if memRead m (line * 128) 128 = 0 then { l with zero := true } else l
/-- MEMORY_RESPONSE: response i of core k arrives after a delay. -/
def execMemoryResponse (s : State) : Happened :=
  match s.now with
  | some (.memoryResponse k i delay) =>
    .next (match (getCore s k).responses[i]? with
      | some r => modCore s k fun c =>
          { addDelay c r.account delay with
            responses := dropAt c.responses i, l1 := match r.line with | some a => c.l1.map (flagZero s.mem a) | none => c.l1 }
      | none => s)
  | _ => .next s

/-! ### The directory (R82, R86, R145) -/

/-- An entry replaced, or made. -/
def setEntry (s : State) (d : Nat) (e : DirEntry) : State := putDir s d (e :: (dirOf s d).filter fun x => x.line != e.line)
/-- The cores that an entry names as sharers. -/
def sharersOf (s : State) (d : Nat) (e : DirEntry) : List Nat :=
  if e.st = 3 then
    match listKey s (homeCore s d e.line) e.list.toNat with
    | some a => ((List.range 256).filter fun i => (memRead s.mem (a + 32) 32).testBit i).map fun i => 256 * d + i
    | none => []
  else if e.st = 4 then dieCores s d
  else e.ptrs.map fun i => 256 * d + i
/-- The lines of several cores invalidated. -/
def dropLines (s : State) (l : List Nat) (line : Nat) : State := l.foldl (fun acc k => dropLine acc k line) s
/-- A full home slice makes room (R145): a victim's sharers are invalidated, and its entry leaves; which entry that is the spec does not say
(log 82). -/
def makeRoom (s : State) (d line : Nat) : State :=
  let h := homeCore s d line
  let mine := (dirOf s d).filter fun e => homeCore s d e.line == h
  if mine.length < 8192 then s
  else
    match mine[(freeWord s.free).toNat % mine.length]? with
    | none => s
    | some v => dropEntry (dropLines { s with free := s.free + 1 } (sharersOf s d v) v.line) d v.line
/-- A line taken exclusive: every other sharer is invalidated, and the entry is in pointer form (R86); its list record names none (R145). -/
def takeExclusive (s : State) (d : Nat) (r : DirReq) : State :=
  let s1 := match (dirOf s d).find? fun e => e.line == r.line with
    | none => makeRoom s d r.line
    | some e => dropEntry (dropLines s ((sharersOf s d e).filter fun k => k != r.core) r.line) d r.line
  setEntry s1 d ⟨r.line, 2, [r.core % 256], 0⟩
/-- A line of core k in the state S from now on: a recall writes back a dirty one. -/
def toShared (s : State) (k line : Nat) : State :=
  modCore s k fun c => { c with l1 := c.l1.map fun l => if l.addr = line ∧ (l.st = .m ∨ l.st = .e) then { l with st := .s } else l }
/-- The list record that an overflow task has allocated for a line, by its index (R145). -/
def findList (s : State) (h line : Nat) : Option Nat :=
  match (getCore s h).pins[7] with
  | none => none
  | some r => (List.range r.dlen.toNat).find? fun i => memRead s.mem (localKey h (r.dbase.toNat + 64 * i)) 8 == 2 ^ 63 + line
/-- Sharers recorded in a list record's MASK. -/
def addMask (s : State) (h list : Nat) (l : List Nat) : State :=
  modMask s h list fun x => l.foldl (fun m i => m ||| 2 ^ i) x
/-- What becomes of a line whose overflow task has ended (R86): its sharers move to the list record the task allocated, or, with none, the
line is broadcast. -/
def afterOverflow (s : State) (d : Nat) (e : DirEntry) (r : DirReq) : State :=
  let h := homeCore s d e.line
  match findList s h e.line with
  | some i => setEntry (addMask s h i (e.ptrs ++ [r.core % 256])) d { e with st := 3, ptrs := [], list := BitVec.ofNat 13 i }
  | none => setEntry s d { e with st := 4, ptrs := [] }
/-- What serving a request ends in: it is done, or it stays with its overflow task raised, or it stays. -/
inductive Served where
  | done (s : State)
  | raised (s : State)
  | stays
/-- A sharer added to a line (R86): a fifth one raises the overflow task of the home core, where its pin entry is valid. -/
def addSharer (s : State) (d : Nat) (r : DirReq) : Served :=
  let i := r.core % 256
  match (dirOf s d).find? fun e => e.line == r.line with
  | none =>
    let e := (getCore s r.core).l1.any fun l => l.addr == r.line && l.st == .e
    .done (setEntry (makeRoom s d r.line) d ⟨r.line, if e then 2 else 1, [i], 0⟩)
  | some e =>
    if e.st = 3 then .done (addMask s (homeCore s d r.line) e.list.toNat [i])
    else if e.st = 4 ∨ i ∈ e.ptrs then .done s
    else if e.ptrs.length < 4 then
      let s1 := (r.core :: e.ptrs.map fun j => 256 * d + j).foldl (fun acc k => toShared acc k r.line) s
      .done (setEntry s1 d { e with st := 1, ptrs := e.ptrs ++ [i] })
    else if r.raised then .done (afterOverflow s d e r)
    else
      let h := homeCore s d r.line
      match (getCore s h).pins[3] with
      | none => .done (setEntry s d { e with st := 4, ptrs := [] })
      | some _ =>
        if (getCore s h).svcq.length < 4 then
          .raised (rouse (modCore s h fun c => { c with svcq := c.svcq ++ [⟨3, 0, BitVec.ofNat 64 (r.line * 128), none, false⟩] }) (clusterOf h))
        else .stays
/-- Whether a line's overflow task waits or runs (R86): every request to the line waits for its end. -/
def overflowRuns (s : State) (d line : Nat) : Bool :=
  let c := getCore s (homeCore s d line)
  let info := BitVec.ofNat 64 (line * 128)
  (c.svcq.any fun r => r.cause == 3 && r.info == info) || (c.bank == .service && c.svc.cause == 3 && c.svc.trapInfo == info)
/-- DIRECTORY_REQUEST: the oldest request of die d whose line no overflow task holds is served. -/
def execDirectoryRequest (s : State) : Happened :=
  match s.now with
  | some (.directoryRequest d) =>
    let l := s.dirReqs[d]?.getD []
    .next (match l.findIdx? fun r => !(overflowRuns s d r.line) with
      | none => s
      | some i =>
        match l[i]? with
        | none => s
        | some r =>
          let put := fun (t : State) (x : List DirReq) => { t with dirReqs := t.dirReqs.setIfInBounds d x }
          if r.exclusive then put (takeExclusive s d r) (dropAt l i)
          else
            match addSharer s d r with
            | .done t => put t (dropAt l i)
            | .raised t => put t (l.set i { r with raised := true })
            | .stays => s)
  | _ => .next s

/-- L1_EVICTION (R80, R84): a line of core k, which victim is not architectural, is written back and leaves; the write-back of a line that an
overflow task holds waits (R86). -/
def execL1Eviction (s : State) : Happened :=
  match s.now with
  | some (.l1Eviction k line) =>
    .next (if (getCore s k).l1.any fun l => l.addr == line && !(l.st == .rd && lineHeld s (line * 128)) then evictLine s k line else s)
  | _ => .next s

/-! ### Translation (R93, R96, R211, R282) -/

/-- The accessor of a walk that a prefetch asked for. -/
def walkAcc (w : Walk) : Acc := ⟨w.ctx, w.core, isEmber w.core, false, false⟩
/-- What a prefetch's walk brings (R211): the translation, whose leaf stays as it is in memory, and then the line, under the checks of a prefetch
whose translation is held; for a host-shared page nothing. -/
def walkedPrefetch (s : State) (w : Walk) : State :=
  match leafFor s (walkAcc w) w.va.toNat w.va with
  | .error _ => s
  | .ok (e, at_, level) =>
    if leafDenies (walkAcc w) false e || pteCold e || pteHS e || ptePO e then s
    else
      let s1 := keepTlb s (walkAcc w) ⟨w.ctx, w.va.toNat / pageSize level, level, BitVec.ofNat 64 e, at_⟩
      prefetchAs (focus s1 w.core) (walkAcc w) w.va
/-- TRANSLATION_WALK_COMPLETE: a walk whose result was discarded starts again; another one is kept, and the prefetched line comes in. -/
def execTranslationWalkComplete (s : State) : Happened :=
  match s.now with
  | some (.translationWalkComplete i) =>
    .next (match s.walks[i]? with
      | none => s
      | some w =>
        if w.discarded then { s with walks := s.walks.set i { w with discarded := false } }
        else walkedPrefetch { s with walks := dropAt s.walks i } w)
  | _ => .next s

/-- The translations that a test picks, gone from every TLB and every translation cache. -/
def dropTlbs (s : State) (p : Tlb → Bool) : State :=
  let keep := fun (l : List Tlb) => l.filter fun t => !(p t)
  let s1 := mapCores s fun c => { c with tlb := keep c.tlb }
  { s1 with caches := s1.caches.map keep }
/-- Every store of every listed core performed. -/
def drainEvery (s : State) : State := (allCores s).foldl (fun acc c => drainAll acc c.id) s
/-- Whether some core holds a store that an overflow task keeps from being performed (R86). -/
def anyStoreHeld (s : State) : Bool := (allCores s).any fun c => storesHeld s c.id
/-- TLB_INVALIDATION_COMPLETE (R96, R282): every access that used a translation is performed, and no structure holds what was
invalidated. -/
def execTlbInvalidationComplete (s : State) : Happened :=
  match s.now with
  | some (.tlbInvalidationComplete k) =>
    .next (match (getCore s k).invalidating with
      | some (some q) =>
        if anyStoreHeld s then s
        else modCore (dropTlbs (drainEvery s) (removesTlb q)) k fun c => { c with invalidating := some none }
      | some none => s
      | none => s)
  | _ => .next s

end Sys2Proof.Machine
end

