-- ==== Sys2Proof/Machine/VectorQueue.lean ====
section
/-!
DEFINITION. Sys2Proof/Machine/VectorQueue.lean: the vector queue beside its issue (spec/06 R124, R125; spec/11 R216; spec/10 R183; log 17): what
an instruction waits for while a vector command is not performed, and how the engine performs one.
-/
namespace Sys2Proof.Machine

/-! ### What waits for a vector command (R183, R216, R295, R300; log 90) -/

/-- Whether a word names a register that a waiting command writes. -/
def namesPending (p : List Fields) (f : Fields) : Bool := (namedRegs f).any (pendingReg p)
/-- Whether a waiting command names a ring that a word moves: RADVC moves a consumer's, RADVP a producer's (R125). -/
def movesRing (p : List Fields) (f : Fields) : Bool :=
  match fieldRing f.a with
  | none => false
  | some r => p.any fun x => fieldRing x.a == some r && storesD x == (f.op == 0x249#10)
/-- Whether a word waits for the waiting commands by what it is: one that reads the memory that they access in order, that ends or leaves the
task's step, that a release orders, or that reads what a waiting command counts or draws. A command of another engine does not wait here: that
engine starts it after them (R300). -/
def orderedBehind (p : List Fields) (f : Fields) : Bool :=
  let n := f.op.toNat
  let mem := p.any vecMemory
  match classOf f with
  | 0 => if 7 ≤ n ∧ n ≤ 9 then p.any fun x => (vecWrites x).any fun r => r.1 == 1 else decide (0xC ≤ n)
  | 5 => n != 0x145 && mem
  | 6 => mem
  | 9 => if n = 0x248 ∨ n = 0x249 then movesRing p f else if n = 0x24B ∨ n = 0x24C then mem else n == 0x250
  | 13 => true
  | 14 =>
    if n = 0x380 ∨ n = 0x381 then p.any fun x => x.op == 0x241
    else if n = 0x383 ∨ n = 0x384 then p.any drawsS
    else [0x382, 0x389, 0x38A, 0x38B, 0x38F, 0x390].contains n
  | _ => false
/-- Whether the focus core's next instruction waits for vector commands that are not performed. A word with a false guard waits only for its
predicate (R168), and a command of the queue for nothing but a predicate that decides whether it is issued: it stands behind them (R11, R124). -/
def heldBack (s : State) (i : Instr) : Bool :=
  match encodeFields i with
  | none => false
  | some f =>
    let p := pendingWords s.core
    if s.core.bank ≠ .user ∨ p.isEmpty = true then false
    else if vecQueued f then bitGuarded f && pendingReg p (guardReg f)
    else pendingReg p (guardReg f) || (guardBit s ⟨f.gn == 1, Fin.ofNat 8 f.gp.toNat, 0⟩ && (namesPending p f || orderedBehind p f))
/-- Whether a memory access of the vector queue that is not performed comes before a command of another engine (R300). -/
def vecBefore (c : Core) (r : OpRec) : Bool :=
  c.vq.any fun e => decide (e.seq < r.behind) && (e.todo.any fun t => (encodeFields t.instr).any vecMemory)
/-- Whether an instruction performs stores of the core that an overflow task holds (R86): one that orders them, or a release. The overflow task
itself does not wait for its own end. -/
def heldStores (s : State) (i : Instr) : Bool :=
  s.core.bank == .user && storesHeld s s.core.id && (encodeFields i).any fun f =>
    let n := f.op.toNat
    guardBit s ⟨f.gn == 1, Fin.ofNat 8 f.gp.toNat, 0⟩ &&
      (match classOf f with
        | 0 => decide (0xC ≤ n)
        | 5 => n == 0x147 || n == 0x148
        | 6 => true
        | 9 => n == 0x24B || n == 0x24C
        | 13 => true
        | 14 => n == 0x382 || n == 0x389 || n == 0x38F || n == 0x390
        | _ => false)

/-! ### Performing a vector command (R124) -/

/-- The first command of a core's vector queue that is not performed, and the commands before and after it. -/
def nextVec : List VecCmd → Option (List VecCmd × VecCmd × VecTodo × List VecCmd)
  | [] => none
  | e :: r =>
    match e.todo with
    | some t => some ([], e, t, r)
    | none => (nextVec r).map fun x => (e :: x.1, x.2)
/-- The focus core as a waiting command finds it: its operands as they stood when it issued (R244), the slots that its rings named then (R125),
and everything else as it is now. -/
def vecView (t : VecTodo) (c : Core) : Core :=
  { c with
    pc := t.pc, win := t.win, out := t.out, g := t.g, p := t.p, bank := .user, vq := [], blocked := none, early := []
    rings := Vector.ofFn fun i => { c.rings[i] with head := t.rings[i].head, tail := t.rings[i].tail } }
/-- Registers that an execution changed, put over those that stand now. -/
def vecMerge {n : Nat} (was new now : Vector Word n) : Vector Word n := Vector.ofFn fun i => if new[i] = was[i] then now[i] else new[i]
/-- A command behind the one that was performed takes what that one wrote as its operands (R183, R216): it issued later, and nothing between them
wrote the same registers. -/
def forward (t : VecTodo) (d : Core) (e : VecCmd) : VecCmd :=
  { e with todo := e.todo.map fun y =>
      { y with win := { y.win with w := vecMerge t.win.w d.win.w y.win.w }, out := vecMerge t.out d.out y.out, g := vecMerge t.g d.g y.g
               p := vecMerge t.p d.p y.p } }
/-- The focus core `c` after its vector engine has run the command `t`, which left the core as `d`: what the command writes is written, and the
task stands where it stood. -/
def vecAfter (t : VecTodo) (c d : Core) (vq : List VecCmd) : Core :=
  { d with
    pc := c.pc, srcPc := c.srcPc, loop := c.loop, loopBuf := c.loopBuf, ibuf := c.ibuf, bank := c.bank, blocked := c.blocked, early := c.early
    win := { c.win with w := vecMerge t.win.w d.win.w c.win.w }, out := vecMerge t.out d.out c.out, g := vecMerge t.g d.g c.g
    p := vecMerge t.p d.p c.p, vq := vq, vecIssued := c.vecIssued
    rings := Vector.ofFn fun i => { c.rings[i] with valid := d.rings[i].valid } }
/-- The state in which the focus core's vector engine runs a waiting command; its count is charged again as it runs. -/
def vecStart (s : State) (e : VecCmd) (t : VecTodo) : State := countDown (onCore s (vecView t)) e.ctx e.lid 1
/-- What became of the command: performed, it leaves the queue and its launch's counter; not performed, it stays, with what it has done so far
(R124, R255); where it faulted, its launch has ended. -/
def vecEnd (s u : State) (before : List VecCmd) (e : VecCmd) (t : VecTodo) (after : List VecCmd) : State :=
  let put := fun (u : State) (l : List VecCmd) => onCore u fun d => vecAfter t s.core d l
  match u.core.vq, u.core.blocked with
  | x :: _, _ =>
    if x.todo.isNone then put (countDown u e.ctx e.lid 1) (before ++ after.map (forward t u.core)) else put u (before ++ e :: after)
  | [], some _ => put (countUp u e.ctx e.lid 1) (before ++ e :: after)
  | [], none =>
    let live := fun (m : VecCmd) => !(m.ctx == e.ctx && m.lid == e.lid)
    let v := put u ((before ++ after).filter live)
    if v.core.task.isNone then onCore v fun d => { d with blocked := none, loop := { d.loop with on := false }, loopBuf := [], ibuf := [] } else v

end Sys2Proof.Machine
end

