-- ==== Sys2Proof/Machine/EvEngine.lean ====
section
/-!
DEFINITION. Sys2Proof/Machine/EvEngine.lean: the events of the engines: taking and completing vector, matrix, copy and rake commands (R37,
R42, R44, R124, R245, R257 to R261, R264 to R270) and the token watch unit (R147 to R150).
-/
namespace Sys2Proof.Machine

/-- Whether the engines of core k can work: its cluster is up and its clock not gated by a rail switch. -/
def enginesRun (s : State) (k : Nat) : Bool :=
  let x := getCluster s (clusterOf k)
  coreEnabled s k && (x.pstate == .run || x.pstate == .idle) && !x.gated
/-- What a unit other than a scalar core does when an access of it stops: its fault, or its wait, in which nothing else changes. -/
def unitStop (s : State) (w : Word → Waiter) (fault : State → FCode → Word → State) (e : Stop) : State :=
  match e with
  | .fault c a => fault s c a
  | .wait _ => s
  | .cold m => askFetch s m (w m.va)
  | .asleep ch => askChannel s ch
  | .after t x => unitStop t w fault x

/-- VECTOR_CMD_TAKE (R124, log 17): the vector engine takes the command at the head of core k's queue: one that is performed leaves its
launch's counter (R155); one that waits is tried next. -/
def execVectorCmdTake (s : State) : Happened :=
  match s.now with
  | some (.vectorCmdTake k) =>
    .next (match (getCore s k).vq with
      | [] => s
      | e :: r =>
        if workHeld s e.ctx e.lid || !(enginesRun s k) then s
        else if e.todo.isSome then { s with agenda := .vecTurn k :: s.agenda }
        else countDown (modCore s k fun c => { c with vq := r }) e.ctx e.lid 1)
  | _ => .next s
/-- The command that the focus core's vector engine performs next, where it can: its task is at work, and no cut holds it. -/
def vecReady (s : State) : Option (List VecCmd × VecCmd × VecTodo × List VecCmd) :=
  if s.core.task.isSome && enginesRun s s.core.id then
    (nextVec s.core.vq).filter fun x => !(workHeld s x.2.1.ctx x.2.1.lid)
  else none

/-! ### The matrix engine (R37, R245, R257 to R261) -/

/-- Whether an engine of core k waits with a command for what comes before it (R300, R86): vector commands that access memory, and stores that an
overflow task holds. -/
def engineWaits (s : State) (k : Nat) (r : OpRec) : Bool := vecBefore (getCore s k) r || storesHeld s k
/-- The head of core k's matrix queue where it may start. -/
def matrixHead (s : State) (k : Nat) : Option MatrixCmd :=
  let c := getCore s k
  match c.mrun, c.mq with
  | none, m :: _ => if engineHeld s m.rcd || !(enginesRun s k) || engineWaits s k m.rcd then none else some m
  | _, _ => none
/-- Whether a command is a gang operation of the gang and launch of another one. -/
def sameGang (x : MatrixCmd) (m : MatrixCmd) : Bool :=
  (gangTypes m).isSome && m.gang == x.gang && m.rcd.ctx == x.rcd.ctx && m.rcd.lid == x.rcd.lid
/-- A command moved from the head of the queue into the engine, at its cluster's cycle; earlier stores of the core come first (R300). The first
command of a task of another context finds the accumulator store zeroed and the latch cleared (R87, R258). -/
def beginMatrix (s : State) (k : Nat) : State :=
  let cycle := (getCluster s (clusterOf k)).cycle
  modCore (drainAll s k) k fun c =>
    match c.mq with
    | m :: r => { c with mq := r, mrun := some m, mstart := cycle, acc := if m.zero then [] else c.acc, latch := if m.zero then none else c.latch }
    | [] => c
/-- An MGANG at the head of core k's queue: it starts on every member when it is at the head of every member's queue. It faults where a
member had ended as it was issued or has ended since, and where the members' commands do not fit together (R37, R260). -/
def startGang (s : State) (x : MatrixCmd) (ta tb : Ty) : State :=
  let fault := fun (r : OpRec) => raiseEngine s r .matrix .engineCmd 0
  match x.gang with
  | none => fault x.rcd
  | some g =>
    let l := (gangCores g).map fun j => (j, matrixHead s j)
    let ready := l.filterMap fun p => match p.2 with | some m => if sameGang x m then some (p.1, m) else none | none => none
    if x.late || (gangCores g).any fun j => memberGone g x.rcd.ctx x.rcd.lid (getCore s j) then fault x.rcd
    else if ready.length = l.length then
      match ready.find? fun p => !(gangFits s ta tb x.hm1 (2 ^ g.log) p.1 p.2) with
      | some p => fault p.2.rcd
      | none => (gangCores g).foldl beginMatrix s
    else s
/-- MATRIX_CMD_START: the head of core k's queue starts. -/
def execMatrixCmdStart (s : State) : Happened :=
  match s.now with
  | some (.matrixCmdStart k) =>
    .next (match matrixHead s k with
      | none => s
      | some m =>
        match gangTypes m with
        | some (ta, tb) => startGang s m ta tb
        | none => beginMatrix s k)
  | _ => .next s
/-- MATRIX_CMD_COMPLETE: the running command of core k is performed (log 16). -/
def execMatrixCmdComplete (s : State) : Happened :=
  match s.now with
  | some (.matrixCmdComplete k) =>
    .next (match (getCore s k).mrun with
      | none => s
      | some m =>
        if engineHeld s m.rcd || !(enginesRun s k) then s
        else
          match finishMatrix s k with
          | (s1, none) => s1
          | (s1, some (r, c, a)) => raiseEngine s1 r .matrix c a)
  | _ => .next s

/-! ### The copy engine (R264 to R267) -/

/-- COPY_CMD_ACCEPT: the head of core k's copy queue starts, after the core's earlier stores (R265, R300); a check that fails faults its
launch, and a copy of no bytes is done at once. -/
def execCopyCmdAccept (s : State) : Happened :=
  match s.now with
  | some (.copyCmdAccept k) =>
    let c := getCore s k
    .next (match c.cq with
      | [] => s
      | x :: r =>
        if engineHeld s x.rcd || !(enginesRun s k) || engineWaits s k x.rcd || decide (128 ≤ c.flight.length) then s
        else
          let s1 := modCore (drainAll s k) k fun y => { y with cq := r }
          match startCopy s1 x with
          | .ok y => if beatCount y = 0 then copyGone s1 k y else modCore s1 k fun z => { z with flight := z.flight ++ [y] }
          | .error e => unitStop s (.engine .copy x.rcd none) (fun _ f a => raiseEngine s1 x.rcd .copy f a) e)
  | _ => .next s
/-- COPY_BEAT_COMPLETE (R79, R153, R264): copy i of core k moves a beat, which the low 32 bits of the parameter choose within the current
chunk; the bits above name bytes that reach the banks before their beat completes. -/
def execCopyBeatComplete (s : State) : Happened :=
  match s.now with
  | some (.copyBeatComplete k i beat) =>
    .next (match (getCore s k).flight[i]? with
      | none => s
      | some c =>
        if copyEnded c || (engineHeld s c.rcd && chunkEnd c) || !(enginesRun s k) then s
        else
          let b := pickBeat c (beat % 2 ^ 32)
          let mask := beat / 2 ^ 32
          match (if mask = 0 then finishBeat s k i c b else landBytes s k i c b fun j _ => mask.testBit j) with
          | .ok t => t
          | .error e => unitStop s (.engine .copy c.rcd (some b)) (fun t f a => raiseEngine t c.rcd .copy f a) e)
  | _ => .next s
/-- COPY_COMPLETE (R266, R267): copy i of core k has ended, or has stopped at the end of a chunk. -/
def execCopyComplete (s : State) : Happened :=
  match s.now with
  | some (.copyComplete k i) =>
    .next (match (getCore s k).flight[i]? with
      | none => s
      | some c => if copyEnded c then copyGone (modCore s k fun x => { x with flight := dropAt x.flight i }) k c else s)
  | _ => .next s

/-! ### The rake (R42, R44, R144, R268 to R270) -/

/-- RAKE_CMD_TAKE: the head of core k's rake queue is taken once no sweep runs (R44, R144). -/
def execRakeCmdTake (s : State) : Happened :=
  match s.now with
  | some (.rakeCmdTake k) =>
    let c := getCore s k
    .next (match c.kq, c.sweep with
      | .decl n r :: rest, none =>
        if engineHeld s r || !(enginesRun s k) || engineWaits s k r then s
        else
          let s1 := modCore (drainAll s k) k fun x => { x with kq := rest }
          match performDecl s1 k n r with
          | .ok s2 => countDown s2 r.ctx r.lid 1
          | .error (f, a) => raiseEngine s1 r .rake f a
      | .sweep n r :: rest, none =>
        if engineHeld s r || !(enginesRun s k) || engineWaits s k r then s
        else
          let s1 := modCore (drainAll s k) k fun x => { x with kq := rest }
          match performSweep s1 k n r with
          | .ok s2 => s2
          | .error (f, a) => raiseEngine s1 r .rake f a
      | _, _ => s)
  | _ => .next s
/-- Whether core k's sweep may go on. -/
def sweepRuns (s : State) (k : Nat) : Bool :=
  enginesRun s k && (match (getCore s k).sweep with | some w => !(engineHeld s w.rcd) | none => false)
/-- RAKE_BEAT_SAMPLE (R42, R45): the sweep of core k samples its next beat. -/
def execRakeBeatSample (s : State) : Happened :=
  match s.now with
  | some (.rakeBeatSample k) => .next (if sweepRuns s k then sampleBeat s k else s)
  | _ => .next s
/-- RAKE_SWEEP_END (R44). -/
def execRakeSweepEnd (s : State) : Happened :=
  match s.now with
  | some (.rakeSweepEnd k) => .next (if sweepRuns s k then endSweep s k else s)
  | _ => .next s

/-! ### The token watch unit (R147 to R150) -/

/-- WATCH_UNIT_COMMIT: the oldest request is served as one atomic operation, and its result goes to the core that waits for it. -/
def execWatchUnitCommit (s : State) : Happened :=
  match s.now with
  | some .watchUnitCommit =>
    .next (match s.hub.watchQueue with
      | [] => s
      | r :: rest =>
        let pop := fun (t : State) => { t with hub := { t.hub with watchQueue := rest } }
        match serveWatch s r false with
        | .ok (w, s1) => handResult (pop s1) r.who.1 (.ok w)
        | .error e => unitStop s .watch (fun t c a => handResult (pop t) r.who.1 (.error (c, a))) e)
  | _ => .next s

end Sys2Proof.Machine
end

