-- ==== Sys2Proof/Machine/EvWork.lean ====
section
/-!
DEFINITION. Sys2Proof/Machine/EvWork.lean: the retirement of work (R46, R155) and the graph walkers (R39, R143), with the reading of launch
packets and bundles that walkers and command complexes share (R308).
-/
namespace Sys2Proof.Machine

/-! ### Retirement (R46) -/

/-- WORK_RETIRE: an instance whose counter is zero and whose issuing has closed. A unit is counted by its core alone, and nothing is left
of it; a retired job is a closed queue without work. -/
def retireWork (s : State) (ctx : CtxId) (lvl : Level) (id : BitVec 32) : State :=
  match lvl with
  | .unit => s
  | .launch =>
    match getLaunch s ctx id with
    | some l => if l.count = 0 ∧ allPlaced l = true then retireLaunch s l 2 0 else s
    | none => s
  | .graph =>
    match getGraph s ctx id with
    | some g =>
      match g.ended with
      | some (st, status) => if g.count = 0 then retireGraph s g st status else s
      | none => s
    | none => s
  | .phase =>
    match (getCtx s ctx).bind fun c => c.phases.find? fun p => p.num == id with
    | some p =>
      if p.closed ∧ p.count = 0 then
        let s1 := modCtx s ctx fun c => { c with phases := c.phases.filter fun x => !(x.num == id && x.closed && x.count == 0) }
        modQueue s1 ctx p.queue fun q => { q with count := q.count - 1 }
      else s
    | none => s
  | .job => s
/-- WORK_RETIRE. -/
def execWorkRetire (s : State) : Happened :=
  match s.now with
  | some (.workRetire ctx lvl id) => .next (retireWork s ctx lvl id)
  | _ => .next s

/-! ### Launch packets and bundles (R308) -/

/-- What reading a bundle ends in: its sub-launches, or none where a packet of it is malformed; the packets it takes; the head. -/
structure Bundle where
  subs : Option (List SubLaunch)
  packets : Nat
  head : Nat
deriving DecidableEq, Repr
/-- The packets of a bundle after its head, from packet i on: each is of type 1, heads nothing, and in a queue has the head's TARGET, which a
walker ignores (R143; log 47). The reading goes on behind a malformed packet, so a block read that faults comes first (log 113). -/
def readRest (rd : Reader) (packet : State → Nat → Eff (Nat × State)) (queued : Bool) (target : Nat) :
    Nat → Nat → State → Option (List SubLaunch) → Eff (Option (List SubLaunch) × State)
  | 0, _, s, acc => .ok (acc, s)
  | n + 1, i, s, acc => do
    let (p, s1) ← packet s i
    if pkType p ≠ 1 ∨ pkLink p ≠ 0 ∨ (queued = true ∧ pkTarget p ≠ target) then readRest rd packet queued target n (i + 1) s1 none
    else
      let (x, s2) ← readBlocks rd queued s1 p
      let acc' := match acc, x with | some l, some y => some (l ++ [y]) | _, _ => none
      readRest rd packet queued target n (i + 1) s2 acc'
/-- A bundle whose packets are numbered from 0, with the blocks they name, in a queue or at a walker's node. -/
def readBundle (rd : Reader) (queued : Bool) (packet : State → Nat → Eff (Nat × State)) (s : State) : Eff (Bundle × State) := do
  let (p, s1) ← packet s 0
  let (x, s2) ← readBlocks rd queued s1 p
  let (l, s3) ← readRest rd packet queued (pkTarget p) (pkLink p) 1 s2 (x.map fun y => [y])
  .ok (⟨l, 1 + pkLink p, p⟩, s3)

/-! ### Graph walkers (R39, R143) -/

/-- The accessor of a graph's walker. -/
def walkerAcc (g : Graph) : Acc := ⟨g.ctx, 1032 + g.walker, g.walker == 4, g.privileged, true⟩
/-- Graph i of walker w, where it can take a node: it has not ended, and no cut holds the walker. -/
def walkerGraph (s : State) (w i : Nat) : Option Graph :=
  match (s.graphs.filter fun g => g.walker == w)[i]? with
  | some g => if g.ended.isNone && !g.cancelled && !(walkerHeld s g.ctx) then some g else none
  | none => none
/-- A graph ended. -/
def finishGraph (s : State) (g : Graph) (st : BitVec 2) (status : BitVec 16) : State :=
  modGraph s g.ctx g.gid fun x => { x with ended := some (st, status) }
/-- A graph ended with FAULT and a record of its own (R143, R324): the spec gives no PC and no LID for it (log 9). -/
def faultGraph (s : State) (g : Graph) (c : FCode) (addr : Word) : State :=
  let (pc, s1) := freshWord s
  let (lid, s2) := freshWord s1
  let s3 := appendRecord s2 g.ctx (hubRec s2 (pc.extractLsb' 0 56) (lid.extractLsb' 0 32) c .walker addr)
  finishGraph s3 g 3 (c.code.zeroExtend 16)
/-- A graph moved to a node, which it has not read yet; a successor that is not below the node count ends it (R143). -/
def goNode (s : State) (g : Graph) (n : Nat) : State :=
  if g.nodes ≤ n then faultGraph s g .engineCmd 0
  else modGraph s g.ctx g.gid fun x => { x with node := n, held := none, parsed := none }
/-- Fields of a node. -/
def ndKind (x : Nat) : Nat := field x 0 8
def ndNext (x : Nat) : Nat := field x 16 16
def ndTaken (x : Nat) : Nat := field x 32 16
def ndAddr (x : Nat) : Word := BitVec.ofNat 64 (x / 2 ^ 64)
def ndCap (x : Nat) : Nat := field x 128 32
/-- Whether a node breaks R143: an unknown kind, a reserved field, or a TARGET that names no store (log 50). -/
def nodeBad (x : Nat) : Bool :=
  decide (ndKind x = 0) || decide (5 < ndKind x) || decide (field x 160 96 ≠ 0) || decide (field x 48 16 ≠ 0)
    || (if ndKind x = 1 then decide (4 < ndTarget x) else decide (ndTarget x ≠ 0))
/-- What a walker does at a node that it has taken, as it read it. -/
def runNode (s : State) (g : Graph) (x : Nat) (f : State → Graph → Nat → Eff State) : State :=
  match f s g x with
  | .ok t => t
  | .error e => unitStop s (.graph g.ctx g.gid) (fun t c a => faultGraph t g c a) e
/-- A step of a walker at a graph's present node, if that node is of a kind: the node, read as a plain load when it is taken and kept until it
is done (R143), and what `f` does with it. -/
def walkNode (s : State) (w i : Nat) (kind : Nat) (f : State → Graph → Nat → Eff State) : State :=
  match walkerGraph s w i with
  | none => s
  | some g =>
    match g.held with
    | some x => if ndKind x.toNat = kind then runNode s g x.toNat f else s
    | none =>
      match hubReader (walkerAcc g) s (g.base + BitVec.ofNat 64 (32 * g.node)) 32 with
      | .error e => unitStop s (.graph g.ctx g.gid) (fun t c a => faultGraph t g c a) e
      | .ok (x, s1) =>
        let take := fun (y : Graph) => { y with held := some (BitVec.ofNat 256 x) }
        if nodeBad x then faultGraph s1 g .engineCmd 0
        else if ndKind x ≠ kind then s
        else runNode (modGraph s1 g.ctx g.gid take) (take g) x f
/-- A node that waits for the launches the graph has issued (R39): a fault among them ends the graph. -/
def afterLaunches (s : State) (g : Graph) (k : State → Eff State) : Eff State :=
  if g.count ≠ 0 then .ok s
  else
    match g.faultSeen with
    | some status => .ok (finishGraph s g 3 status)
    | none => k s
/-- The issuer of what a graph's node issues (R273). -/
def graphIssuer (s : State) (g : Graph) : Issuer :=
  ⟨g.ctx, g.queue, queuePrio s g.ctx g.queue g.prio, none, some g.gid, g.phase, g.privileged⟩
/-- A LAUNCH node's launch entered, if its store has an entry that no held packet waits for; else the node is tried again (R39, R127). -/
def enterNode (s : State) (g : Graph) (x : Nat) (l : List SubLaunch) : State :=
  let st := targetStore s g.ctx (ndTarget x)
  if storeFree s st ≤ heldQueues s st then s
  else goNode (enterLaunch s (graphIssuer s g) l st (BitVec.ofNat 3 (ndTarget x))) g (ndNext x)
/-- A LAUNCH node (R39, R143): its packets and blocks are read and checked once, when the node is taken. -/
def launchNode (s : State) (g : Graph) (x : Nat) : Eff State := do
  match g.parsed with
  | some l => .ok (enterNode s g x l)
  | none =>
    let rd := hubReader (walkerAcc g)
    let packet := fun (t : State) (n : Nat) => rd t (ndAddr x + BitVec.ofNat 64 (64 * n)) 64
    let (b, s1) ← readBundle rd false packet s
    match b.subs, decide (pkType b.head = 1) with
    | some l, true => .ok (enterNode (modGraph s1 g.ctx g.gid fun y => { y with parsed := some l }) g x l)
    | _, _ => .ok (addGuilt (faultGraph s1 g .engineCmd (ndAddr x)) g.ctx)
/-- The condition word of a node, read as an acquire. -/
def condition (s : State) (g : Graph) (x : Nat) : Eff (Bool × State) := do
  let (b, s1) ← hubRead s (walkerAcc g) (ndAddr x) 4 4
  .ok (ofBytes b != 0, s1)
/-- A COND node (R39). -/
def condNode (s : State) (g : Graph) (x : Nat) : Eff State :=
  afterLaunches s g fun s => do
    let (yes, s1) ← condition s g x
    .ok (goNode s1 g (if yes then ndTaken x else ndNext x))
/-- A WHILE node (R39). -/
def whileNode (s : State) (g : Graph) (x : Nat) : Eff State :=
  afterLaunches s g fun s => do
    let (yes, s1) ← condition s g x
    if !yes then .ok (goNode s1 g (ndNext x))
    else
      let n := (assocGet g.counts g.node).getD 0 + 1
      if ndCap x < n then .ok (finishGraph s1 g 2 2)
      else .ok (goNode (modGraph s1 g.ctx g.gid fun y => { y with counts := assocSet y.counts g.node n }) g (ndTaken x))
/-- GRAPH_LAUNCH_NODE. -/
def execGraphLaunchNode (s : State) : Happened :=
  match s.now with
  | some (.graphLaunchNode w i) => .next (walkNode s w i 1 launchNode)
  | _ => .next s
/-- GRAPH_COND_NODE. -/
def execGraphCondNode (s : State) : Happened :=
  match s.now with
  | some (.graphCondNode w i) => .next (walkNode s w i 2 condNode)
  | _ => .next s
/-- GRAPH_WHILE_NODE. -/
def execGraphWhileNode (s : State) : Happened :=
  match s.now with
  | some (.graphWhileNode w i) => .next (walkNode s w i 3 whileNode)
  | _ => .next s
/-- GRAPH_JOINALL_NODE. -/
def execGraphJoinallNode (s : State) : Happened :=
  match s.now with
  | some (.graphJoinallNode w i) =>
    .next (walkNode s w i 4 fun s g x => afterLaunches s g fun s => .ok (goNode s g (ndNext x)))
  | _ => .next s
/-- GRAPH_END_NODE: the graph retires with WORK_RETIRE, once it has ended here. -/
def execGraphEndNode (s : State) : Happened :=
  match s.now with
  | some (.graphEndNode w i) => .next (walkNode s w i 5 fun s g _ => afterLaunches s g fun s => .ok (finishGraph s g 2 0))
  | _ => .next s
/-- GRAPH_NODE_RETRY (R39, R127): a LAUNCH node that found its store full is tried again. -/
def execGraphNodeRetry (s : State) : Happened :=
  match s.now with
  | some (.graphNodeRetry w i) => .next (walkNode s w i 1 launchNode)
  | _ => .next s

end Sys2Proof.Machine
end

