-- ==== Sys2Proof/Machine/EvSchedule.lean ====
section
/-!
DEFINITION. Sys2Proof/Machine/EvSchedule.lean: the die schedulers and the ember scheduler (spec/14 R310 to R320): choosing, placing,
back-fill, reservations, pre-emption, the intensity classifier, temperatures and hot spots, with the POWER records of R375 to R377.
-/
namespace Sys2Proof.Machine

/-! ### Entries and their order (R310) -/

/-- Effective priority. -/
def effOf (e : Pend) : Nat := min 63 (e.prio.toNat + e.age)
/-- Whether an entry comes before another: higher effective priority, then older. -/
def before (a b : Pend) : Bool := decide (effOf b < effOf a) || (effOf a == effOf b && decide (a.serial < b.serial))
/-- An entry put into a list in order. -/
def insertEntry (e : Pend) : List Pend → List Pend
  | [] => [e]
  | x :: r => if before e x then e :: x :: r else x :: insertEntry e r
/-- The launch of an entry. -/
def launchOf (s : State) (e : Pend) : Option Launch := if e.isGraph then none else getLaunch s e.ctx e.ident
/-- Whether an entry has something to place: units, or units that a cut saved; an entry under a cut waits (R327). -/
def wantsPlace (s : State) (e : Pend) : Bool :=
  match launchOf s e with
  | some l => !(cutNames s e.ctx e.ident) && (!(allPlaced l) || !e.saved.isEmpty)
  | none => false
/-- The entries of a store with something to place, first in the order of R310 first. -/
def orderedEntries (s : State) (st : Nat) : List Pend := ((storeOf s st).filter (wantsPlace s)).foldr insertEntry []
/-- The head of a store. -/
def headOf (s : State) (st : Nat) : Option Pend := (orderedEntries s st).head?
/-- Whether two entries are the same one. -/
def Pend.same (a b : Pend) : Bool := a.ctx == b.ctx && a.ident == b.ident && a.isGraph == b.isGraph
/-- An entry of a store changed. -/
def modEntry (s : State) (st : Nat) (e : Pend) (f : Pend → Pend) : State :=
  { s with stores := s.stores.setIfInBounds st ((storeOf s st).map fun x => if x.same e then f x else x) }
/-- The entry of a launch in a store. -/
def entryOf (s : State) (st : Nat) (w : CtxId × Lid) : Option Pend := (storeOf s st).find? fun x => !x.isGraph && x.ctx == w.1 && x.ident == w.2
/-- Whether a core is reserved for an entry of a store. -/
def Pend.holds (st : Nat) (e : Pend) (c : Core) : Bool := c.reserved.any fun r => r.store == st && r.ctx == e.ctx && r.lid == e.ident
/-- The cores that an entry of a store holds reserved, free for any entry again. -/
def unreserve (s : State) (st : Nat) (e : Pend) : State := mapCores s fun c => if e.holds st c then { c with reserved := none } else c
/-- An entry that has stopped being head loses its reservation (R313). -/
def settleHead (s : State) (st : Nat) : State :=
  ((storeOf s st).filter fun e => e.reserving && !(match headOf s st with | some h => h.same e | none => false)).foldl
    (fun acc e => modEntry (unreserve acc st e) st e fun x => { x with reserving := false, idle := [] }) s
/-- PRIORITY_AGING (R310): entry i of a store is one millisecond older. -/
def execPriorityAging (s : State) : Happened :=
  match s.now with
  | some (.priorityAging st i) =>
    .next (match (storeOf s st)[i]? with
      | some e => settleHead (modEntry s st e fun x => { x with age := x.age + 1 }) st
      | none => s)
  | _ => .next s

/-! ### Cores and blocks (R36, R311, R315) -/

/-- The enabled cores that a store places on. -/
def storeCores (s : State) (st : Nat) : List Nat := if st = 4 then coresOf 128 else dieCores s st
/-- Whether an entry holds core k, free, for a unit alone or a gang of 2^g cores. -/
def mayTakeOwn (st : Nat) (e : Pend) (s : State) (g k : Nat) : Bool :=
  coreFreeFor s e.ctx k && e.holds st (getCore s k) && ((getCore s k).reserved.any fun r => r.size.all fun n => n == g)
/-- Whether an entry may take core k now for a unit alone or a gang of 2^g cores. -/
def mayTake (st : Nat) (e : Pend) (s : State) (g k : Nat) : Bool :=
  (coreFreeFor s e.ctx k && (getCore s k).reserved.isNone) || mayTakeOwn st e s g k
/-- The marks of a cluster's running work: a launch without a mark counts as mixed (R314). -/
def marksOn (s : State) (c : Nat) : List Mark :=
  (coresOf c).filterMap fun k => match (getCore s k).task with
    | some t => (getLaunch s t.info.ctx t.info.lid).map fun l => if l.mark = .none then .mixed else l.mark
    | none => none
/-- How much a launch prefers a cluster: 0 most (R315). -/
def prefOf (s : State) (l : Launch) (c : Nat) : Nat :=
  let by_ := fun (opposite : Mark) => if opposite ∈ marksOn s c then 0 else if Mark.mixed ∈ marksOn s c then 1 else 2
  match l.mark with
  | .compute => by_ .memory
  | .memory => by_ .compute
  | .mixed | .none => 0
/-- The first core of the block of 2^g cores that a launch takes among those a test allows: most preferred, then lowest (R311, R315). -/
def findBlock (s : State) (st : Nat) (l : Launch) (g : Nat) (ok : Nat → Bool) : Option Nat :=
  let bases := (storeCores s st).filter fun k => k % 2 ^ g == 0 && (List.range (2 ^ g)).all fun m => ok (k + m)
  [0, 1, 2].findSome? fun r => bases.find? fun k => prefOf s l (clusterOf k) == r

/-! ### Placing -/

/-- A core passes to a context (R75, R311): another owner's images keep its local memory, and the first task waits for the clearing. -/
def handOver (s : State) (k : Nat) (ctx : CtxId) : State :=
  if (getCore s k).owner = some ctx then s
  else modCore (passOn s k) k fun c => { c with owner := some ctx, clearing := true }
/-- The cluster of a placement: its hold ends (R354), and a sleeping cluster wakes for it (R350, R352). -/
def placeOnCluster (s : State) (c : Nat) : State := rouse (modCluster s c fun x => { x with khold := false }) c
/-- Unit u of a sub-launch (R307), as member m of gang number n where there is one. -/
def unitTask (l : Launch) (i : Nat) (x : SubLaunch) (u base m n : Nat) : TaskInfo :=
  { entry := x.entry.zeroExtend 64, arg := x.arg + BitVec.ofNat 64 (u * x.astep.toNat), origin := if l.graph.isSome then 1 else 0,
    ctx := l.ctx, lid := l.lid,
    sub := BitVec.ofNat 2 i, gangm := BitVec.ofNat 3 m, gang := if x.gang = 0 then none else some ⟨x.gang, base, n⟩, msg := none, chan := none,
    joinAddr := none }
/-- One unit placed on a core: an entry of its run queue (R24, R25). -/
def placeOne (s : State) (k : Nat) (t : TaskInfo) : State :=
  let s1 := placeOnCluster (handOver s k t.ctx) (clusterOf k)
  countUp (modCore s1 k fun c => { c with runq := c.runq ++ [⟨.spawned, t⟩], reserved := none }) t.ctx t.lid 1
/-- What a launch keeps of a placement: the effective priority and the order (R310, R317). -/
def notePlaced (s : State) (e : Pend) : State :=
  { modLaunch s e.ctx e.ident fun l => { l with placedPrio := effOf e, placedAt := s.serial } with serial := s.serial + 1 }
/-- The next unit or gang of sub-launch i placed on the block at `base`. -/
def placeNext (s : State) (l : Launch) (i : Nat) (x : SubLaunch) (base : Nat) : State :=
  let n := 2 ^ x.gang
  let s1 := (List.range n).foldl (fun acc m => placeOne acc (base + m) (unitTask l i x (x.placed + m) base m s.serial)) s
  { modLaunch s1 l.ctx l.lid fun y => { y with subs := modAt y.subs i fun z => { z with placed := z.placed + n } } with serial := s.serial + 1 }
/-- Where the next unit or gang of sub-launch i of a launch can go; the launch's counter has room for it (R157). -/
def nextBlock (s : State) (st : Nat) (e : Pend) (i : Nat) (ok : State → Nat → Nat → Bool) : Option (Launch × SubLaunch × Nat) :=
  match getLaunch s e.ctx e.ident with
  | none => none
  | some l =>
    match l.subs[i]? with
    | none => none
    | some x =>
      if x.placed < x.units ∧ l.count + 2 ^ x.gang < 2 ^ 32 then (findBlock s st l x.gang (ok s x.gang)).map fun b => (l, x, b) else none
/-- The next unit or gang of sub-launch i placed, if it can be. -/
def tryUnit (s : State) (st : Nat) (e : Pend) (i : Nat) (ok : State → Nat → Nat → Bool) : Option State :=
  (nextBlock s st e i ok).map fun p => placeNext s p.1 i p.2.1 p.2.2
/-- The sub-launches of a launch, those of larger gangs first: in aligned blocks, that order finds room whenever there is room (R316). -/
def byGang (l : Launch) : List Nat := [3, 2, 1, 0].flatMap fun g => ((l.subs.zipIdx).filter fun p => p.1.gang == g).map Prod.snd
/-- A bundle, or a launch alone, started: one unit or gang of each sub-launch in this pass (R316). -/
def tryStart (s : State) (st : Nat) (e : Pend) (ok : State → Nat → Nat → Bool) (l : Launch) : Option State :=
  (byGang l).foldl (fun acc i => acc.bind fun t => tryUnit t st e i ok) (some s)

/-- The gang of an image and its member index. -/
def imageGang (i : Image) : Option (Gang × Nat) := coreGang i.snap
/-- The images that are resumed together with the first one: its gang's (R38). -/
def groupOf (i : Image) (l : List Image) : List Image :=
  match imageGang i with
  | none => [i]
  | some g => l.filter fun x => x.ctx == i.ctx && x.lid == i.lid && (imageGang x).any fun h => h.1.serial == g.1.serial
/-- The core of a member on a block. -/
def memberCore (base : Nat) (i : Image) : Nat := match imageGang i with | some g => base + g.2 | none => base
/-- The logarithm of the number of cores that an image's group takes. -/
def imageLog (i : Image) : Nat := match imageGang i with | some p => p.1.log | none => 0
/-- An image resumed on a core that passes to its context, or that takes its local memory (R303, R311, R330). -/
def resumeOn (s : State) (base : Nat) (i : Image) : State :=
  let k := memberCore base i
  let s1 := if (getCore s k).owner = some i.ctx ∧ i.moved k = false then s else passOn s k
  resumeImage (placeOnCluster (modCore s1 k fun c => { c with reserved := none, clearing := false }) (clusterOf k)) i k
/-- The first saved unit or gang of an entry that a test picks resumed, if it can be placed, on cores that can take its images (log 87, log 89);
after a move to blaze the held clusters come first (R356). -/
def trySaved (s : State) (st : Nat) (e : Pend) (pick : Image → Bool) (ok : State → Nat → Nat → Bool) : Option State :=
  match e.saved.find? pick, getLaunch s e.ctx e.ident with
  | some i, some l =>
    let group := groupOf i e.saved
    let g := imageLog i
    let fits := fun (b : Nat) => b % 2 ^ g == 0 && group.all fun x => ok s g (memberCore b x) && takesImage x (getCore s (memberCore b x))
    let bases := (storeCores s st).filter fits
    let held := fun (k : Nat) => (getCluster s (clusterOf k)).khold && (getCtx s e.ctx).any fun c => c.lives == some false
    match (bases.find? held).or ([0, 1, 2].findSome? fun r => bases.find? fun k => prefOf s l (clusterOf k) == r) with
    | none => none
    | some b =>
      let s1 := modEntry s st e fun x => { x with saved := x.saved.filter fun y => !(group.contains y) }
      let s2 := group.foldl (fun acc x => resumeOn acc b x) s1
      some (modLaunch s2 e.ctx e.ident fun l => { l with resumedLately := true })
  | _, _ => none

/-- An entry leaves its store when nothing of it is left to place; its reservation ends (R127, R313). -/
def leaveIfPlaced (s : State) (st : Nat) (e : Pend) : State :=
  let left := (storeOf s st).any fun x => x.same e && (!x.saved.isEmpty || (match launchOf s x with | some l => !(allPlaced l) | none => false))
  if left then s else unreserve (dropPending s e.ctx e.ident e.isGraph) st e
/-- What follows a placement of an entry. -/
def placedFor (st : Nat) (e : Pend) (s : State) : State := leaveIfPlaced (notePlaced (if e.reserving then s else unreserve s st e) e) st e
/-- An entry whose launch starts (R131). -/
def begun (s : State) (st : Nat) (e : Pend) (l : Launch) : State := journalStart (modEntry s st e fun x => { x with started := true }) l.jseq
/-- The next thing of an entry placed, if it can be: a saved unit first, the start of a launch, or the next unit of a sub-launch. -/
def tryEntry (s : State) (st : Nat) (e : Pend) (ok : State → Nat → Nat → Bool) : Option State :=
  if e.saved.isEmpty = false then (trySaved s st e (fun _ => true) ok).map (placedFor st e)
  else
    match launchOf s e with
    | none => none
    | some l =>
      if e.started then ((List.range l.subs.length).findSome? fun i => tryUnit s st e i ok).map (placedFor st e)
      else (tryStart s st e ok l).map fun t => placedFor st e (begun t st e l)
/-- The entry as the store holds it now. -/
def refreshed (s : State) (st : Nat) (e : Pend) : Option Pend := (storeOf s st).find? fun x => x.same e
/-- The sub-launches of a launch with units of a gang size left to place. -/
def subsLeft (l : Launch) (g : Nat) : List Nat := ((l.subs.zipIdx).filter fun p => p.1.gang == g && decide (p.1.placed < p.1.units)).map Prod.snd
/-- The largest thing that an entry has left, a saved unit or gang or one not placed yet, placed if it can be: in aligned blocks, the order of
falling size finds room for all whenever there is room. -/
def tryLargest (s : State) (st : Nat) (e : Pend) : Option State :=
  (launchOf s e).bind fun l =>
    ([3, 2, 1, 0].find? fun g => (e.saved.any fun i => imageLog i == g) || !(subsLeft l g).isEmpty).bind fun g =>
      (((trySaved s st e (fun i => imageLog i == g) (mayTake st e)).or
        ((subsLeft l g).findSome? fun i => tryUnit s st e i (mayTake st e))).map (placedFor st e))
/-- Everything that is left of an entry placed, if all of it fits now. -/
def tryRest (s : State) (st : Nat) (e : Pend) : Nat → Option State
  | 0 => none
  | n + 1 =>
    match refreshed s st e with
    | none => some s
    | some x => if wantsPlace s x then (tryLargest s st x).bind fun t => tryRest t st e n else some s
/-- An entry placed whole, if all of it fits now (R312). -/
def tryWhole (s : State) (st : Nat) (e : Pend) : Option State :=
  (launchOf s e).bind fun l => tryRest (if e.started then s else begun s st e l) st e 300

/-! ### Pre-emption (R317) -/

/-- The launches with a running task on the cores of a store. -/
def runningOn (s : State) (st : Nat) : List Launch :=
  s.launches.filter fun l => (allCores s).any fun c =>
    (if st = 4 then isEmber c.id else dieOf c.id == st) && (match c.task with | some t => t.info.ofLaunch l.ctx l.lid | none => false)
/-- The effective priority of a running launch: what it had when its last unit was placed, or, while units are left, its entry's (R310). -/
def runningEff (s : State) (st : Nat) (l : Launch) : Nat :=
  match (storeOf s st).find? fun e => !e.isGraph && e.ctx == l.ctx && e.ident == l.lid with
  | some e => effOf e
  | none => l.placedPrio
/-- A victim put into a list: lowest effective priority first, then most recently placed. -/
def insertVictim (s : State) (st : Nat) (l : Launch) : List Launch → List Launch
  | [] => [l]
  | x :: r =>
    let a := runningEff s st l
    let b := runningEff s st x
    if a < b ∨ (a = b ∧ x.placedAt ≤ l.placedAt) then l :: x :: r else x :: insertVictim s st l r
/-- Whether a pre-emption in progress stops a launch already. -/
def claimed (s : State) (w : CtxId × Lid) : Bool := s.cuts.any fun c => c.claims.any fun x => x.2.2.2.contains w
/-- The launches that an entry may pre-empt, in the order in which they are taken. -/
def victimsFor (s : State) (st : Nat) (e : Pend) : List Launch :=
  ((runningOn s st).filter fun l =>
      decide (runningEff s st l + 8 ≤ effOf e) && !l.resumedLately && !(claimed s (l.ctx, l.lid))).foldr (insertVictim s st) []
/-- The state as it would be with the work of some launches gone from their cores. -/
def without (s : State) (v : List (CtxId × Lid)) : State := mapCores s (leaveWork (Cut.start ⟨[], v, none, [], []⟩))
/-- Victims added one by one until the entry could place its next unit or gang. -/
def enoughVictims (s : State) (st : Nat) (e : Pend) : List Launch → List Launch → Option (List Launch)
  | [], _ => none
  | l :: r, acc =>
    let v := acc ++ [l]
    let t := without s (v.map fun x => (x.ctx, x.lid))
    if (tryEntry t st e (mayTake st e)).isSome then some v else enoughVictims s st e r v
/-- Whether an entry has a pre-emption in progress. -/
def preempting (s : State) (st : Nat) (e : Pend) : Bool :=
  s.cuts.any fun c => c.claims.any fun x => x.1 == st && x.2.1 == e.ctx && x.2.2.1 == e.ident
/-- A pre-emption for one entry: the victims' launches are cut, and the entry claims the cores that they free. -/
def preempt (s : State) (st : Nat) (e : Pend) : Option State :=
  if preempting s st e || (tryEntry s st e (mayTake st e)).isSome then none
  else
    match enoughVictims s st e (victimsFor s st e) [] with
    | none => none
    | some v =>
      let t := v.foldl (holdEntry st) s
      if storeSize st < (storeOf t st).length then none
      else
        let w := v.map fun x => (x.ctx, x.lid)
        some (startCut t ⟨[.victims st w], w, none, [(st, e.ctx, e.ident, w)], []⟩)

/-! ### The pass (R312, R313, R318) -/

/-- Step 1: free cores go to the reservations, and to the entries that pre-empted for them. -/
def serveReserved (s : State) (st : Nat) : Option State :=
  (orderedEntries s st).findSome? fun e => tryEntry s st e (mayTakeOwn st e)
/-- Step 2: pre-emptions. -/
def servePreempt (s : State) (st : Nat) : Option State :=
  (orderedEntries s st).findSome? (preempt s st)
/-- Step 3: the head. -/
def serveHead (s : State) (st : Nat) : Option State := (headOf s st).bind fun e => tryEntry s st e (mayTake st e)
/-- The declared length of an entry, where every part of it declares one. -/
def declaredLength (s : State) (e : Pend) : Option Nat :=
  match launchOf s e with
  | none => none
  | some l => if l.subs.all fun x => x.dlen != 0 then some ((l.subs.map SubLaunch.dlen).foldl max 0) else none
/-- Step 4: other entries, freely while the head holds a reservation, else by back-fill. -/
def serveOthers (s : State) (st headUs : Nat) : Option State :=
  match orderedEntries s st with
  | [] => none
  | h :: r =>
    r.findSome? fun e =>
      if h.reserving then tryEntry s st e (mayTake st e)
      else
        match declaredLength s e with
        | some d => if d + headUs ≤ 4000 then tryWhole s st e else none
        | none => none
/-- One placement of a pass, or one pre-emption. -/
def passStep (s : State) (st headUs : Nat) : Option State :=
  (((serveReserved s st).or (servePreempt s st)).or (serveHead s st)).or (serveOthers s st headUs)
/-- A pass: its steps until nothing more is placed. -/
def passN (s : State) (st headUs : Nat) : Nat → State
  | 0 => s
  | n + 1 => match passStep s st headUs with | some t => passN (settleHead t st) st headUs n | none => s
/-- The launches whose millisecond after a resume has passed may be victims again (R317). -/
def restVictims (s : State) (l : List (CtxId × Lid)) : State :=
  { s with launches := s.launches.map fun x => if l.contains (x.ctx, x.lid) then { x with resumedLately := false } else x }
/-- The units without a gang that an entry has left to place or to resume, less the cores that it holds for them. -/
def singlesLeft (s : State) (st : Nat) (e : Pend) : Nat :=
  let fresh := match launchOf s e with | some l => (l.subs.map fun x => if x.gang = 0 then x.units - x.placed else 0).sum | none => 0
  fresh + (e.saved.filter fun i => (imageGang i).isNone).length
    - ((storeCores s st).filter fun k => e.holds st (getCore s k) && ((getCore s k).reserved.any fun r => r.size == some 0)).length
/-- The free cores of a store that no entry holds, as an entry sees them. -/
def looseCores (s : State) (st : Nat) (e : Pend) : List Nat :=
  (storeCores s st).filter fun k => coreFreeFor s e.ctx k && (getCore s k).reserved.isNone
/-- The cores that have become free since the last pass, held for a head that reserves for units without a gang, up to their number (R313). -/
def reserveFreed (s : State) (st : Nat) : State :=
  match headOf s st with
  | none => s
  | some e =>
    if e.reserving then
      let l := ((looseCores s st e).filter fun k => !(e.idle.contains k)).take (singlesLeft s st e)
      l.foldl (fun acc k => modCore acc k fun c => { c with reserved := some ⟨st, e.ctx, e.ident, some 0⟩ }) s
    else s
/-- The free cores that a pass leaves, noted for the head that reserves. -/
def noteIdle (s : State) (st : Nat) : State :=
  match headOf s st with
  | none => s
  | some e => if e.reserving then modEntry s st e fun x => { x with idle := looseCores s st e } else s
/-- SCHEDULING_PASS of a store's scheduler: it is told the microseconds that the head has spent at the head, and which resumed launches are
past their millisecond. -/
def execSchedulingPass (s : State) : Happened :=
  match s.now with
  | some (.schedulingPass st headUs rested) =>
    let s1 := settleHead (restVictims s rested) st
    .next (if s.hub.packageOff ∨ 4 < st then s else noteIdle (passN (reserveFreed s1 st) st headUs 600) st)
  | _ => .next s

/-- LOCAL_MEMORY_CLEAR_DONE (R87, R311): local memory and the accumulator store hold zero, the store as its commands of the owner before leave it,
and the new owner's first task may start. -/
def execLocalMemoryClearDone (s : State) : Happened :=
  match s.now with
  | some (.localMemoryClearDone k) =>
    .next (if (getCore s k).clearing then
        let s1 := { s with mem := memClear s.mem (localKey k 0) (localKey (k + 1) 0) }
        modCore s1 k fun c =>
          let busy := c.mrun.isSome || !c.mq.isEmpty
          { c with clearing := false, acc := if busy then c.acc else [], latch := if busy then c.latch else none, accStale := busy }
      else s)
  | _ => .next s

/-! ### Reservations (R313) -/

/-- Whether core k could be reserved for an entry. -/
def reservable (s : State) (e : Pend) (k : Nat) : Bool :=
  let c := getCore s k
  let x := getCluster s (clusterOf k)
  coreEnabled s k && !x.pend && railAllows s (clusterOf k) (partitionOf e.ctx) && !c.halted && c.reserved.isNone && (!x.khold || x.kctx == some e.ctx)
/-- The aligned block of 2^g cores with the most free ones; the lowest of several. -/
def bestBlock (s : State) (st : Nat) (e : Pend) (g : Nat) : Option Nat :=
  let bases := (storeCores s st).filter fun k => k % 2 ^ g == 0 && (List.range (2 ^ g)).all fun m => reservable s e (k + m)
  let free := fun (k : Nat) => ((List.range (2 ^ g)).filter fun m => coreFreeFor s e.ctx (k + m)).length
  match bases with
  | [] => none
  | b :: r => some (r.foldl (fun best k => if free best < free k then k else best) b)
/-- Blocks reserved for the unplaced gangs of one size, as far as there are any (log 114). -/
def reserveGangs (s : State) (st : Nat) (e : Pend) (g : Nat) : Nat → State
  | 0 => s
  | n + 1 =>
    match bestBlock s st e g with
    | none => s
    | some b =>
      reserveGangs ((List.range (2 ^ g)).foldl (fun acc m => modCore acc (b + m) fun c => { c with reserved := some ⟨st, e.ctx, e.ident, some g⟩ }) s)
        st e g n
/-- The saved gangs of an entry, by the logarithm of their size, each named once by its first member. -/
def savedGangs (e : Pend) : List Nat :=
  (e.saved.filter fun i => match groupOf i e.saved with | x :: _ => x == i | [] => false).filterMap fun i => (imageGang i).map fun g => g.1.log
/-- HEAD_RESERVATION (R313): the head of a store has stood 4 ms: blocks are reserved for its gangs, and the next cores that become free will be
for its units without one. -/
def execHeadReservation (s : State) : Happened :=
  match s.now with
  | some (.headReservation st) =>
    let s1 := settleHead s st
    .next (match headOf s1 st with
      | none => s1
      | some e =>
        if e.reserving then s1
        else
          match launchOf s1 e with
          | none => s1
          | some l =>
            let s2 := modEntry s1 st e fun x => { x with reserving := true }
            let s3 := (savedGangs e).foldl (fun acc g => reserveGangs acc st e g 1) s2
            noteIdle (l.subs.foldl (fun acc x =>
              if x.gang = 0 then acc else reserveGangs acc st e x.gang ((x.units - x.placed) / 2 ^ x.gang)) s3) st)
  | _ => .next s

/-! ### The intensity classifier (R314) -/

/-- The mark of a launch by what it did. -/
def markOf (ops bytes : Nat) : Mark :=
  if bytes = 0 ∨ 400 * bytes ≤ ops then .compute else if ops < 100 * bytes then .memory else .mixed
/-- INTENSITY_CLASSIFY: 64 µs after the placement of unit 0, once; the ember scheduler has no classifier (R319). -/
def execIntensityClassify (s : State) : Happened :=
  match s.now with
  | some (.intensityClassify ctx lid) =>
    .next (modLaunch s ctx lid fun l =>
      if l.mark = .none ∧ l.store ≠ 4 ∧ (l.subs.any fun x => decide (0 < x.placed)) = true then { l with mark := markOf l.ops l.bytes } else l)
  | _ => .next s

/-! ### POWER records and captures (R375 to R377) -/

/-- A POWER record of a cluster, written by a hub unit (log 30). -/
def powerRecord (s : State) (c : Nat) (cause : BitVec 8) : State :=
  let x := getCluster s c
  let word : Word := 0#48 ++ BitVec.ofNat 8 x.temp ++ cause
  if traces x 4 true then
    { s with traceQ := s.traceQ ++ [⟨x.buf, [traceHeader s.hub.cycle 0x7FF 6 3, (vfstate x).zeroExtend 64, word]⟩] }
  else s
/-- One of the causes of POWER happens on a cluster: an armed one starts a capture, whose first record it is. -/
def powerEvent (s : State) (c : Nat) (cause : BitVec 8) : State :=
  let s1 := modCluster s c fun x => if x.arm ∧ ¬ x.capt then { x with arm := false, capt := true } else x
  powerRecord s1 c cause

/-! ### Temperatures and hot spots (R320) -/

/-- Whether a launch's work on a cluster may be moved: no cut names it, no migration of its context is requested (R357), and it has not
moved here within 50 ms. -/
def movable (s : State) (c : Nat) (l : Launch) : Bool :=
  !(cutNames s l.ctx l.lid) && (match getCtx s l.ctx with | some x => x.migrating.isNone | none => true)
    && !(l.moved.any fun p => p.1 == c)
/-- The running tasks of a cluster's movable work. -/
def movingTasks (s : State) (c : Nat) : List TaskInfo :=
  (coresOf c).filterMap fun k => (getCore s k).task.bind fun t =>
    match getLaunch s t.info.ctx t.info.lid with
    | some l => if movable s c l then some t.info else none
    | none => none
/-- Blocks of a cluster found for a list of gangs of one size, by their contexts; the cores left. -/
def fitGangs (s : State) (g : Nat) : List CtxId → List Nat → Option (List Nat)
  | [], free => some free
  | x :: r, free =>
    match free.find? fun k => k % 2 ^ g == 0 && (List.range (2 ^ g)).all fun m => free.contains (k + m) && coreFreeFor s x (k + m) with
    | none => none
    | some b => fitGangs s g r (free.filter fun k => !(decide (b ≤ k) && decide (k < b + 2 ^ g)))
/-- The contexts of the gangs of a size among tasks, each gang once by its first member. -/
def gangsOf (l : List TaskInfo) (g : Nat) : List CtxId :=
  (l.filter fun t => match t.gang with
    | some x => x.log == g && (match l.find? fun u => u.gang == t.gang with | some u => u.gangm == t.gangm | none => false)
    | none => g == 0).map TaskInfo.ctx
/-- Whether a cluster has the free cores and aligned blocks for tasks. -/
def fitsOn (s : State) (c : Nat) (l : List TaskInfo) : Bool :=
  let start := (coresOf c).filter fun k => (getCore s k).reserved.isNone
  ([3, 2, 1, 0].foldl (fun acc g => acc.bind fun free => fitGangs s g (gangsOf l g) free) (some start)).isSome
/-- The clusters to which a hot cluster's work could go. -/
def coolerFor (s : State) (c : Nat) : List Nat :=
  let l := movingTasks s c
  ((List.range 32).map fun i => 32 * (c / 32) + i).filter fun d =>
    d != c && enabled s d && decide ((getCluster s d).temp + 4 ≤ (getCluster s c).temp) && fitsOn s d l
/-- A hot cluster's step falls by one, to the floor. -/
def heatDown (s : State) (c : Nat) : State :=
  let t := targetStep s c
  if t ≤ floorStep c then s else powerEvent (retarget (modCluster s c fun x => { x with thermal := BitVec.ofNat 8 (t - 1) }) c) c 3
/-- One hot cluster dealt with at a reading (R320): its work is moved, to the lowest cooler cluster not yet promised (log 115), or its step falls; the
clusters promised in this reading. -/
def hotCluster (p : State × List Nat) (c : Nat) : State × List Nat :=
  let (s, taken) := p
  let l := coolerFor s c
  let w := (s.launches.filter fun x => runsOn s c x && movable s c x).map fun x => (x.ctx, x.lid)
  if w.isEmpty ∧ (s.launches.any fun x => runsOn s c x && cutNames s x.ctx x.lid) then (s, taken)
  else if w.isEmpty ∨ l.isEmpty then (heatDown s c, taken)
  else
    match l.find? fun d => !(taken.contains d) with
    | none => (s, taken)
    | some d => (powerEvent (startCut s ⟨[.hotSpot c], w, none, [], [(c, d)]⟩) c 4, d :: taken)
/-- A reading counted against the moves of the last 50 ms: 500 readings. -/
def countReading (l : Launch) : Launch :=
  { l with moved := l.moved.filterMap fun p => if p.2 ≤ 1 then none else some (p.1, p.2 - 1) }
/-- THERMAL_READING: the sensors of the blaze clusters named are read; hot clusters are served lowest first. -/
def execThermalReading (s : State) : Happened :=
  match s.now with
  | some (.thermalReading temps) =>
    let known := temps.filter fun p => decide (p.1 < 128) && enabled s p.1
    let s1 := known.foldl (fun acc p => modCluster acc p.1 fun x => { x with temp := p.2 }) { s with launches := s.launches.map countReading }
    let hot := (List.range 128).filter fun c => (known.any fun p => p.1 == c) && decide (100 < (getCluster s1 c).temp)
    .next (hot.foldl hotCluster (s1, [])).1
  | _ => .next s
/-- THERMAL_STEP_UP: a cluster at 95 °C or less regains one step, up to the step granted. -/
def execThermalStepUp (s : State) : Happened :=
  match s.now with
  | some (.thermalStepUp c) =>
    let x := getCluster s c
    .next (if c < 128 ∧ enabled s c = true ∧ x.temp ≤ 95 ∧ x.thermal.toNat < grantedStep s c then
        let t := x.thermal + 1
        let s1 := modCluster s c fun y => { y with thermal := if grantedStep s c ≤ t.toNat then 255 else t }
        powerEvent (retarget s1 c) c 3
      else s)
  | _ => .next s

end Sys2Proof.Machine
end

