-- ==== Sys2Proof/Machine/EvCut.lean ====
section
/-!
DEFINITION. Sys2Proof/Machine/EvCut.lean: the events of the consistent cut (R303, R327, R328, R330, R380, R399) and of migration (R356 to
R358): the stop request, the two stages, the images, the resume and the transfer to the other island.
-/
namespace Sys2Proof.Machine

/-- STOP_REQUEST: a debug stop of a context or of a launch (R327, R380); the scheduler asks for the other cuts itself. -/
def execStopRequest (s : State) : Happened :=
  match s.now with
  | some (.stopRequest w) =>
    .next (match w with
      | .context _ | .launch _ _ => startCut s ⟨[w], workLaunches s w, none, [], []⟩
      | .victims _ _ | .hotSpot _ => s)
  | _ => .next s
/-- CUT_ACKNOWLEDGE: core k's task acknowledges, and the collector releases the tasks of its launch that are behind (R327). -/
def execCutAcknowledge (s : State) : Happened :=
  match s.now with
  | some (.cutAcknowledge i k) =>
    .next (match (getCore s k).task with
      | some t => releaseBehind (acknowledge s i k) i (t.info.ctx, t.info.lid)
      | none => s)
  | _ => .next s
/-- A number put into a rising list. -/
def insertNat (n : Nat) : List Nat → List Nat
  | [] => [n]
  | x :: r => if n ≤ x then n :: x :: r else x :: insertNat n r
/-- The cores that hold work of a cut, ascending. -/
def coresHolding (s : State) (c : Cut) : List Nat := (((allCores s).filter (holdsWork c)).map Core.id).foldr insertNat []
/-- The cycles of the clusters that hold work of a cut, as its second stage freezes them (R328). -/
def frozenCycles (s : State) (c : Cut) : List (Nat × Word) :=
  (((coresHolding s c).map clusterOf).eraseDups).map fun cl => (cl, (getCluster s cl).cycle)
/-- CUT_SECOND_STAGE: the units stop when every launch's counts are equal; until then the collector goes on releasing (R327, R328). -/
def execCutSecondStage (s : State) : Happened :=
  match s.now with
  | some (.cutSecondStage i) =>
    .next (match s.cuts[i]? with
      | none => s
      | some c =>
        if c.stage ≠ 1 then s
        else if c.launches.all fun w => countsEqual s c w then { s with cuts := s.cuts.set i { c with stage := 2, cycles := frozenCycles s c } }
        else c.launches.foldl (fun acc w => releaseBehind acc i w) s)
  | _ => .next s

/-! ### Completion (R303, R328, R399) -/

/-- Core k's part of a cut once every store of its work is performed (R303), as core record i of image n: its STOP record, in which a copy that
has stopped is no longer in flight (R122), its images, in the state and in device memory, and the work gone from it. -/
def stopCore (c : Cut) (n : Nat) (base : Word) (p : State × List Image) (x : Nat × Nat) : State × List Image :=
  let k := getCore p.1 x.1
  let images := coreImages p.1 c n base x.2 k
  let s1 := stopRecord (modCore p.1 x.1 fun y => { y with flight := y.flight.filter fun m => !(c.owns m.rcd) }) x.1
  let header := (images.head?.map Image.header).getD 0
  (modCore { s1 with mem := writeRecord n x.2 header x.1 s1.mem } x.1 (leaveWork c), p.2 ++ images)
/-- The images of launches that have not ended. -/
def liveImages (s : State) (l : List Image) : List Image := l.filter fun i => (getLaunch s i.ctx i.lid).isSome
/-- The entries of some launches leave a store where nothing of them is left to place. -/
def leaveAll (s : State) (st : Nat) (l : List (CtxId × Lid)) : State :=
  l.foldl (fun acc w => match entryOf acc st w with | some e => leaveIfPlaced acc st e | none => acc) s
/-- Whether a cut stops a launch for pre-emptions alone: its saved units go back to the pending store (R317). -/
def Cut.yields (c : Cut) (w : CtxId × Lid) : Bool :=
  c.migrate.isNone && (c.claims.any fun x => x.2.2.2.contains w) &&
    !(c.works.any fun x => match x with | .context ctx => ctx == w.1 | .launch ctx lid => (ctx, lid) == w | .victims _ _ | .hotSpot _ => false)
/-- A pre-emption's end (R317): its victims' saved units return to the store, and the cores that they leave are held for its entry. -/
def settleClaim (c : Cut) (images : List Image) (before : State) (cores : List Nat) (s : State)
    (x : Nat × CtxId × Lid × List (CtxId × Lid)) : State :=
  let (st, ctx, lid, v) := x
  let s1 := leaveAll (saveInto s st (images.filter fun i => v.contains (i.ctx, i.lid) && c.yields (i.ctx, i.lid))) st v
  claimCores s1 st (ctx, lid) (cores.filter fun k => v.any (holdsLaunch (getCore before k)))
/-- What is left of a complete cut: the launches whose images wait for their resume or for the transfer. -/
def Cut.keep (s : State) (c : Cut) (images : List Image) (cores : List Nat) : Cut :=
  let ctx := match c.launches, c.migrate with | w :: _, _ => w.1 | [], some m => m.1 | [], none => 0
  let ember := match c.migrate with | some m => !m.2 | none => cores.any isEmber
  let pending := if c.whole ctx then (s.stores.toList.map fun l => (l.filter fun e => e.ctx == ctx).length).sum else 0
  { c with stage := 3, acks := [], claims := [], launches := c.launches.filter fun w => !(c.yields w)
           images := images.filter fun i => !(c.yields (i.ctx, i.lid)), header := contextHeader ctx ember pending cores.length }
/-- CUT_COMPLETE: every unit has stopped and every message has been captured (R328, R399). The stores of the work are performed on every core
before any image is made (R303), and the images are written to device memory. -/
def execCutComplete (s : State) : Happened :=
  match s.now with
  | some (.cutComplete i) =>
    .next (match s.cuts[i]? with
      | none => s
      | some c =>
        let l := coresHolding s c
        if c.stage ≠ 2 ∨ (l.all fun k => unitsStopped c (getCore s k)) = false then s
        else
          let s0 := l.foldl (fun acc k => release acc k .pkg) { s with free := s.free + 1, serial := s.serial + 1 }
          let (s1, all) := (l.zipIdx).foldl (stopCore c s.serial (freeWord s.free)) (s0, [])
          let images := liveImages s1 all
          let k := c.keep s1 images l
          let cuts := if k.launches.isEmpty ∧ k.migrate.isNone = true then dropAt s1.cuts i else s1.cuts.set i k
          let s2 := { s1 with cuts := cuts, mem := memWrite s1.mem (imageKey s.serial 0) 64 k.header.toNat }
          c.claims.foldl (settleClaim c images s0 l) s2)
  | _ => .next s

/-! ### Resuming (R303, R330, R399) -/

/-- The member index of an image, and the first core of the block that core k puts it into. -/
def blockOf (i : Image) (k : Nat) : Nat := match imageGang i with | some g => k - g.2 | none => k
/-- Whether the scheduler may place an image on core k (R311, R330, R320), and the core can take it (log 87, log 89). -/
def resumable (s : State) (c : Cut) (i : Image) (k : Nat) : Bool :=
  let aligned := match imageGang i with | some g => k % 2 ^ g.1.log == g.2 | none => true
  let cool := c.dests.all fun p => clusterOf i.snap.id != p.1 || clusterOf k == p.2
  let here := match getLaunch s i.ctx i.lid with | some l => (storeCores s l.store).contains k | none => false
  here && aligned && cool && coreFreeFor s i.ctx k && (getCore s k).reserved.isNone && takesImage i (getCore s k)
/-- Whether the members of one gang are put into one block. -/
def sameBlock (a b : Image × Nat) : Bool :=
  match imageGang a.1, imageGang b.1 with
  | some x, some y => a.1.lid != b.1.lid || a.1.ctx != b.1.ctx || x.1.serial != y.1.serial || blockOf a.1 a.2 == blockOf b.1 b.2
  | _, _ => true
/-- CUT_RESUME: the images of a complete cut resumed on the cores that the scheduler chose, one for each image. -/
def execCutResume (s : State) : Happened :=
  match s.now with
  | some (.cutResume i cores) =>
    .next (match s.cuts[i]? with
      | none => s
      | some c =>
        let l := (liveImages s c.images).zip cores
        let fits := decide (cores.length = (liveImages s c.images).length) && decide (cores.Nodup) && (l.all fun p => resumable s c p.1 p.2)
          && l.all fun p => l.all (sameBlock p)
        if c.stage ≠ 3 ∨ c.migrate.isSome = true ∨ fits = false then s
        else
          let s1 := l.foldl (fun acc p => resumeOn acc (blockOf p.1 p.2) p.1) { s with cuts := dropAt s.cuts i }
          let went := fun (x : Launch) => c.dests.filterMap fun p =>
            if c.images.any fun m => m.ctx == x.ctx && m.lid == x.lid && clusterOf m.snap.id == p.1 then some (p.2, 500) else none
          { s1 with launches := s1.launches.map fun x => { x with moved := went x ++ x.moved } })
  | _ => .next s

/-! ### Migration (R356) -/

/-- The enabled clusters held for a context by KINDLE, ascending. -/
def heldClusters (s : State) (ctx : CtxId) : List Nat :=
  (List.range 128).filter fun c => enabled s c && (getCluster s c).khold && (getCluster s c).kctx == some ctx
/-- The blaze clusters that are up with a core free for a context. -/
def freeClusters (s : State) (ctx : CtxId) : List Nat :=
  (List.range 128).filter fun c =>
    ((getCluster s c).pstate == .run || (getCluster s c).pstate == .idle) &&
      (coresOf c).any fun k => coreFreeFor s ctx k && (getCore s k).reserved.isNone
/-- Where a move to blaze takes the work whose TARGET names no die: the die of the lowest cluster held for the context, else of the lowest
one free (log 64), else of the lowest of those that the engine wakes, as many as n cores need. Where it can wake none yet, it waits until one is
chosen, as a KINDLE does (R354): `asked` says that it has asked. -/
def blazeDie (s : State) (ctx : CtxId) (n : Nat) (asked : Bool) : Option Nat × State :=
  match heldClusters s ctx, freeClusters s ctx with
  | c :: _, _ => (some (c / 32), s)
  | [], c :: _ => (some (c / 32), s)
  | [], [] =>
    let s1 := if asked then s else askWake s ⟨ctx, none, none, .pkg, .cold, none⟩ (max 1 (ceilDiv n 8))
    ((heldClusters s1 ctx).head?.map fun c => c / 32, s1)
/-- The store to which a launch of a migrating context goes. -/
def destOf (ember : Bool) (die : Nat) (target : BitVec 3) : Nat := if ember then 4 else if target.toNat < 4 then target.toNat else die
/-- An entry moved to another store. -/
def moveEntry (s : State) (src : Nat) (e : Pend) (st : Nat) : State :=
  let s1 := { s with stores := s.stores.setIfInBounds src ((storeOf s src).filter fun x => !(x.same e)) }
  { s1 with stores := s1.stores.setIfInBounds st (storeOf s1 st ++ [{ e with reserving := false }]) }
/-- The store to which an entry of a migrating context goes: a graph with its walker, as work whose TARGET names no die. -/
def entryDest (s : State) (ember : Bool) (die : Nat) (e : Pend) : Nat :=
  match launchOf s e with
  | some l => destOf ember die l.target
  | none => destOf ember die 7
/-- Every entry of a context moved to its destination. -/
def moveEntries (s : State) (ctx : CtxId) (ember : Bool) (die : Nat) : State :=
  (List.range 5).foldl (fun acc st =>
    ((storeOf s st).filter fun e => e.ctx == ctx).foldl (fun a e => moveEntry (unreserve a st e) st e (entryDest s ember die e)) acc) s
/-- MIGRATION_TRANSFER_COMPLETE: the image of a context has reached the destination; one for which no cluster of blaze can be had yet waits for
one. -/
def execMigrationTransferComplete (s : State) : Happened :=
  match s.now with
  | some (.migrationTransferComplete ctx) =>
    .next (match s.cuts.findIdx? fun c => c.stage == 3 && (match c.migrate with | some m => m.1 == ctx | none => false) with
      | none => s
      | some i =>
        match s.cuts[i]? with
        | none => s
        | some c =>
          let ember := match c.migrate with | some m => m.2 | none => false
          let images := liveImages s c.images
          match (if ember then (some 4, s) else blazeDie s ctx images.length c.asked) with
          | (none, s1) => { s1 with cuts := s1.cuts.set i { c with asked := true } }
          | (some die, s1) =>
            let s2 := modCtx { s1 with cuts := dropAt s1.cuts i } ctx fun x => { x with lives := some ember, migrating := none }
            let s3 := moveEntries s2 ctx ember die
            let s4 := { s3 with
              launches := s3.launches.map fun l => if l.ctx = ctx then { l with store := destOf ember die l.target } else l
              graphs := s3.graphs.map fun g => if g.ctx = ctx then { g with walker := destOf ember die 7 } else g }
            images.foldl putBack s4)
  | _ => .next s

end Sys2Proof.Machine
end

