-- ==== Sys2Proof/Machine/EvPower.lean ====
section
/-!
DEFINITION. Sys2Proof/Machine/EvPower.lean: the events of clusters and power (spec/17 R350 to R355, R359 to R361; R146): entering and
leaving IDLE, SMOORED, COLD and OFF, wakes, LPDDR-6 channels, rail switches, generator handovers, limiters and droops. How long each state
or sample lasts is the environment's to say (log 24).
-/
namespace Sys2Proof.Machine

/-! ### Falling asleep (R350, R351) -/

/-- Whether every core of a cluster is quiet. -/
def clusterQuiet (s : State) (c : Nat) : Bool := (coresOf c).all fun k => coreQuiet (getCore s k)
/-- CLUSTER_IDLE_ENTRY. -/
def execClusterIdleEntry (s : State) : Happened :=
  match s.now with
  | some (.clusterIdleEntry c) =>
    let x := getCluster s c
    .next (if c < 128 ∧ enabled s c = true ∧ x.pstate = .run ∧ x.moving = false ∧ x.gated = false ∧ clusterQuiet s c = true then
        setCluster s c { x with pstate := .idle }
      else s)
  | _ => .next s

/-- The lines of core k that a test picks, written back and dropped. -/
def shedLines (s : State) (k : Nat) (p : Line → Bool) : State :=
  ((getCore s k).l1.filter p).foldl (fun acc l => removeSharer (dropLine (writeBackLine acc k l.addr) k l.addr) k l.addr) s
/-- The register files of a core lost: what they hold is free (log 9). -/
def loseRegisters (n : Nat) (c : Core) : Core :=
  let w := fun (i : Nat) => freeWord (n + i)
  let wide := fun (i : Nat) => w i ++ w (i + 1) ++ w (i + 2) ++ w (i + 3) ++ w (i + 4) ++ w (i + 5) ++ w (i + 6) ++ w (i + 7)
  { c with
    win := { w := Vector.ofFn fun i => w i.val, link := (w 16).extractLsb' 0 56 }, out := Vector.ofFn fun i => w (17 + i.val)
    g := Vector.ofFn fun i => w (25 + i.val), p := Vector.ofFn fun i => w (33 + i.val), v := Vector.ofFn fun i => wide (41 + 8 * i.val)
    below := []
    svc := { c.svc with
      w := Vector.ofFn fun i => w (297 + i.val), g := Vector.ofFn fun i => w (321 + i.val), p := Vector.ofFn fun i => w (329 + i.val) }
    coal := { c.coal with v := Vector.ofFn fun i => wide (337 + 8 * i.val), p1 := w 593 } }
/-- The registers of a cluster's cores lost. -/
def loseCluster (s : State) (c : Nat) : State :=
  let s1 := (coresOf c).foldl (fun acc k => modCore acc k (loseRegisters (s.free + 600 * rankOf k))) s
  { s1 with free := s.free + 4800 }
/-- What SMOORED loses: every line of the L1s but the zero-flagged ones, and the register files (R350). -/
def enterSmoored (s : State) (c : Nat) : State :=
  loseCluster ((coresOf c).foldl (fun acc k => shedLines (release acc k .sys) k fun l => !l.zero) s) c
/-- What COLD loses besides: the operand latch and the zero-flagged lines; the images of local memory and accumulators come back at the
wake. -/
def enterCold (s : State) (c : Nat) : State :=
  (coresOf c).foldl (fun acc k => modCore (shedLines (release acc k .sys) k fun _ => true) k fun y => { y with latch := none }) s
/-- A transition begun. -/
def beginMove (s : State) (c : Nat) (t : PState) : State := modCluster s c fun x => { x with moving := true, target := some t }
/-- SMOORED_ENTRY: IDLE for SMHOLD, not held and not reserved. -/
def execSmooredEntry (s : State) : Happened :=
  match s.now with
  | some (.smooredEntry c) =>
    let x := getCluster s c
    .next (if c < 128 ∧ enabled s c = true ∧ x.pstate = .idle ∧ x.moving = false ∧ x.gated = false ∧ x.khold = false ∧ anyReserved s c = false
          ∧ clusterQuiet s c = true then
        beginMove (enterSmoored s c) c .smoored
      else s)
  | _ => .next s
/-- COLD_ENTRY: SMOORED for COLDHOLD. -/
def execColdEntry (s : State) : Happened :=
  match s.now with
  | some (.coldEntry c) =>
    let x := getCluster s c
    .next (if c < 128 ∧ enabled s c = true ∧ x.pstate = .smoored ∧ x.moving = false ∧ clusterQuiet s c = true then
        beginMove (enterCold s c) c .cold
      else s)
  | _ => .next s
/-- Whether some cluster is waking. -/
def anyWaking (s : State) : Bool := (s.clusters.map Prod.snd).any fun x => x.moving && (x.waking.isSome || x.target == some .run)
/-- CLUSTER_STATE_CHANGE_FINISHED: a cluster rests in SMOORED or COLD, or goes on to wake if it was told to meanwhile (R352); when the
package falls asleep its LPDDR-6 does too (R351). -/
def execClusterStateChangeFinished (s : State) : Happened :=
  match s.now with
  | some (.clusterStateChangeFinished c) =>
    let x := getCluster s c
    .next (match x.moving, x.target with
      | true, some t =>
        if t = .run then s
        else
          let on := x.waking.isSome || !(clusterQuiet s c)
          let s1 := setCluster s c { x with pstate := t, moving := on, target := if on then some .run else none }
          if packageSleeps s1 && !(packageSleeps s) && !(anyWaking s1) then { s1 with hub := { s1.hub with awake := [], wanted := [] } } else s1
      | _, _ => s)
  | _ => .next s

/-- The package OFF (R351): the always-on domain keeps the notify aperture and the wake latch and queue; the rest is without power. -/
def switchOff (s : State) : State :=
  let r := State.boot s.fuses
  { r with
    clusters := [(128, { getCluster r 128 with gated := true })]
    mem := s.mem.filter fun p => decide (2 ^ 47 ≤ p.1) && decide (p.1 < 2 ^ 48)
    hub := { r.hub with packageOff := true, apertureUp := false, aperture := s.hub.aperture, wakeLatch := s.hub.wakeLatch
                        wakeQueue := s.hub.wakeQueue, wakeLost := s.hub.wakeLost, wakeReg := s.hub.wakeReg, cycle := s.hub.cycle }
    flash := s.flash, free := s.free, agenda := s.agenda }
/-- The firmware boot that ends OFF (R351): the aperture comes up later (R362). -/
def bootUp (s : State) : State := { s with clusters := [], hub := { s.hub with packageOff := false } }
/-- FIRMWARE_POWER_COMMAND: a quiet cluster to COLD, the package to OFF, or the boot from OFF. -/
def execFirmwarePowerCommand (s : State) : Happened :=
  match s.now with
  | some (.firmwarePowerCommand cmd) =>
    .next (match cmd with
      | .coldCluster c =>
        let x := getCluster s c
        if c < 128 ∧ enabled s c = true ∧ (x.pstate = .idle ∨ x.pstate = .smoored) ∧ x.moving = false ∧ x.gated = false
            ∧ clusterQuiet s c = true then
          beginMove (enterCold (if x.pstate = .idle then enterSmoored s c else s) c) c .cold
        else s
      | .packageOff => if s.hub.packageOff then s else switchOff s
      | .boot => if s.hub.packageOff then bootUp s else s)
  | _ => .next s

/-! ### Wakes (R352, R354, R355) -/

/-- KINDLE_DEFERRED_CHOICE: clusters that have come to qualify are chosen for the KINDLEs still short. -/
def execKindleDeferredChoice (s : State) : Happened :=
  match s.now with
  | some .kindleDeferredChoice => .next (serveKindles s)
  | _ => .next s
/-- The increment of a wake (R276): discarded when the word's core has another owner. -/
def wakeIncrement (s : State) (r : WakeReq) : State :=
  match r.word with
  | none => s
  | some (k, off) =>
    if (getCore s k).owner = some r.ctx then
      arrive (match r.issuer with | some i => release s i r.scope | none => s) k (localKey k off.toNat) 1 r.scope
    else s
/-- CLUSTER_WAKE_COMPLETE: the cluster can start a task. -/
def execClusterWakeComplete (s : State) : Happened :=
  match s.now with
  | some (.clusterWakeComplete c) =>
    let x := getCluster s c
    .next (if x.moving = true ∧ x.target = some .run then
        let s1 := setCluster s c { x with pstate := .run, moving := false, target := none, waking := none }
        match x.waking with
        | some r => wakeIncrement s1 r
        | none => s1
      else s)
  | _ => .next s
/-- KHOLD_TIMEOUT: one millisecond after the wake without a placement. -/
def execKholdTimeout (s : State) : Happened :=
  match s.now with
  | some (.kholdTimeout c) =>
    let x := getCluster s c
    .next (if x.khold = true ∧ x.waking = none ∧ x.moving = false then setCluster s c { x with khold := false } else s)
  | _ => .next s

/-! ### LPDDR-6 channels (R353) -/

/-- CHANNEL_WAKE_COMPLETE: a channel that an ember access asked for is awake. -/
def execChannelWakeComplete (s : State) : Happened :=
  match s.now with
  | some (.channelWakeComplete ch) =>
    .next (if ch ∈ s.hub.wanted then
        { s with hub := { s.hub with awake := ch :: s.hub.awake, wanted := s.hub.wanted.filter fun x => x != ch } }
      else s)
  | _ => .next s
/-- CHANNEL_SELF_REFRESH_ENTRY: one millisecond without an access; a wake in progress keeps every channel awake. -/
def execChannelSelfRefreshEntry (s : State) : Happened :=
  match s.now with
  | some (.channelSelfRefreshEntry ch) =>
    .next (if packageSleeps s && !(anyWaking s) then { s with hub := { s.hub with awake := s.hub.awake.filter fun x => x != ch } } else s)
  | _ => .next s

/-! ### Rail switches and handovers (R65, R146, R285, R361) -/

/-- The highest step that the setpoint of the blaze rails supports: the spec gives no table of it (log 85). -/
def supportedStep (s : State) (c : Nat) : Nat := max (floorStep c) (freeStep s.fuses.railMv).toNat
/-- RAIL_SWITCH: no running task and no busy engine; the step first falls, through a generator handover, to what the new rail supports (R361),
and then the clock is gated. -/
def execRailSwitch (s : State) : Happened :=
  match s.now with
  | some (.railSwitch c) =>
    let x := getCluster s c
    let still := (coresOf c).all fun k => (getCore s k).task.isNone && (getCore s k).bank == .user && !(enginesBusy (getCore s k))
    .next (if c < 128 ∧ x.pend = true ∧ x.gated = false ∧ x.moving = false ∧ still = true then
        let t := supportedStep s c
        if t < (if x.locking then x.lockStep.toNat else x.fstep.toNat) then
          setCluster s c { x with locking := true, lockStep := BitVec.ofNat 8 t, limiter := BitVec.ofNat 8 t }
        else if x.locking then s
        else setCluster s c { x with gated := true }
      else s)
  | _ => .next s
/-- RAIL_SWITCH_GATE_END: the switch is done. -/
def execRailSwitchGateEnd (s : State) : Happened :=
  match s.now with
  | some (.railSwitchGateEnd c) =>
    let x := getCluster s c
    .next (if c < 128 ∧ x.pend = true ∧ x.gated = true then
        retarget (setCluster s c { x with gated := false, pend := false, rail := railOf x.newRail, vcode := s.fuses.railMv }) c
      else s)
  | _ => .next s
/-- GENERATOR_HANDOVER: only the latest target is handed over; stretching ends, and the ember rail's voltage follows a lowered clock. -/
def execGeneratorHandover (s : State) : Happened :=
  match s.now with
  | some (.generatorHandover c) =>
    let x := getCluster s c
    .next (if x.locking then
        let v := if c = 128 then BitVec.ofNat 10 (emberMv x.lockStep.toNat) else x.vcode
        let s1 := setCluster s c { x with fstep := x.lockStep, gen := !x.gen, locking := false, stretch := false, vcode := v }
        grantBoost s1 s1.hub.boostWait.length
      else s)
  | _ => .next s

/-! ### Limiters and droops (R13, R359, R360) -/

/-- The clusters on a rail. -/
def clustersOn (s : State) (r : Rail) : List Nat :=
  (List.range 129).filter fun c => enabled s c && (getCluster s c).rail == r
/-- A value kept for a rail. -/
def railGet (l : List (Rail × Nat)) (r : Rail) : Option Nat := (l.find? fun p => p.1 == r).map Prod.snd
/-- A value kept for a rail, replaced. -/
def railSet (l : List (Rail × Nat)) (r : Rail) (n : Nat) : List (Rail × Nat) := (r, n) :: l.filter fun p => p.1 != r
/-- A limiter step down of a cluster: it stretches at once, and its step falls by one through a handover. -/
def limitDown (s : State) (c : Nat) : State :=
  let t := targetStep s c
  let low := if floorStep c < t then t - 1 else t
  let s1 := retarget (modCluster s c fun x => { x with stretch := true, limiter := BitVec.ofNat 8 low }) c
  if low < t then powerEvent s1 c 1 else s1
/-- A limiter step up of a cluster, to the step granted. -/
def limitUp (s : State) (c : Nat) : State :=
  let x := getCluster s c
  if x.limiter.toNat < grantedStep s c then
    let t := x.limiter + 1
    powerEvent (retarget (modCluster s c fun y => { y with limiter := if grantedStep s c ≤ t.toNat then 255 else t }) c) c 1
  else s
/-- The samples in a row below 90 % of the limit counted. -/
def setCalm (s : State) (r : Rail) (n : Nat) : State := { s with hub := { s.hub with railCalm := railSet s.hub.railCalm r n } }
/-- CURRENT_SAMPLE of a rail; a rail to which firmware has set no limit has none. -/
def execCurrentSample (s : State) : Happened :=
  match s.now with
  | some (.currentSample r code) =>
    .next (match railGet s.hub.railLimit r with
      | none => s
      | some limit =>
        if limit ≤ code then (clustersOn s r).foldl limitDown (setCalm s r 0)
        else if 10 * code < 9 * limit then
          let n := (railGet s.hub.railCalm r).getD 0 + 1
          if 20 ≤ n then (clustersOn s r).foldl limitUp (setCalm s r 0) else setCalm s r n
        else setCalm s r 0)
  | _ => .next s
/-- The package ceiling changed: every cluster follows it, and every listed one has the event of R375. -/
def setCeiling (s : State) (n : Nat) : State :=
  let s1 := retargetAll { s with hub := { s.hub with ceiling := BitVec.ofNat 8 n } }
  (s1.clusters.map Prod.fst).foldl (fun acc c => powerEvent acc c 2) s1
/-- PACKAGE_POWER_WINDOW: above 520 W the ceiling falls by one step from the highest there is, below 500 W it rises by one. -/
def execPackagePowerWindow (s : State) : Happened :=
  match s.now with
  | some (.packagePowerWindow watts) =>
    let top := boostStep s.fuses
    let now_ := min s.hub.ceiling.toNat top
    .next (if 520 < watts then (if 16 < now_ then setCeiling s (now_ - 1) else s)
      else if watts < 500 then (if now_ < top then setCeiling s (now_ + 1) else s)
      else s)
  | _ => .next s
/-- DROOP_DETECT: the next cycle of every cluster on the rail is stretched. -/
def execDroopDetect (s : State) : Happened :=
  match s.now with
  | some (.droopDetect r) => .next ((clustersOn s r).foldl (fun acc c => modCluster acc c fun x => { x with droop := true }) s)
  | _ => .next s

end Sys2Proof.Machine
end

