-- ==== Sys2Proof/Machine/EvLink.lean ====
section
/-!
DEFINITION. Sys2Proof/Machine/EvLink.lean: the events of the die links (R16 to R18, R128, R363 to R365): retirement of a lane group, and
the turns. Flits and their order are not state: a turn or a retirement changes only bandwidth.
-/
namespace Sys2Proof.Machine

/-- Link l changed. -/
def modLink (s : State) (l : P) (f : Link → Link) : State := { s with links := s.links.set l.val (f s.links[l.val]) }
/-- A group's rank among the good groups of a link. -/
def goodRank (x : Link) (g : Nat) : Nat := popBelow g x.good.toNat
/-- TOWARD after group g is gone: one less where the group carried that way, and between 1 and n - 1 (R17). -/
def towardAfter (x : Link) (g : Nat) : BitVec 5 :=
  let t := if goodRank x g < x.toward.toNat then x.toward.toNat - 1 else x.toward.toNat
  BitVec.ofNat 5 (max 1 (min t (x.count - 2)))
/-- A link without group g; one left with fewer than two good groups leaves service whole (R17, R18). -/
def withoutGroup (x : Link) (g : BitVec 4) : Link :=
  let good := x.good &&& ~~~(BitVec.ofNat 16 (2 ^ g.toNat))
  if x.count < 3 then { x with good := 0, inService := false, toward := 0, turns := [], dead := none }
  else { x with good := good, toward := towardAfter x g.toNat }
/-- LANE_GROUP_RETIRE: a good group of a link in service is retired, and LGFAIL counts it, or every group the link still had. -/
def execLaneGroupRetire (s : State) : Happened :=
  match s.now with
  | some (.laneGroupRetire l g) =>
    let x := s.links[l.val]
    .next (if x.inService && x.good.getLsbD g.toNat then
        let lost := x.count - (withoutGroup x g).count
        { modLink s l fun x => withoutGroup x g with lgfail := satAdd s.lgfail lost }
      else s)
  | _ => .next s
/-- The target of a turn reduced to what the link's good groups allow; none where no target is left (R16, R17). The return to the reset
split is such a turn (R128), so that a link of three good groups keeps the split it has at a phase end (log 86). -/
def turnTarget (x : Link) (t : BitVec 5) : Option (BitVec 5) :=
  if x.count < 4 then none else some (BitVec.ofNat 5 (max 2 (min t.toNat (x.count - 2))))
/-- LINK_TURN_APPLY: the turn at the head of a link's queue leaves it; unless it changes nothing, its groups go dead (R364). -/
def execLinkTurnApply (s : State) : Happened :=
  match s.now with
  | some (.linkTurnApply l) =>
    .next (modLink s l fun x =>
      match x.dead, x.turns with
      | none, t :: r =>
        match turnTarget x t with
        | some u => if u = x.toward then { x with turns := r } else { x with turns := r, dead := some u }
        | none => { x with turns := r }
      | _, _ => x)
  | _ => .next s
/-- TURN_DEAD_TIME_END: the changed groups carry the new direction, and TOWARD takes the target, under the limit that the good groups left
put on it (R17); with fewer than four of them the turn is not made. -/
def execTurnDeadTimeEnd (s : State) : Happened :=
  match s.now with
  | some (.turnDeadTimeEnd l) =>
    .next (modLink s l fun x =>
      match x.dead with
      | some t => { x with toward := (turnTarget x t).getD x.toward, dead := none }
      | none => x)
  | _ => .next s

end Sys2Proof.Machine
end

