-- ==== Sys2Proof/Machine/EvHost.lean ====
section
/-!
DEFINITION. Sys2Proof/Machine/EvHost.lean: the events of the host and of the command complexes (R130, R132, R304, R362, R368, R370 to R372),
machine checks and restarts (R287, R305, R326).
-/
namespace Sys2Proof.Machine

/-! ### Host wakes (R130, R132, R362) -/

/-- The STATUS of the event entry of a refused wake write: the first test that fails in the order of R362. -/
def wakeRefusal (s : State) (v : Word) : Option (BitVec 16) :=
  let n := (v.extractLsb' 8 10).toNat
  if v.extractLsb' 28 36 ≠ 0 ∨ v.extractLsb' 2 6 ≠ 0 then some 0x0203
  else if wakeGranted s (v.extractLsb' 18 10) = false then some 0x0200
  else if n = 0 ∨ enabledCount s < n then some 0x0201
  else if v.extractLsb' 0 2 = 0 then some 0x0202
  else none
/-- The class of a wake write. -/
def wakeClassOf (x : BitVec 2) : WakeClass := if x = 1 then .idle else if x = 2 then .smoored else .cold
/-- A wake write that the aperture takes: the wake register holds it, and it is a KINDLE without an arrival word; a refused one does nothing
but its event entry. -/
def acceptWake (s : State) (v : Word) : State :=
  let ctx : CtxId := v.extractLsb' 18 10
  match wakeRefusal s v with
  | some e => journalEvent s ctx e
  | none => askWake { s with hub := { s.hub with wakeReg := v } }
      ⟨ctx, none, none, .pkg, wakeClassOf (v.extractLsb' 0 2), none⟩ (v.extractLsb' 8 10).toNat
/-- A wake write while the aperture is down (R130). -/
def latchWake (s : State) (v : Word) : State :=
  match s.hub.wakeLatch with
  | none => { s with hub := { s.hub with wakeLatch := some v } }
  | some _ =>
    if s.hub.wakeQueue.length < 16 then { s with hub := { s.hub with wakeQueue := s.hub.wakeQueue ++ [v] } }
    else { s with hub := { s.hub with wakeLost := satAdd s.hub.wakeLost 1 } }
/-- HOST_WAKE_WRITE. -/
def execHostWakeWrite (s : State) : Happened :=
  match s.now with
  | some (.hostWakeWrite v) => .next (if s.hub.apertureUp then acceptWake s v else latchWake s v)
  | _ => .next s
/-- APERTURE_UP: the latch and then the queue are delivered in arrival order. -/
def execApertureUp (s : State) : Happened :=
  match s.now with
  | some .apertureUp =>
    .next (if s.hub.apertureUp || s.hub.packageOff then s
      else
        let l := s.hub.wakeLatch.toList ++ s.hub.wakeQueue
        l.foldl acceptWake { s with hub := { s.hub with apertureUp := true, wakeLatch := none, wakeQueue := [] } })
  | _ => .next s

/-! ### Host accesses (R304, R362, R368) -/

/-- Whether n bytes at a physical address lie within a host-shared range. -/
def inHostRange (s : State) (a n : Nat) : Bool :=
  s.hub.hostRanges.any fun r => decide (r.1.toNat ≤ a) && decide (a + n ≤ r.1.toNat + r.2.toNat)
/-- A host access refused. -/
def refuseHost (s : State) : State := { s with hub := { s.hub with hostRefused := satAdd s.hub.hostRefused 1 } }
/-- What the host's read sees: bytes, and whether they are poisoned. -/
def hostSees (s : State) (bytes : List Byte) (poison : Bool) : State := { s with hub := { s.hub with hostRead := bytes, hostPoison := poison } }
/-- Bytes written at a physical address, the lowest address first. -/
def putBytes (s : State) (a : Nat) (bytes : List Byte) : State := homePut s (bytes.zipIdx.map fun p => (a + p.2, p.1))
/-- Whether an overflow task holds one of the lines of n bytes: the host's request waits for its end (R86; log 105). -/
def hostWaits (s : State) (a n : Nat) : Bool :=
  let l := overflowLines s
  !l.isEmpty && (List.range n).any fun i => l.contains ((a + i) / 128)
/-- The hub's capability block (R366): GOODG of the links, and CLUSEN. -/
def capabilityBlock (s : State) : BitVec 256 :=
  let good := (List.finRange 8).foldl (fun acc l => acc + s.links[l].good.toNat * 2 ^ (16 * l.val)) 0
  BitVec.ofNat 128 good ++ s.fuses.clusEn
/-- An aperture register as the host reads it (R362). -/
def apertureReg (s : State) (n : Nat) : Word :=
  if n = 1023 then s.hub.wakeReg else ((s.hub.aperture.find? fun p => p.1.toNat == n).map Prod.snd).getD 0
/-- HOST_MEM_ACCESS: one access of any size to host-shared LPDDR-6, to the host's own memory, or over CXL.io to an aperture register or the
capability block (log 69). -/
def execHostMemAccess (s : State) : Happened :=
  match s.now with
  | some (.hostMemAccess x) =>
    .next (match x with
      | .read a n =>
        if hostWaits s a.toNat n then s else if inHostRange s a.toNat n then hostSees s ((List.range n).map fun i => memGet s.mem (a.toNat + i)) false
        else refuseHost (hostSees s (List.replicate n 0xFF) true)
      | .write a l => if hostWaits s a.toNat l.length then s else if inHostRange s a.toNat l.length then putBytes s a.toNat l else refuseHost s
      | .own a l => if 2 ^ 47 ≤ a.toNat ∧ a.toNat + l.length ≤ 2 ^ 48 then putBytes s a.toNat l else s
      | .aperture n => hostSees s (toBytes 8 (apertureReg s n.val).toNat) false
      | .capability i => hostSees s (toBytes 8 ((capabilityBlock s).extractLsb' (64 * i.val) 64).toNat) false)
  | _ => .next s

/-! ### The complexes (R370 to R372) -/

/-- HEARTBEAT_TIMEOUT: the standby takes over with the mirrored state. -/
def execHeartbeatTimeout (s : State) : Happened :=
  match s.now with
  | some .heartbeatTimeout => .next { s with hub := { s.hub with activeA := !s.hub.activeA } }
  | _ => .next s
/-- LIVE_UPDATE: the checks of R371, and on success the measurement, the takeover and its event entry. -/
def execLiveUpdate (s : State) : Happened :=
  match s.now with
  | some (.liveUpdate sigOk verOk meas) =>
    .next (if !sigOk then journalEvent s 0 0x0300
      else if !verOk then journalEvent s 0 0x0301
      else
        let h := s.hub
        journalEvent { s with hub := { h with
          measurement := extendMeasure h.measurement meas, measureLog := h.measureLog ++ [meas], activeA := !h.activeA } } 0 0x0302)
  | _ => .next s
/-- ATTESTATION_REQUEST (R372): a signature over the nonce and the measurement register; the log stands in the state. -/
def execAttestationRequest (s : State) : Happened :=
  match s.now with
  | some (.attestationRequest nonce) =>
    .next { s with hub := { s.hub with attest := some (mlDsaSign (toBytes 32 nonce.toNat ++ toBytes 64 s.hub.measurement.toNat)) } }
  | _ => .next s

/-! ### Machine checks (R305, R326) -/

/-- Whether a source of R326 is an uncorrectable SRAM error of a core. -/
def sramSource (src : BitVec 8) : Bool := (decide (1 ≤ src.toNat) && decide (src.toNat ≤ 6)) || src == 10
/-- MACHINE_CHECK: a corrected error is counted; an uncorrectable one halts the core and kills its owner; a link or LPDDR-6 error (or an
error of a hub memory) halts the requesting core and kills the requester's context. A number that is no core stands for the hub, a graph walker
or another unit that is no core: nothing halts, and the context of its request is killed. -/
def execMachineCheck (s : State) : Happened :=
  match s.now with
  | some (.machineCheck k r) =>
    .next (match r with
      | .corrected =>
        if coreEnabled s k then modCore s k fun c => { c with mcb := { c.mcb with corr := satAdd c.mcb.corr 1 } }
        else { s with hub := { s.hub with corrected := satAdd s.hub.corrected 1 } }
      | .uncorrectable src bank synd addr =>
        if coreEnabled s k && sramSource src then
          match (getCore s k).owner with
          | some ctx => machineCheck s k src bank 0 synd addr ctx
          | none => haltCore s k src bank 0 synd addr
        else s
      | .requester src bank ctx synd addr =>
        if !(src == 7 || src == 8) then s
        else if coreEnabled s k then machineCheck s k src bank 0 synd addr ctx
        else killContext s ctx)
  | _ => .next s
/-- CORE_RESTART (R287, R326). -/
def execCoreRestart (s : State) : Happened :=
  match s.now with
  | some (.coreRestart k) =>
    .next (if (getCore s k).halted then modCore s k fun c => { c with halted := false, mcb := { c.mcb with valid := false } } else s)
  | _ => .next s

end Sys2Proof.Machine
end

