-- ==== Sys2Proof/Machine/EvTrace.lean ====
section
/-!
DEFINITION. Sys2Proof/Machine/EvTrace.lean: the events of the trace hub and of debug stops (spec/19 R374 to R380): writing records into
sample buffers, samples, the end of a capture, stopping and resuming a core.
-/
namespace Sys2Proof.Machine

/-- Words written from a word position of a buffer on. -/
def putWords (s : State) (b : SampleBuf) (p : Nat) (l : List Word) : State :=
  l.zipIdx.foldl (fun acc w => putNum acc (b.base.toNat + 8 * (p + w.2)) 8 w.1.toNat) s
/-- A record written into a sample buffer as R378 states; what the hub writes of its own carries the hub's cycle count. -/
def putRecord (s : State) (b : SampleBuf) (words : List Word) : State :=
  let size := b.size.toNat
  let len := words.length
  let p := b.wr.toNat % size
  let used := (b.wr - b.rd).toNat
  let free := size - used
  let own := fun (kind : BitVec 4) => [traceHeader s.hub.cycle 0x7FF kind 1]
  let put := fun (t : State) (n : Nat) =>
    { t with buffers := s.buffers.map fun x => if x.n = b.n then { x with wr := x.wr + BitVec.ofNat 32 n } else x }
  let lost := { s with buffers := s.buffers.map fun x => if x.n = b.n then { x with lostn := satAdd x.lostn 1 } else x }
  if size = 0 ∨ size < used then lost
  else if p + len ≤ size ∧ len ≤ free then put (putWords s b p words) len
  else if size < p + len ∧ size - p + len ≤ free then
    let s1 := putWords s b p (own 0)
    let s2 := { s1 with mem := memClear s1.mem (b.base.toNat + 8 * (p + 1)) (b.base.toNat + 8 * size) }
    put (putWords s2 b 0 words) (size - p + len)
  else if 1 ≤ free then put (putWords s b p (own 1)) 1
  else lost
/-- TRACE_RECORD_WRITE: the oldest record on its way; one whose buffer firmware has not described goes nowhere. -/
def execTraceRecordWrite (s : State) : Happened :=
  match s.now with
  | some .traceRecordWrite =>
    .next (match s.traceQ with
      | [] => s
      | r :: rest =>
        let s1 := { s with traceQ := rest }
        match s1.buffers.find? fun b => b.n == r.buf with
        | some b => putRecord s1 b r.words
        | none => s1)
  | _ => .next s
/-- TRACE_SAMPLE_TIMER: core k's sample. A service task with no user task behind it reads ACTID and LID as 0 (R63); a core without a task has no
next instruction, and its words are free (log 9). -/
def execTraceSampleTimer (s : State) : Happened :=
  match s.now with
  | some (.traceSampleTimer k) =>
    let x := getCluster s (clusterOf k)
    let c := getCore s k
    .next (if coreEnabled s k && traces x 1 true && decide (x.sintv ≠ 0) && clockRuns x then
        match c.task with
        | some t => traceRec s k 3 [c.pc.setWidth 56 |>.zeroExtend 64, t.actid ++ t.info.lid]
        | none =>
          if c.bank = .service then traceRec s k 3 [c.pc.setWidth 56 |>.zeroExtend 64, 0]
          else
          let (a, s1) := freshWord s
          let (b, s2) := freshWord s1
          traceRec s2 k 3 [(a.extractLsb' 0 56).zeroExtend 64, b]
      else s)
  | _ => .next s
/-- CAPTURE_END: CAPLEN × 1,024 cycles after it started. -/
def execCaptureEnd (s : State) : Happened :=
  match s.now with
  | some (.captureEnd c) => .next (if (getCluster s c).capt then modCluster s c fun x => { x with capt := false } else s)
  | _ => .next s

/-- Whether core k stands between activations with its engines idle, and no service task runs on it (R380, R381). -/
def mayStop (s : State) (k : Nat) : Bool :=
  let c := getCore s k
  c.task.isNone && c.bank == .user && !(enginesBusy c)
/-- DEBUG_CORE_STOP: asked for, the core chooses nothing more; once its task has ended and its engines are idle it writes its STOP record. -/
def execDebugCoreStop (s : State) : Happened :=
  match s.now with
  | some (.debugCoreStop k) =>
    .next (if !(coreEnabled s k) || (getCore s k).debugStopped then s
      else
        let s1 := modCore s k fun c => { c with debugStop := true }
        if mayStop s1 k then modCore (stopRecord s1 k) k fun c => { c with debugStopped := true } else s1)
  | _ => .next s
/-- DEBUG_CORE_RESUME. -/
def execDebugCoreResume (s : State) : Happened :=
  match s.now with
  | some (.debugCoreResume k) => .next (if coreEnabled s k then modCore s k fun c => { c with debugStop := false, debugStopped := false } else s)
  | _ => .next s

end Sys2Proof.Machine
end

