-- ==== Sys2Proof/Machine/EvFirmware.lean ====
section
/-!
DEFINITION. Sys2Proof/Machine/EvFirmware.lean: FIRMWARE_REGISTER_WRITE: the registers, tables and records that the spec says firmware sets
or clears and that no other event writes.
-/
namespace Sys2Proof.Machine

/-- Every queue of a context barred once the guilt count passes the limit (R160). -/
def barGuilty (c : Ctx) : Ctx :=
  if c.guiltLimit.toNat < c.guilt.toNat then { c with queues := c.queues.map fun q => { q with barred := true } } else c
/-- A context as firmware creates it: no guilt, the default limit of 8, an empty fault queue, no command queue. -/
def newCtx (ctx : CtxId) (root : BitVec 48) (wake : Bool) (watch : BitVec 56) (base : BitVec 48) (lsize : BitVec 4) : Ctx :=
  { id := ctx, root := root, wakeGrant := wake, watch := watch, guilt := 0, guiltLimit := 8, faultBase := base, faultLsize := lsize
    faultDrop := 0, faultWr := 0, faultRd := 0, nextLid := 0, nextGid := 0, phaseLog := [], queues := [], phases := [], lives := none
    migrating := none }
/-- A command queue as firmware creates it, empty. -/
def newQueue (q : BitVec 4) (base : BitVec 48) (lsize : BitVec 5) (prio : BitVec 6) (firmware : Bool) : CmdQueue :=
  { q := q, base := base, wridx := 0, rdidx := 0, prio := prio, lsize := lsize, barred := false, closed := false, cancelled := false
    errstat := 0, firmware := firmware, served := 0, phase := none, heldFor := none, count := 0 }
/-- A queue added to a context, in the place of a closed or cancelled one without work of the same number. -/
def addQueue (c : Ctx) (x : CmdQueue) : Ctx :=
  if c.queues.any fun y => y.q == x.q && !((y.closed || y.cancelled) && y.count == 0) then c
  else { c with queues := c.queues.filter (fun y => y.q != x.q) ++ [x] }
/-- The trace control word written (R376): ARM can be set alone, and CAPT is not firmware's. -/
def writeTraceControl (x : Cluster) (w : Word) : Cluster :=
  { x with sintv := w.extractLsb' 32 32, caplen := w.extractLsb' 16 16, buf := w.extractLsb' 8 8, arm := x.arm || w.getLsbD 7
           en := w.extractLsb' 0 6 }
/-- A list of 16 host-shared ranges with one replaced; a range is 64 KiB aligned and a multiple of 64 KiB (R368). -/
def setRange (l : List (BitVec 48 × BitVec 48)) (i : Fin 16) (r : BitVec 48 × BitVec 48) : List (BitVec 48 × BitVec 48) :=
  (l ++ List.replicate (16 - l.length) (0, 0)).set i.val r
/-- The hub changed. -/
def onHub (s : State) (f : Hub → Hub) : State := { s with hub := f s.hub }
/-- A sample buffer changed. -/
def modBuffer (s : State) (n : BitVec 8) (f : SampleBuf → SampleBuf) : State :=
  { s with buffers := s.buffers.map fun b => if b.n = n then f b else b }
/-- The cold-page engine's commands with none outstanding: a new grant issues them anew. -/
def recallMoves (h : Hub) : Hub := { h with nvme := none, moves := h.moves.map fun m => { m with cid := none } }
/-- One firmware write. -/
def firmwareWrite (s : State) (w : FwWrite) : State :=
  match w with
  | .contextCreate ctx root wake watch base lsize =>
    if (getCtx s ctx).isSome ∨ 256 ≤ s.ctxs.length then s
    else { s with ctxs := s.ctxs ++ [newCtx ctx root wake watch base lsize] }
  | .contextRoot ctx root => modCtx s ctx fun c => { c with root := root }
  | .wakeGrant ctx on => modCtx s ctx fun c => { c with wakeGrant := on }
  | .guiltLimit ctx n => modCtx s ctx fun c => barGuilty { c with guiltLimit := n }
  | .guiltClear ctx => modCtx s ctx fun c => { c with guilt := 0, queues := c.queues.map fun q => { q with barred := false } }
  | .faultRd ctx rd => modCtx s ctx fun c => { c with faultRd := rd }
  | .faultDropClear ctx => modCtx s ctx fun c => { c with faultDrop := 0 }
  | .queueCreate ctx q base lsize prio fw => modCtx s ctx fun c => addQueue c (newQueue q base lsize prio fw)
  | .queuePrio ctx q prio => modQueue s ctx q fun x => { x with prio := prio }
  | .errstatClear ctx q => setErr s ctx q 0
  | .refusalClear st => { s with refusals := s.refusals.setIfInBounds st 0 }
  | .routeDropClear k => if coreEnabled s k then modCore s k fun c => { c with routeDrops := 0 } else s
  | .correctedClear k => if coreEnabled s k then modCore s k fun c => { c with mcb := { c.mcb with corr := 0 } } else s
  | .hubCorrectedClear => onHub s fun h => { h with corrected := 0 }
  | .emberGrant g ctx on =>
    onHub s fun h => { h with emberGrants :=
      let rest := h.emberGrants.filter fun p => p != (g, ctx)
      if on then (g, ctx) :: rest else rest }
  | .apertureGrant n ctx =>
    if n = 1023 then s
    else onHub s fun h =>
      let l := h.apertureGrants.filter fun p => p.1 != n
      { h with apertureGrants := match ctx with | some c => (n, c) :: l | none => l }
  | .lease l ctx => modLink s l fun x => { x with lease := ctx }
  | .railParts r parts => onHub s fun h => { h with railParts := h.railParts.setIfInBounds r.toNat parts }
  | .railLimit r code => onHub s fun h => { h with railLimit := railSet h.railLimit r code, railCalm := railSet h.railCalm r 0 }
  | .dramPolicy held => onHub s fun h => { h with dramHeld := held }
  | .smhold us => onHub s fun h => { h with smhold := us }
  | .coldhold us => onHub s fun h => { h with coldhold := us }
  | .traceControl c w => if enabled s c then modCluster s c fun x => writeTraceControl x w else s
  | .sampleBuffer n base size =>
    if size.toNat < 16 ∨ 2 ^ 28 < size.toNat ∨ base.toNat % 64 ≠ 0 then s
    else if s.buffers.any fun b => b.n == n then modBuffer s n fun b => { b with base := base, size := size }
    else { s with buffers := s.buffers ++ [⟨n, base, size, 0, 0, 0⟩] }
  | .sampleRead n rd => modBuffer s n fun b => { b with rd := rd }
  | .sampleLostClear n => modBuffer s n fun b => { b with lostn := 0 }
  | .journal base entries =>
    journalFlush { onHub s fun h => { h with journal := { h.journal with base := base, entries := entries } } with
      mem := memClear s.mem base.toNat (base.toNat + 32 * entries) }
  | .nvmeGrant depth block sq cq bell ns =>
    if 2 ≤ depth ∧ depth ≤ 1024 ∧ (block = 512 ∨ block = 4096) then
      pumpMoves (onHub s fun h => { recallMoves h with nvme := some ⟨depth, block, sq, cq, bell, ns, 0, 0, 0, true, 0⟩ })
    else s
  | .nvmeRevoke => onHub s recallMoves
  | .hostRange i base size =>
    if base.toNat % 65536 = 0 ∧ size.toNat % 65536 = 0 then onHub s fun h => { h with hostRanges := setRange h.hostRanges i (base, size) } else s
  | .hostRefusalClear => onHub s fun h => { h with hostRefused := 0 }
/-- FIRMWARE_REGISTER_WRITE. -/
def execFirmwareRegisterWrite (s : State) : Happened :=
  match s.now with
  | some (.firmwareRegisterWrite w) => .next (firmwareWrite s w)
  | _ => .next s

end Sys2Proof.Machine
end

