-- ==== Sys2Proof/Machine/EvQueue.lean ====
section
/-!
DEFINITION. Sys2Proof/Machine/EvQueue.lean: the command queues (R126, R306 to R309, R46, R365): doorbells, the packets that the active
complex parses, and their journal entries (R131).
-/
namespace Sys2Proof.Machine

/-! ### Queues -/

/-- DOORBELL_WRITE (R126): WRIDX recorded, also on a barred queue; a value beyond the ring is an overrun. -/
def execDoorbellWrite (s : State) : Happened :=
  match s.now with
  | some (.doorbellWrite ctx q v) =>
    .next (match getQueue s ctx q with
      | none => s
      | some x =>
        if 2 ^ x.lsize.toNat < (v - x.rdidx).toNat then addGuilt (setErr s ctx q 3) ctx
        else modQueue s ctx q fun y => { y with wridx := v })
  | _ => .next s

/-- Packet i from RDIDX on. -/
def packetAt (s : State) (x : CmdQueue) (i : Nat) : Nat :=
  memRead s.mem (x.base.toNat + 64 * ((x.rdidx.toNat + i) % 2 ^ x.lsize.toNat)) 64
/-- The accessor of the complex for a queue's packets. -/
def complexAcc (ctx : CtxId) (x : CmdQueue) : Acc := ⟨ctx, 1036, true, x.firmware, true⟩
/-- Whether a queue's packet finds a store full: freed entries go first to packets held before it, in priority order (R127). -/
def storeTakenFor (s : State) (x : CmdQueue) (st : Nat) : Bool :=
  if x.heldFor = some st then storeFull s st else decide (storeFree s st ≤ heldQueues s st)
/-- RDIDX moved past n packets, and the queue's turn taken (R306). -/
def pastPackets (s : State) (ctx : CtxId) (q : BitVec 4) (n : Nat) : State :=
  { modQueue s ctx q fun y => { y with rdidx := y.rdidx + BitVec.ofNat 32 n, served := s.serial + 1 } with serial := s.serial + 1 }
/-- A malformed packet or bundle skipped (R126, R160). -/
def skipMalformed (s : State) (ctx : CtxId) (x : CmdQueue) (n : Nat) : State :=
  addGuilt (setErr (pastPackets s ctx x.q n) ctx x.q 2) ctx
/-- The record of a fault that the complex meets (R324), ERRSTAT and guilt. -/
def complexFault (s : State) (ctx : CtxId) (q : BitVec 4) (rdidx : BitVec 32) (c : FCode) (addr : Word) : State :=
  addGuilt (setErr (appendRecord s ctx (hubRec s 0 rdidx c .complex addr)) ctx q 1) ctx
/-- A packet skipped because a read or a write for it faulted (R308, R309). -/
def skipFault (s : State) (ctx : CtxId) (x : CmdQueue) (n : Nat) (c : FCode) (addr : Word) : State :=
  pastPackets (complexFault s ctx x.q x.rdidx c addr) ctx x.q n

/-- A queue held at its packet for an entry of a store (R127), or for none. -/
def heldAt (s : State) (ctx : CtxId) (q : BitVec 4) (st : Option Nat) : State := modQueue s ctx q fun y => { y with heldFor := st }

/-- What the complex does with a queue's next packet: it is done with, or the queue is held at it. -/
inductive Parsed where
  | done (s : State)
  | held (s : State)
/-- A packet whose access stops: skipped for a fault, held for a wait. -/
def parseStop (s : State) (ctx : CtxId) (x : CmdQueue) (n : Nat) (e : Stop) : Parsed :=
  match e with
  | .fault c a => .done (skipFault s ctx x n c a)
  | .wait _ => .held s
  | .cold m => .held (askFetch s m (.queue ctx x.q m.va))
  | .asleep ch => .held (askChannel s ch)
  | .after t y => parseStop t ctx x n y
/-- The digest of a packet (R131). -/
def digestOf (p : Nat) : BitVec 128 := (shake256 (toBytes 64 p)).extractLsb' 0 128
/-- A command accepted into the journal: its sequence number. -/
def acceptCmd (s : State) (ctx : CtxId) (x : CmdQueue) (p : Nat) : Word × State :=
  (s.hub.journal.nextSeq, journalAccept s (digestOf p) ctx x.q)
/-- A command that is done when it is accepted. -/
def acceptDone (s : State) (ctx : CtxId) (x : CmdQueue) (p : Nat) : State :=
  let (seq, s1) := acceptCmd s ctx x p
  pastPackets (journalEnd (journalStart s1 (some seq)) (some seq) 2 0) ctx x.q 1
/-- The issuer of a packet (R273, R310). -/
def queueIssuer (ctx : CtxId) (x : CmdQueue) (seq : Word) : Issuer := ⟨ctx, x.q, x.prio, some seq, none, x.phase, x.firmware⟩

/-! ### Launch packets (R307, R308, R315) -/

/-- A launch packet or bundle (R307, R308), or a packet of an unknown type (R126). -/
def parseLaunch (s : State) (ctx : CtxId) (x : CmdQueue) : Parsed :=
  let p := packetAt s x 0
  if pkType p ≠ 1 then .done (skipMalformed s ctx x 1)
  else
    let n := 1 + pkLink p
    if unparsed x < n then .held s
    else
      match readBundle (hubReader (complexAcc ctx x)) true (fun t i => .ok (packetAt t x i, t)) s with
      | .error e => parseStop s ctx x n e
      | .ok (b, s1) =>
        match b.subs with
        | none => .done (skipMalformed s1 ctx x n)
        | some l =>
          let st := targetStore s1 ctx (pkTarget p)
          if storeTakenFor s1 x st then .held (heldAt s ctx x.q (some st))
          else if !(journalReady s1) then .held s
          else
            let (seq, s2) := acceptCmd s1 ctx x p
            .done (pastPackets (enterLaunch s2 (queueIssuer ctx x seq) l st (BitVec.ofNat 3 (pkTarget p))) ctx x.q n)

/-! ### The other packets (R309) -/

/-- GRAPH (R273, R309). -/
def parseGraph (s : State) (ctx : CtxId) (x : CmdQueue) : Parsed :=
  let p := packetAt s x 0
  let base := field p 72 56
  let nodes := field p 55 17
  let w := field p 52 3
  if p / 2 ^ 128 ≠ 0 ∨ field p 8 44 ≠ 0 ∨ base % 32 ≠ 0 ∨ nodes = 0 ∨ 65536 < nodes ∨ 4 < w then .done (skipMalformed s ctx x 1)
  else if storeTakenFor s x w then .held (heldAt s ctx x.q (some w))
  else if !(journalReady s) then .held s
  else
    let (seq, s1) := acceptCmd s ctx x p
    let s2 := enterGraph s1 (queueIssuer ctx x seq) (BitVec.ofNat 64 base) nodes w
    .done (pastPackets (journalStart s2 (some seq)) ctx x.q 1)

/-- PHASE (R309). -/
def parsePhase (s : State) (ctx : CtxId) (x : CmdQueue) : Parsed :=
  let p := packetAt s x 0
  if p / 2 ^ 64 ≠ 0 ∨ field p 8 24 ≠ 0 then .done (skipMalformed s ctx x 1)
  else if !(journalReady s) then .held s
  else .done (openPhase (closePhase (acceptDone s ctx x p) ctx x.q true) ctx x.q (BitVec.ofNat 32 (field p 32 32)))

/-- The launches and graphs that earlier packets of a queue made and that have not retired. -/
def queueLids (s : State) (ctx : CtxId) (q : BitVec 4) : List (BitVec 32) :=
  (s.launches.filter fun l => l.ctx == ctx && l.queue == q && l.jseq.isSome).map Launch.lid
def queueGids (s : State) (ctx : CtxId) (q : BitVec 4) : List (BitVec 32) :=
  (s.graphs.filter fun g => g.ctx == ctx && g.queue == q && g.jseq.isSome).map Graph.gid
/-- WAIT (R309): accepted when its condition holds. -/
def parseWait (s : State) (ctx : CtxId) (x : CmdQueue) : Parsed :=
  let p := packetAt s x 0
  let a := field p 72 56
  let word := p.testBit 8
  if p / 2 ^ 128 ≠ 0 ∨ field p 64 8 ≠ 0 ∨ field p 9 23 ≠ 0 ∨ (word = true ∧ a % 4 ≠ 0) then .done (skipMalformed s ctx x 1)
  else if !(journalReady s) then .held s
  else if word then
    match hubRead s (complexAcc ctx x) (BitVec.ofNat 64 a) 4 4 with
    | .error e => parseStop s ctx x 1 e
    | .ok (b, s1) => if ofBytes b = field p 32 32 then .done (acceptDone s1 ctx x p) else .held s1
  else if (queueLids s ctx x.q).isEmpty && (queueGids s ctx x.q).isEmpty then .done (acceptDone s ctx x p)
  else .held s
/-- SIGNAL (R309). -/
def parseSignal (s : State) (ctx : CtxId) (x : CmdQueue) : Parsed :=
  let p := packetAt s x 0
  let a := field p 72 56
  let v := field p 128 64
  if p / 2 ^ 192 ≠ 0 ∨ field p 9 63 ≠ 0 ∨ a % 8 ≠ 0 then .done (skipMalformed s ctx x 1)
  else if !(journalReady s) then .held s
  else if p.testBit 8 then
    let (seq, s1) := acceptCmd s ctx x p
    let g : Signal := ⟨ctx, x.q, BitVec.ofNat 64 a, BitVec.ofNat 64 v, seq, x.rdidx, queueLids s ctx x.q, queueGids s ctx x.q⟩
    let s2 := { s1 with hub := { s1.hub with signals := s1.hub.signals ++ [g] } }
    .done (pastPackets (journalStart s2 (some seq)) ctx x.q 1)
  else
    match hubWrite s (complexAcc ctx x) (BitVec.ofNat 64 a) 8 (toBytes 8 v) with
    | .error e => parseStop s ctx x 1 e
    | .ok s1 => .done (acceptDone s1 ctx x p)

/-! ### Serving the queues (R306) -/

/-- A queue's next packet parsed. -/
def parse (s : State) (ctx : CtxId) (x : CmdQueue) : Parsed :=
  let t := pkType (packetAt s x 0)
  if t = 2 then parseGraph s ctx x
  else if t = 3 then parsePhase s ctx x
  else if t = 4 then parseWait s ctx x
  else if t = 5 then parseSignal s ctx x
  else parseLaunch s ctx x
/-- Whether a queue would have its next packet done with. -/
def parses (s : State) (ctx : CtxId) (x : CmdQueue) : Bool :=
  servable x && (match parse s ctx x with | .done _ => true | .held _ => false)
/-- Whether another queue comes first: a higher PRIO, or the same and served longer ago; a held queue is passed over (R306). -/
def passedBy (s : State) (x : CmdQueue) : Bool :=
  s.ctxs.any fun c => c.queues.any fun y =>
    (decide (x.prio.toNat < y.prio.toNat) || (y.prio == x.prio && decide (y.served < x.served))) && parses s c.id y
/-- The next packet of a queue, where its type is one of the event's. -/
def serve (s : State) (ctx : CtxId) (q : BitVec 4) (types : Nat → Bool) : State :=
  match getQueue s ctx q with
  | none => s
  | some x =>
    if s.hub.packageOff || !(servable x) || !(types (pkType (packetAt s x 0))) || passedBy s x then s
    else
      match parse (heldAt s ctx q none) ctx x with
      | .done t => t
      | .held t => t
/-- LAUNCH_PACKET: packets of type 1, and those of an unknown type, which are skipped. -/
def execLaunchPacket (s : State) : Happened :=
  match s.now with
  | some (.launchPacket ctx q) => .next (serve s ctx q fun t => t == 1 || t == 0 || decide (5 < t))
  | _ => .next s
/-- GRAPH_PACKET. -/
def execGraphPacket (s : State) : Happened :=
  match s.now with
  | some (.graphPacket ctx q) => .next (serve s ctx q fun t => t == 2)
  | _ => .next s
/-- PHASE_PACKET. -/
def execPhasePacket (s : State) : Happened :=
  match s.now with
  | some (.phasePacket ctx q) => .next (serve s ctx q fun t => t == 3)
  | _ => .next s
/-- WAIT_PACKET. -/
def execWaitPacket (s : State) : Happened :=
  match s.now with
  | some (.waitPacket ctx q) => .next (serve s ctx q fun t => t == 4)
  | _ => .next s
/-- WAIT_WORD_POLL: the word of the WAIT packet at which a queue is held is read again. -/
def execWaitWordPoll (s : State) : Happened :=
  match s.now with
  | some (.waitWordPoll ctx q) => .next (serve s ctx q fun t => t == 4)
  | _ => .next s
/-- SIGNAL_PACKET. -/
def execSignalPacket (s : State) : Happened :=
  match s.now with
  | some (.signalPacket ctx q) => .next (serve s ctx q fun t => t == 5)
  | _ => .next s

/-- A SIGNAL with AFTER = 1 whose write faults (R309). -/
def signalFault (s : State) (g : Signal) (c : FCode) (addr : Word) : State :=
  journalEnd (complexFault s g.ctx g.q g.rdidx c addr) (some g.jseq) 3 (c.code.zeroExtend 16)
/-- SIGNAL_AFTER_WRITE (R309): every earlier launch and graph of the queue has retired. -/
def execSignalAfterWrite (s : State) : Happened :=
  match s.now with
  | some (.signalAfterWrite i) =>
    .next (match s.hub.signals[i]? with
      | none => s
      | some g =>
        let live := (s.launches.any fun l => l.ctx == g.ctx && g.lids.contains l.lid) || s.graphs.any fun x => x.ctx == g.ctx && g.gids.contains x.gid
        let pop := fun (t : State) => { t with hub := { t.hub with signals := dropAt t.hub.signals i } }
        if live then s
        else
          match getQueue s g.ctx g.q with
          | none => pop s
          | some x =>
            match hubWrite s (complexAcc g.ctx x) g.addr 8 (toBytes 8 g.value.toNat) with
            | .ok s1 => journalEnd (pop s1) (some g.jseq) 2 0
            | .error e => unitStop s (.signal g.ctx g.jseq) (fun t c a => signalFault (pop t) g c a) e)
  | _ => .next s
/-- QUEUE_CLOSE (R46): no further packets, the job's issuing closes, and so does the queue's phase. -/
def execQueueClose (s : State) : Happened :=
  match s.now with
  | some (.queueClose ctx q) =>
    .next (match getQueue s ctx q with
      | some _ => closePhase (modQueue s ctx q fun y => { y with closed := true }) ctx q false
      | none => s)
  | _ => .next s

end Sys2Proof.Machine
end

