-- ==== Sys2Proof/Machine/EvPaging.lean ====
section
/-!
DEFINITION. Sys2Proof/Machine/EvPaging.lean: the events of the cold-page engine (R95, R138, R139, R369): fetches and page-outs over the
granted NVMe queue pair, whose device holds the flash copy.
-/
namespace Sys2Proof.Machine

/-- Whether command i of the engine is outstanding (R369): a grant is in force, and its submission entry has been written. -/
def outstanding (s : State) (i : Nat) : Bool := s.hub.nvme.isSome && ((s.hub.moves[i]?.bind PageMove.cid).isSome)
/-- The first byte of an LBA in flash. -/
def flashAt (s : State) (lba : BitVec 52) : Nat :=
  match s.hub.nvme with
  | some n => lba.toNat * n.block
  | none => 0
/-- The 16-byte completion entry that the device writes for a command (R369), as NVMe lays it out (log 54): the command identifier, the phase, and
a status that is 0 for success; the queue's own word is free. -/
def completion (n : Nvme) (cid : BitVec 16) (ok : Bool) (free : Word) : Nat :=
  let status := if ok then 0 else max 1 ((free.extractLsb' 32 15).toNat)
  (free.extractLsb' 0 32).toNat * 2 ^ 64 + cid.toNat * 2 ^ 96 + (if n.phase then 2 ^ 112 else 0) + status * 2 ^ 113
/-- The device's completion of command i, written to host memory at the head of the completion queue. -/
def postCompletion (s : State) (i : Nat) (ok : Bool) : State :=
  match s.hub.nvme, s.hub.moves[i]?.bind PageMove.cid with
  | some n, some cid => { putNum s (n.cq.toNat + 16 * n.head) 16 (completion n cid ok (freeWord s.free)) with free := s.free + 1 }
  | _, _ => s
/-- What the engine's poll reads at the head of the completion queue: whether the command that it names has succeeded; none while the entry there
has not the phase awaited. -/
def pollCompletion (s : State) : Option (BitVec 16 × Bool) :=
  s.hub.nvme.bind fun n =>
    let e := memRead s.mem (n.cq.toNat + 16 * n.head) 16
    if e.testBit 112 = n.phase then some (BitVec.ofNat 16 (e / 2 ^ 96), decide (e / 2 ^ 113 = 0)) else none
/-- Command i completed: the engine goes on in its completion queue, whose phase changes where it starts again, and the next command may be issued
(R369). -/
def moveDone (s : State) (i : Nat) : State :=
  let step := fun (n : Nvme) => { n with head := (n.head + 1) % n.depth, phase := if n.depth ≤ n.head + 1 then !n.phase else n.phase }
  pumpMoves { s with hub := { s.hub with moves := dropAt s.hub.moves i, nvme := s.hub.nvme.map step } }
/-- 64 KiB moved between two lists of cells: the range at `dst` becomes what the range at `src` holds. -/
def movePage (src dst : List Host.Cell) (a b : Nat) : List Host.Cell :=
  memSetAll (memClear dst b (b + 2 ^ 16))
    ((src.filter fun p => decide (a ≤ p.1) && decide (p.1 < a + 2 ^ 16)).map fun p => (p.1 - a + b, p.2))
/-- A leaf that becomes present in a frame (R138): COLD, PO, A and D are 0. The spec says nothing of PMASK, but the waiting access is
performed: the bit of its partition is 1, and the others are free (log 9). -/
def presentLeaf (e : Nat) (frame : BitVec 32) (part : Nat) (free : Word) : Word :=
  let mask := free.extractLsb' 0 4 ||| BitVec.ofNat 4 (2 ^ part)
  0#12 ++ mask ++ frame ++ 0#6 ++ (BitVec.ofNat 10 e &&& 0x21F#10)
/-- A leaf that becomes cold: LBA, COLD and PO change, and nothing else (R2, R138). -/
def coldLeaf (e : Nat) (lba : BitVec 52) : Word := lba ++ 0#2 ++ ((BitVec.ofNat 10 e &&& 0x3BF#10) ||| 0x020#10)

/-- A failed fetch faults the launch of one waiting access with PAGE_INVALID (R95); a request to the watch unit is served, as one whose NOTIFY
cannot be performed where that access waited (R149). -/
def failWaiter (s : State) (w : Waiter) : State :=
  match w with
  | .core k act svc u pc addr =>
    let s1 := focus s k
    if svc then (if s1.core.bank = .service then raiseAt s1 pc u .pageInvalid addr else s)
    else
      match s1.core.task with
      | some t => if t.actid = act then faultLaunch s1 t.info.ctx (preciseRec s1 t pc .pageInvalid u addr) .pageInvalid else s
      | none => s
  | .engine u rcd _ addr => raiseEngine s rcd u .pageInvalid addr
  | .queue ctx q addr =>
    match getQueue s ctx q with
    | some x =>
      let p := packetAt s x 0
      skipFault s ctx x (if pkType p = 1 then 1 + pkLink p else 1) .pageInvalid addr
    | none => s
  | .signal ctx seq addr =>
    match s.hub.signals.find? fun g => g.ctx == ctx && g.jseq == seq with
    | some g =>
      signalFault { s with hub := { s.hub with signals := s.hub.signals.filter fun x => !(x.ctx == ctx && x.jseq == seq) } } g .pageInvalid addr
    | none => s
  | .graph ctx gid addr =>
    match getGraph s ctx gid with
    | some g => if g.ended.isNone then faultGraph s g .pageInvalid addr else s
    | none => s
  | .watch addr =>
    match s.hub.watchQueue with
    | [] => s
    | r :: rest =>
      let pop := fun (t : State) => { t with hub := { t.hub with watchQueue := rest } }
      match serveWatch s r true with
      | .ok (w, t) => handResult (pop t) r.who.1 (.ok w)
      | .error e =>
        match e.bare with
        | .fault c a => handResult (pop (e.state s)) r.who.1 (.error (c, a))
        | .wait _ | .asleep _ => e.state s
        | .cold _ | .after _ _ => handResult (pop (e.state s)) r.who.1 (.error (.pageInvalid, addr))
/-- The tenant partition of the first access that waits for a page. -/
def waitPartition (f : PageMove) : Nat := partitionOf f.ctx
/-- The events of a walker by the kind of the node that it has taken. -/
def nodeEvent (w i kind : Nat) : Event :=
  match kind with
  | 2 => .graphCondNode w i
  | 3 => .graphWhileNode w i
  | 4 => .graphJoinallNode w i
  | 5 => .graphEndNode w i
  | _ => .graphLaunchNode w i
/-- The event of a complex by the type of the packet at which a queue is held. -/
def packetEvent (ctx : CtxId) (q : BitVec 4) (type : Nat) : Event :=
  match type with
  | 2 => .graphPacket ctx q
  | 3 => .phasePacket ctx q
  | 4 => .waitPacket ctx q
  | 5 => .signalPacket ctx q
  | _ => .launchPacket ctx q
/-- The events that perform what a core's store buffer holds, and a store of up to 128 bytes that the access puts there. -/
def drainsOf (s : State) (k : Nat) : List Happening :=
  let n := ((getCore s k).storeBuf.map fun p => max 1 p.bytes.length).sum
  List.replicate (n + 128) (.happen (.storeBufferDrain k))
/-- What performs the access of a waiter (R95), if it still waits: the turn of its task with the stores that it makes, the beat of its copy, or its
engine's or its unit's turn. -/
def wakeWaiter (s : State) (w : Waiter) : List Happening :=
  match w with
  | .core k _ _ u _ _ => (if u = .vector then .vecTurn k else .turn k) :: drainsOf s k
  | .engine u rcd beat _ =>
    if u = .rake then .rakeTurn rcd.core :: drainsOf s rcd.core
    else
      match (getCore s rcd.core).flight.findIdx? fun c => c.rcd == rcd with
      | some i =>
        let first := (((getCore s rcd.core).flight[i]?).map firstBeat).getD 0
        [.happen (.copyBeatComplete rcd.core i (beat.getD first - first))]
      | none => [.happen (.copyCmdAccept rcd.core)]
  | .queue ctx q _ =>
    match getQueue s ctx q with
    | some x => [.happen (packetEvent ctx q (pkType (packetAt s x 0)))]
    | none => []
  | .signal ctx seq _ =>
    match s.hub.signals.findIdx? fun g => g.ctx == ctx && g.jseq == seq with
    | some i => [.happen (.signalAfterWrite i)]
    | none => []
  | .graph ctx gid _ =>
    match getGraph s ctx gid with
    | some g =>
      let i := ((s.graphs.filter fun x => x.walker == g.walker).findIdx? fun x => x.ctx == ctx && x.gid == gid).getD 0
      match g.held with
      | some x => [.happen (nodeEvent g.walker i (ndKind x.toNat))]
      | none => [1, 2, 3, 4, 5].map fun n => .happen (nodeEvent g.walker i n)
    | none => []
  | .watch _ => [.happen .watchUnitCommit]
/-- A page of flash moved into its frame: lines of the frame whose zero flags are set no longer stand for it (R81). -/
def pageIn (s : State) (src p : Nat) : State :=
  recallZero { s with mem := movePage s.flash s.mem src p } ((List.range 512).map fun i => p / 128 + i)
/-- COLD_PAGE_FETCH_COMPLETE: the device's completion is polled (R369): the page is in its frame and its leaf present, and the waiting accesses are
performed next, in the order in which they were issued (R95); or the NVMe command failed, and their launches fault. -/
def execColdPageFetchComplete (s : State) : Happened :=
  match s.now with
  | some (.coldPageFetchComplete i ok) =>
    .next (match s.hub.moves[i]? with
      | none => s
      | some f =>
        let s0 := postCompletion s i ok
        let s1 := moveDone s0 i
        let p := f.frame.toNat * 2 ^ 16
        let e := memRead s.mem f.at_ 8
        if f.out = true ∨ outstanding s i = false then s
        else
          match pollCompletion s0 with
          | none => s0
          | some (_, false) => f.waiters.foldl failWaiter s1
          | some (_, true) =>
            let s2 := { s1 with agenda := f.waiters.flatMap (wakeWaiter s1) ++ s1.agenda }
            if 0xC000000000 < p + 2 ^ 16 ∨ (pteV e && pteLeaf e && pteCold e) = false then s2
            else
              let (w, s3) := freshWord s2
              let s4 := pageIn s3 (flashAt s f.lba) p
              putNum s4 f.at_ 8 (presentLeaf e f.frame (waitPartition f) w).toNat)
  | _ => .next s

/-- The remote lines of a frame written back and dropped in every listed core, and the own-homed ones dropped (R80). -/
def shedFrame (s : State) (p : Nat) : State :=
  (allCores s).foldl (fun acc c => shedLines acc c.id fun l => decide (p ≤ l.addr * 128) && decide (l.addr * 128 < p + 2 ^ 16)) s
/-- PAGE_OUT_START (R139): a present leaf with PIN = 0, as the stores before it leave the leaf; A is cleared, the engine's own invalidation takes
every mapping that the leaf gives from every TLB, and PO holds accesses off. -/
def execPageOutStart (s : State) : Happened :=
  match s.now with
  | some (.pageOutStart ctx va lba) =>
    let s0 := if anyStoreHeld s then s else drainEvery s
    .next (match getCtx s ctx with
      | none => s
      | some c =>
        match walkFrom s0.mem va.toNat 3 c.root.toNat with
        | none => s
        | some (e, at_, level) =>
          if anyStoreHeld s || pteCold e || ptePO e || ptePin e || decide (level ≠ 0) || decide (0xC000000000 ≤ pteFrame e) then s
          else
            let s1 := shedFrame (dropTlbs s0 fun t => t.at_ == at_) (pteFrame e)
            let new := (e ||| 2 ^ 6) - (if pteA e then 2 ^ 7 else 0)
            let m : PageMove := ⟨true, none, BitVec.ofNat 32 (pteFrame e / 2 ^ 16), ctx, va, at_, lba, []⟩
            pumpMoves { s1 with mem := memWrite s1.mem at_ 8 new, hub := { s1.hub with moves := s1.hub.moves ++ [m] } })
  | _ => .next s
/-- PAGE_OUT_COMPLETE: COLD only after a successful write; a failed write leaves the page present with PO cleared (R369). -/
def execPageOutComplete (s : State) : Happened :=
  match s.now with
  | some (.pageOutComplete i ok) =>
    .next (match s.hub.moves[i]? with
      | none => s
      | some f =>
        if f.out = false ∨ outstanding s i = false then s
        else
          let e := memRead s.mem f.at_ 8
          let s0 := postCompletion s i ok
          let s1 := moveDone s0 i
          match pollCompletion s0 with
          | none => s0
          | some (_, done) =>
            if !(ptePO e) then s1
            else if done then
              { putNum s1 f.at_ 8 (coldLeaf e f.lba).toNat with flash := movePage s.mem s.flash (f.frame.toNat * 2 ^ 16) (flashAt s f.lba) }
            else putNum s1 f.at_ 8 (e - 2 ^ 6))
  | _ => .next s

end Sys2Proof.Machine
end

