-- ==== Sys2Proof/Machine/Predicate.lean ====
section
/-!
DEFINITION. Sys2Proof/Machine/Predicate.lean: class 0x3, predicates (spec/10 R171, R201).
-/
namespace Sys2Proof.Machine

/-- An instruction that writes one predicate from the state. -/
def predOp (h : Hdr) (d : P) (f : State → Word) (s : State) : Host.Outcome State Fault Refusal :=
  .next (scalar s h fun s => .ok (advance (writeP s d (f s))))

/-- ICMP (R201, R167). -/
def execIcmp (h : Hdr) (t : Ty) (c : Cond) (d : P) (a : WG) (b : WGIL) (s : State) : Host.Outcome State Fault Refusal :=
  predOp h d (fun s => boolWord (condHolds c (opInt t (readWG s a)) (opInt t (readWGIL s b)))) s
/-- FCMP (R201). -/
def execFcmp (h : Hdr) (c : FCond) (d : P) (a : WG) (b : WG) (s : State) : Host.Outcome State Fault Refusal :=
  predOp h d (fun s => boolWord (fcondHolds c (fdecode .f32 (f32Of (readWG s a))) (fdecode .f32 (f32Of (readWG s b))))) s
/-- PAND (R201). -/
def execPand (h : Hdr) (d : P) (a : P) (b : P) (s : State) : Host.Outcome State Fault Refusal :=
  predOp h d (fun s => readP s a &&& readP s b) s
/-- POR (R201). -/
def execPor (h : Hdr) (d : P) (a : P) (b : P) (s : State) : Host.Outcome State Fault Refusal :=
  predOp h d (fun s => readP s a ||| readP s b) s
/-- PXOR (R201). -/
def execPxor (h : Hdr) (d : P) (a : P) (b : P) (s : State) : Host.Outcome State Fault Refusal :=
  predOp h d (fun s => readP s a ^^^ readP s b) s
/-- PNOT (R201). -/
def execPnot (h : Hdr) (d : P) (a : P) (s : State) : Host.Outcome State Fault Refusal :=
  predOp h d (fun s => ~~~(readP s a)) s
/-- PGET (R201). -/
def execPget (h : Hdr) (d : WG) (a : P) (s : State) : Host.Outcome State Fault Refusal :=
  scalarOp h d (fun s => readP s a) s
/-- PSET (R201). -/
def execPset (h : Hdr) (d : P) (a : WGI) (s : State) : Host.Outcome State Fault Refusal :=
  predOp h d (fun s => readWGI s a) s
/-- PFIRST (R201): 64 where no bit is set. -/
def execPfirst (h : Hdr) (d : WG) (a : P) (s : State) : Host.Outcome State Fault Refusal :=
  scalarOp h d (fun s => BitVec.ofNat 64 (ctzNat 64 (readP s a).toNat)) s
/-- PCNT (R201). -/
def execPcnt (h : Hdr) (d : WG) (a : P) (s : State) : Host.Outcome State Fault Refusal :=
  scalarOp h d (fun s => BitVec.ofNat 64 (popNat 64 (readP s a).toNat)) s

end Sys2Proof.Machine
end

