-- ==== Sys2Proof/Machine/Dispatch.lean ====
section
/-!
DEFINITION. Sys2Proof/Machine/Dispatch.lean: the meaning of every instruction and device event, one arm per constructor.
-/
namespace Sys2Proof.Machine

def exec (i : Instr) (s : State) : Host.Outcome State Fault Refusal :=
  match i with
  | .illegal rest => Sys2Proof.Machine.execIllegal rest s
  | .nop h => Sys2Proof.Machine.execNop h s
  | .br h off => Sys2Proof.Machine.execBr h off s
  | .brz h off a => Sys2Proof.Machine.execBrz h off a s
  | .brnz h off a => Sys2Proof.Machine.execBrnz h off a s
  | .brdec h off d => Sys2Proof.Machine.execBrdec h off d s
  | .jmp h a => Sys2Proof.Machine.execJmp h a s
  | .call h off => Sys2Proof.Machine.execCall h off s
  | .callr h a => Sys2Proof.Machine.execCallr h a s
  | .ret h => Sys2Proof.Machine.execRet h s
  | .loop h off a => Sys2Proof.Machine.execLoop h off a s
  | .lbrk h => Sys2Proof.Machine.execLbrk h s
  | .fork h off d a b => Sys2Proof.Machine.execFork h off d a b s
  | .join h a => Sys2Proof.Machine.execJoin h a s
  | .endTask h => Sys2Proof.Machine.execEndTask h s
  | .step h => Sys2Proof.Machine.execStep h s
  | .trap h a => Sys2Proof.Machine.execTrap h a s
  | .iadd h t d a b => Sys2Proof.Machine.execIadd h t d a b s
  | .isub h t d a b => Sys2Proof.Machine.execIsub h t d a b s
  | .iadds h t d a b => Sys2Proof.Machine.execIadds h t d a b s
  | .isubs h t d a b => Sys2Proof.Machine.execIsubs h t d a b s
  | .ineg h t d a => Sys2Proof.Machine.execIneg h t d a s
  | .iabs h t d a => Sys2Proof.Machine.execIabs h t d a s
  | .imin h t d a b => Sys2Proof.Machine.execImin h t d a b s
  | .imax h t d a b => Sys2Proof.Machine.execImax h t d a b s
  | .iminn h t d a b => Sys2Proof.Machine.execIminn h t d a b s
  | .imaxn h t d a b => Sys2Proof.Machine.execImaxn h t d a b s
  | .iand h t d a b => Sys2Proof.Machine.execIand h t d a b s
  | .ior h t d a b => Sys2Proof.Machine.execIor h t d a b s
  | .ixor h t d a b => Sys2Proof.Machine.execIxor h t d a b s
  | .iandn h t d a b => Sys2Proof.Machine.execIandn h t d a b s
  | .ishl h t d a b => Sys2Proof.Machine.execIshl h t d a b s
  | .ishr h t d a b => Sys2Proof.Machine.execIshr h t d a b s
  | .isar h t d a b => Sys2Proof.Machine.execIsar h t d a b s
  | .irot h t d a b => Sys2Proof.Machine.execIrot h t d a b s
  | .iext h len d a b => Sys2Proof.Machine.execIext h len d a b s
  | .iextn h len d a b => Sys2Proof.Machine.execIextn h len d a b s
  | .iins h len d a b => Sys2Proof.Machine.execIins h len d a b s
  | .icnt h t k d a => Sys2Proof.Machine.execIcnt h t k d a s
  | .imov h t d b => Sys2Proof.Machine.execImov h t d b s
  | .isel h t pk d a b => Sys2Proof.Machine.execIsel h t pk d a b s
  | .imul h t d a b => Sys2Proof.Machine.execImul h t d a b s
  | .imulh h t d a b => Sys2Proof.Machine.execImulh h t d a b s
  | .imulhn h t d a b => Sys2Proof.Machine.execImulhn h t d a b s
  | .imad h t d a b => Sys2Proof.Machine.execImad h t d a b s
  | .idiv h t d a b => Sys2Proof.Machine.execIdiv h t d a b s
  | .idivn h t d a b => Sys2Proof.Machine.execIdivn h t d a b s
  | .irem h t d a b => Sys2Proof.Machine.execIrem h t d a b s
  | .iremn h t d a b => Sys2Proof.Machine.execIremn h t d a b s
  | .ilea h sh d a b => Sys2Proof.Machine.execIlea h sh d a b s
  | .idxt h d a b => Sys2Proof.Machine.execIdxt h d a b s
  | .icmp h t c d a b => Sys2Proof.Machine.execIcmp h t c d a b s
  | .fcmp h c d a b => Sys2Proof.Machine.execFcmp h c d a b s
  | .pand h d a b => Sys2Proof.Machine.execPand h d a b s
  | .por h d a b => Sys2Proof.Machine.execPor h d a b s
  | .pxor h d a b => Sys2Proof.Machine.execPxor h d a b s
  | .pnot h d a => Sys2Proof.Machine.execPnot h d a s
  | .pget h d a => Sys2Proof.Machine.execPget h d a s
  | .pset h d a => Sys2Proof.Machine.execPset h d a s
  | .pfirst h d a => Sys2Proof.Machine.execPfirst h d a s
  | .pcnt h d a => Sys2Proof.Machine.execPcnt h d a s
  | .fadd h d a b => Sys2Proof.Machine.execFadd h d a b s
  | .fsub h d a b => Sys2Proof.Machine.execFsub h d a b s
  | .fmul h d a b => Sys2Proof.Machine.execFmul h d a b s
  | .ffma h d a b => Sys2Proof.Machine.execFfma h d a b s
  | .fdiv h d a b => Sys2Proof.Machine.execFdiv h d a b s
  | .fsqrt h d a => Sys2Proof.Machine.execFsqrt h d a s
  | .fmin h d a b => Sys2Proof.Machine.execFmin h d a b s
  | .fmax h d a b => Sys2Proof.Machine.execFmax h d a b s
  | .fabs h d a => Sys2Proof.Machine.execFabs h d a s
  | .fneg h d a => Sys2Proof.Machine.execFneg h d a s
  | .fcvtif h t d a => Sys2Proof.Machine.execFcvtif h t d a s
  | .fcvtfi h t d a => Sys2Proof.Machine.execFcvtfi h t d a s
  | .fcvtfiz h t d a => Sys2Proof.Machine.execFcvtfiz h t d a s
  | .frcp h d a => Sys2Proof.Machine.execFrcp h d a s
  | .fexp2 h d a => Sys2Proof.Machine.execFexp2 h d a s
  | .flog2 h d a => Sys2Proof.Machine.execFlog2 h d a s
  | .ld h t d a b => Sys2Proof.Machine.execLd h t d a b s
  | .st h t d a b => Sys2Proof.Machine.execSt h t d a b s
  | .ldl h t d a b => Sys2Proof.Machine.execLdl h t d a b s
  | .stl h t d a b => Sys2Proof.Machine.execStl h t d a b s
  | .ldpw h t d a b => Sys2Proof.Machine.execLdpw h t d a b s
  | .pref h a b => Sys2Proof.Machine.execPref h a b s
  | .zline h a b => Sys2Proof.Machine.execZline h a b s
  | .wbline h a b => Sys2Proof.Machine.execWbline h a b s
  | .invline h a b => Sys2Proof.Machine.execInvline h a b s
  | .aadd h t ord sc d a b => Sys2Proof.Machine.execAadd h t ord sc d a b s
  | .amin h t ord sc d a b => Sys2Proof.Machine.execAmin h t ord sc d a b s
  | .amax h t ord sc d a b => Sys2Proof.Machine.execAmax h t ord sc d a b s
  | .aminn h t ord sc d a b => Sys2Proof.Machine.execAminn h t ord sc d a b s
  | .amaxn h t ord sc d a b => Sys2Proof.Machine.execAmaxn h t ord sc d a b s
  | .aand h t ord sc d a b => Sys2Proof.Machine.execAand h t ord sc d a b s
  | .aor h t ord sc d a b => Sys2Proof.Machine.execAor h t ord sc d a b s
  | .axor h t ord sc d a b => Sys2Proof.Machine.execAxor h t ord sc d a b s
  | .aswp h t ord sc d a b => Sys2Proof.Machine.execAswp h t ord sc d a b s
  | .acas h t ord sc d a b => Sys2Proof.Machine.execAcas h t ord sc d a b s
  | .ldacq h t sc d a b => Sys2Proof.Machine.execLdacq h t sc d a b s
  | .strel h t sc d a b => Sys2Proof.Machine.execStrel h t sc d a b s
  | .fence h ord sc => Sys2Proof.Machine.execFence h ord sc s
  | .waita h sc d a b => Sys2Proof.Machine.execWaita h sc d a b s
  | .gbar h => Sys2Proof.Machine.execGbar h s
  | .vadd h t d a b => Sys2Proof.Machine.execVadd h t d a b s
  | .vsub h t d a b => Sys2Proof.Machine.execVsub h t d a b s
  | .vadds h t d a b => Sys2Proof.Machine.execVadds h t d a b s
  | .vaddsn h t d a b => Sys2Proof.Machine.execVaddsn h t d a b s
  | .vsubs h t d a b => Sys2Proof.Machine.execVsubs h t d a b s
  | .vmul h t d a b => Sys2Proof.Machine.execVmul h t d a b s
  | .vmulh h t d a b => Sys2Proof.Machine.execVmulh h t d a b s
  | .vmulhr h d a b => Sys2Proof.Machine.execVmulhr h d a b s
  | .vmad h t d a b => Sys2Proof.Machine.execVmad h t d a b s
  | .vmacw h t d a b => Sys2Proof.Machine.execVmacw h t d a b s
  | .vdot4 h t d a b => Sys2Proof.Machine.execVdot4 h t d a b s
  | .vmin h t d a b => Sys2Proof.Machine.execVmin h t d a b s
  | .vmax h t d a b => Sys2Proof.Machine.execVmax h t d a b s
  | .vminn h t d a b => Sys2Proof.Machine.execVminn h t d a b s
  | .vmaxn h t d a b => Sys2Proof.Machine.execVmaxn h t d a b s
  | .vabs h t d a => Sys2Proof.Machine.execVabs h t d a s
  | .vand h t d a b => Sys2Proof.Machine.execVand h t d a b s
  | .vor h t d a b => Sys2Proof.Machine.execVor h t d a b s
  | .vxor h t d a b => Sys2Proof.Machine.execVxor h t d a b s
  | .vshl h t d a b => Sys2Proof.Machine.execVshl h t d a b s
  | .vshr h t d a b => Sys2Proof.Machine.execVshr h t d a b s
  | .vsar h t d a b => Sys2Proof.Machine.execVsar h t d a b s
  | .vrshr h t d a b => Sys2Proof.Machine.execVrshr h t d a b s
  | .vnars h t p d a => Sys2Proof.Machine.execVnars h t p d a s
  | .vnarn h t p d a => Sys2Proof.Machine.execVnarn h t p d a s
  | .vwid h t p d a => Sys2Proof.Machine.execVwid h t p d a s
  | .vwidn h t p d a => Sys2Proof.Machine.execVwidn h t p d a s
  | .vcmp h t c d a b => Sys2Proof.Machine.execVcmp h t c d a b s
  | .vsel h t pk d a b => Sys2Proof.Machine.execVsel h t pk d a b s
  | .vsplat h t d b => Sys2Proof.Machine.execVsplat h t d b s
  | .vperm h t d a b => Sys2Proof.Machine.execVperm h t d a b s
  | .vslide h t d a b => Sys2Proof.Machine.execVslide h t d a b s
  | .viota h t d b => Sys2Proof.Machine.execViota h t d b s
  | .vredadd h t d a => Sys2Proof.Machine.execVredadd h t d a s
  | .vredmax h t d a => Sys2Proof.Machine.execVredmax h t d a s
  | .vredmin h t d a => Sys2Proof.Machine.execVredmin h t d a s
  | .vmovs h t d a b => Sys2Proof.Machine.execVmovs h t d a b s
  | .vclr h t d => Sys2Proof.Machine.execVclr h t d s
  | .vfadd h t d a b => Sys2Proof.Machine.execVfadd h t d a b s
  | .vfsub h t d a b => Sys2Proof.Machine.execVfsub h t d a b s
  | .vfmul h t d a b => Sys2Proof.Machine.execVfmul h t d a b s
  | .vffma h t d a b => Sys2Proof.Machine.execVffma h t d a b s
  | .vfmin h t d a b => Sys2Proof.Machine.execVfmin h t d a b s
  | .vfmax h t d a b => Sys2Proof.Machine.execVfmax h t d a b s
  | .vfabs h t d a => Sys2Proof.Machine.execVfabs h t d a s
  | .vfneg h t d a => Sys2Proof.Machine.execVfneg h t d a s
  | .vfrcp h d a => Sys2Proof.Machine.execVfrcp h d a s
  | .vfrsq h d a => Sys2Proof.Machine.execVfrsq h d a s
  | .vfexp2 h d a => Sys2Proof.Machine.execVfexp2 h d a s
  | .vflog2 h d a => Sys2Proof.Machine.execVflog2 h d a s
  | .vfcmp h t c d a b => Sys2Proof.Machine.execVfcmp h t c d a b s
  | .vfradd h d a => Sys2Proof.Machine.execVfradd h d a s
  | .vfrmax h d a => Sys2Proof.Machine.execVfrmax h d a s
  | .vcvtfi h t d a => Sys2Proof.Machine.execVcvtfi h t d a s
  | .vcvtif h t d a => Sys2Proof.Machine.execVcvtif h t d a s
  | .vcvtfb h p d a => Sys2Proof.Machine.execVcvtfb h p d a s
  | .vcvtfbs h p d a => Sys2Proof.Machine.execVcvtfbs h p d a s
  | .vcvtfh h p d a => Sys2Proof.Machine.execVcvtfh h p d a s
  | .vcvte4s h t p d a => Sys2Proof.Machine.execVcvte4s h t p d a s
  | .vcvte4o h t p d a => Sys2Proof.Machine.execVcvte4o h t p d a s
  | .vcvte5s h t p d a => Sys2Proof.Machine.execVcvte5s h t p d a s
  | .vcvte5o h t p d a => Sys2Proof.Machine.execVcvte5o h t p d a s
  | .vcvtf4s h t p d a => Sys2Proof.Machine.execVcvtf4s h t p d a s
  | .vwidf h t p d a => Sys2Proof.Machine.execVwidf h t p d a s
  | .vdecq h t p d a b => Sys2Proof.Machine.execVdecq h t p d a b s
  | .vencq h p d a b => Sys2Proof.Machine.execVencq h p d a b s
  | .lwadd h t d a b => Sys2Proof.Machine.execLwadd h t d a b s
  | .lrnd h d a => Sys2Proof.Machine.execLrnd h d a s
  | .lclr h a => Sys2Proof.Machine.execLclr h a s
  | .vld h t d a b => Sys2Proof.Machine.execVld h t d a b s
  | .vld2 h t k d a b => Sys2Proof.Machine.execVld2 h t k d a b s
  | .vst h t d a b => Sys2Proof.Machine.execVst h t d a b s
  | .vlds h t d a b => Sys2Proof.Machine.execVlds h t d a b s
  | .vsts h t d a b => Sys2Proof.Machine.execVsts h t d a b s
  | .vgath h t d a b => Sys2Proof.Machine.execVgath h t d a b s
  | .vscat h t d a b => Sys2Proof.Machine.execVscat h t d a b s
  | .vldb h t d a b => Sys2Proof.Machine.execVldb h t d a b s
  | .radvc h a => Sys2Proof.Machine.execRadvc h a s
  | .radvp h a => Sys2Proof.Machine.execRadvp h a s
  | .rstat h d a => Sys2Proof.Machine.execRstat h d a s
  | .send h ord sc d a => Sys2Proof.Machine.execSend h ord sc d a s
  | .sendl h ord sc d a b => Sys2Proof.Machine.execSendl h ord sc d a b s
  | .vsred h t d a => Sys2Proof.Machine.execVsred h t d a s
  | .vsmac h t d a b => Sys2Proof.Machine.execVsmac h t d a b s
  | .vsmov h d a => Sys2Proof.Machine.execVsmov h d a s
  | .chend h a => Sys2Proof.Machine.execChend h a s
  | .mlda h ta tb a => Sys2Proof.Machine.execMlda h ta tb a s
  | .mgang h ta tb hm1 d a b => Sys2Proof.Machine.execMgang h ta tb hm1 d a b s
  | .mma h ta tb hm1 d a b => Sys2Proof.Machine.execMma h ta tb hm1 d a b s
  | .mzero h hm1 d => Sys2Proof.Machine.execMzero h hm1 d s
  | .mstf h hm1 d a => Sys2Proof.Machine.execMstf h hm1 d a s
  | .mstq h hm1 d a b => Sys2Proof.Machine.execMstq h hm1 d a b s
  | .mstb h hm1 d a => Sys2Proof.Machine.execMstb h hm1 d a s
  | .mldc h hm1 d a => Sys2Proof.Machine.execMldc h hm1 d a s
  | .mwait h => Sys2Proof.Machine.execMwait h s
  | .mstat h d => Sys2Proof.Machine.execMstat h d s
  | .cpy h sc d a b => Sys2Proof.Machine.execCpy h sc d a b s
  | .cpy2 h sc d a b => Sys2Proof.Machine.execCpy2 h sc d a b s
  | .cpyg h sc d a b => Sys2Proof.Machine.execCpyg h sc d a b s
  | .cpyz h sc d b => Sys2Proof.Machine.execCpyz h sc d b s
  | .cpyb h sc d a b => Sys2Proof.Machine.execCpyb h sc d a b s
  | .cwait h b => Sys2Proof.Machine.execCwait h b s
  | .cstat h d b => Sys2Proof.Machine.execCstat h d b s
  | .ccancel h d b => Sys2Proof.Machine.execCcancel h d b s
  | .rkdecl h c a => Sys2Proof.Machine.execRkdecl h c a s
  | .rksweep h c => Sys2Proof.Machine.execRksweep h c s
  | .rkwake h c a b => Sys2Proof.Machine.execRkwake h c a b s
  | .rknext h => Sys2Proof.Machine.execRknext h s
  | .rkwait h c => Sys2Proof.Machine.execRkwait h c s
  | .rkstat h c d => Sys2Proof.Machine.execRkstat h c d s
  | .spawn h d a b => Sys2Proof.Machine.execSpawn h d a b s
  | .launch h d a => Sys2Proof.Machine.execLaunch h d a s
  | .glaunch h d a b => Sys2Proof.Machine.execGlaunch h d a b s
  | .cancel h lvl d a => Sys2Proof.Machine.execCancel h lvl d a s
  | .bind h d a b => Sys2Proof.Machine.execBind h d a b s
  | .unbind h d b => Sys2Proof.Machine.execUnbind h d b s
  | .compl h lvl d a => Sys2Proof.Machine.execCompl h lvl d a s
  | .kindle h cls sc d a b => Sys2Proof.Machine.execKindle h cls sc d a b s
  | .migrate h d a => Sys2Proof.Machine.execMigrate h d a s
  | .tkcmt h cnt d a b => Sys2Proof.Machine.execTkcmt h cnt d a b s
  | .tkwset h idx d a b => Sys2Proof.Machine.execTkwset h idx d a b s
  | .tkwclr h idx d a => Sys2Proof.Machine.execTkwclr h idx d a s
  | .notify h a b => Sys2Proof.Machine.execNotify h a b s
  | .idle h => Sys2Proof.Machine.execIdle h s
  | .srd h d a => Sys2Proof.Machine.execSrd h d a s
  | .swr h d a => Sys2Proof.Machine.execSwr h d a s
  | .tlbinv h k a b => Sys2Proof.Machine.execTlbinv h k a b s
  | .seed h a => Sys2Proof.Machine.execSeed h a s
  | .rand h d => Sys2Proof.Machine.execRand h d s
  | .lturn h d a b => Sys2Proof.Machine.execLturn h d a b s
  | .pwrreq h d a => Sys2Proof.Machine.execPwrreq h d a s
  | .railsel h d a b => Sys2Proof.Machine.execRailsel h d a b s
  | .trmark h a => Sys2Proof.Machine.execTrmark h a s
  | .bkpt h a => Sys2Proof.Machine.execBkpt h a s
  | .eret h => Sys2Proof.Machine.execEret h s
  | .pinset h idx d a => Sys2Proof.Machine.execPinset h idx d a s
  | .dlyrd h d a => Sys2Proof.Machine.execDlyrd h d a s
  | .dlyclr h a => Sys2Proof.Machine.execDlyclr h a s
  | .mcrd h d a => Sys2Proof.Machine.execMcrd h d a s
  | .halt h => Sys2Proof.Machine.execHalt h s
  | .csync h => Sys2Proof.Machine.execCsync h s
  | .deviceReset => Sys2Proof.Machine.execDeviceReset s
  | .nextTaskChoice => Sys2Proof.Machine.execNextTaskChoice s
  | .steal => Sys2Proof.Machine.execSteal s
  | .serviceTaskEntry => Sys2Proof.Machine.execServiceTaskEntry s
  | .stepWatchdogExpiry => Sys2Proof.Machine.execStepWatchdogExpiry s
  | .messageHeaderArrival => Sys2Proof.Machine.execMessageHeaderArrival s
  | .headerQueueEntry => Sys2Proof.Machine.execHeaderQueueEntry s
  | .messageBeatArrival => Sys2Proof.Machine.execMessageBeatArrival s
  | .sendTailInjected => Sys2Proof.Machine.execSendTailInjected s
  | .storeBufferDrain => Sys2Proof.Machine.execStoreBufferDrain s
  | .memoryResponse => Sys2Proof.Machine.execMemoryResponse s
  | .directoryRequest => Sys2Proof.Machine.execDirectoryRequest s
  | .l1Eviction => Sys2Proof.Machine.execL1Eviction s
  | .translationWalkComplete => Sys2Proof.Machine.execTranslationWalkComplete s
  | .coldPageFetchComplete => Sys2Proof.Machine.execColdPageFetchComplete s
  | .pageOutStart => Sys2Proof.Machine.execPageOutStart s
  | .pageOutComplete => Sys2Proof.Machine.execPageOutComplete s
  | .vectorCmdTake => Sys2Proof.Machine.execVectorCmdTake s
  | .matrixCmdStart => Sys2Proof.Machine.execMatrixCmdStart s
  | .matrixCmdComplete => Sys2Proof.Machine.execMatrixCmdComplete s
  | .copyCmdAccept => Sys2Proof.Machine.execCopyCmdAccept s
  | .copyBeatComplete => Sys2Proof.Machine.execCopyBeatComplete s
  | .copyComplete => Sys2Proof.Machine.execCopyComplete s
  | .rakeCmdTake => Sys2Proof.Machine.execRakeCmdTake s
  | .rakeBeatSample => Sys2Proof.Machine.execRakeBeatSample s
  | .rakeSweepEnd => Sys2Proof.Machine.execRakeSweepEnd s
  | .watchUnitCommit => Sys2Proof.Machine.execWatchUnitCommit s
  | .workRetire => Sys2Proof.Machine.execWorkRetire s
  | .graphLaunchNode => Sys2Proof.Machine.execGraphLaunchNode s
  | .graphCondNode => Sys2Proof.Machine.execGraphCondNode s
  | .graphWhileNode => Sys2Proof.Machine.execGraphWhileNode s
  | .graphJoinallNode => Sys2Proof.Machine.execGraphJoinallNode s
  | .graphEndNode => Sys2Proof.Machine.execGraphEndNode s
  | .graphNodeRetry => Sys2Proof.Machine.execGraphNodeRetry s
  | .doorbellWrite => Sys2Proof.Machine.execDoorbellWrite s
  | .launchPacket => Sys2Proof.Machine.execLaunchPacket s
  | .graphPacket => Sys2Proof.Machine.execGraphPacket s
  | .phasePacket => Sys2Proof.Machine.execPhasePacket s
  | .waitPacket => Sys2Proof.Machine.execWaitPacket s
  | .waitWordPoll => Sys2Proof.Machine.execWaitWordPoll s
  | .signalPacket => Sys2Proof.Machine.execSignalPacket s
  | .signalAfterWrite => Sys2Proof.Machine.execSignalAfterWrite s
  | .queueClose => Sys2Proof.Machine.execQueueClose s
  | .schedulingPass => Sys2Proof.Machine.execSchedulingPass s
  | .localMemoryClearDone => Sys2Proof.Machine.execLocalMemoryClearDone s
  | .priorityAging => Sys2Proof.Machine.execPriorityAging s
  | .headReservation => Sys2Proof.Machine.execHeadReservation s
  | .intensityClassify => Sys2Proof.Machine.execIntensityClassify s
  | .thermalReading => Sys2Proof.Machine.execThermalReading s
  | .thermalStepUp => Sys2Proof.Machine.execThermalStepUp s
  | .stopRequest => Sys2Proof.Machine.execStopRequest s
  | .cutAcknowledge => Sys2Proof.Machine.execCutAcknowledge s
  | .cutSecondStage => Sys2Proof.Machine.execCutSecondStage s
  | .cutComplete => Sys2Proof.Machine.execCutComplete s
  | .cutResume => Sys2Proof.Machine.execCutResume s
  | .migrationTransferComplete => Sys2Proof.Machine.execMigrationTransferComplete s
  | .clusterIdleEntry => Sys2Proof.Machine.execClusterIdleEntry s
  | .smooredEntry => Sys2Proof.Machine.execSmooredEntry s
  | .coldEntry => Sys2Proof.Machine.execColdEntry s
  | .firmwarePowerCommand => Sys2Proof.Machine.execFirmwarePowerCommand s
  | .kindleDeferredChoice => Sys2Proof.Machine.execKindleDeferredChoice s
  | .clusterWakeComplete => Sys2Proof.Machine.execClusterWakeComplete s
  | .kholdTimeout => Sys2Proof.Machine.execKholdTimeout s
  | .channelWakeComplete => Sys2Proof.Machine.execChannelWakeComplete s
  | .channelSelfRefreshEntry => Sys2Proof.Machine.execChannelSelfRefreshEntry s
  | .railSwitch => Sys2Proof.Machine.execRailSwitch s
  | .railSwitchGateEnd => Sys2Proof.Machine.execRailSwitchGateEnd s
  | .generatorHandover => Sys2Proof.Machine.execGeneratorHandover s
  | .currentSample => Sys2Proof.Machine.execCurrentSample s
  | .packagePowerWindow => Sys2Proof.Machine.execPackagePowerWindow s
  | .droopDetect => Sys2Proof.Machine.execDroopDetect s
  | .laneGroupRetire => Sys2Proof.Machine.execLaneGroupRetire s
  | .linkTurnApply => Sys2Proof.Machine.execLinkTurnApply s
  | .turnDeadTimeEnd => Sys2Proof.Machine.execTurnDeadTimeEnd s
  | .hostWakeWrite => Sys2Proof.Machine.execHostWakeWrite s
  | .apertureUp => Sys2Proof.Machine.execApertureUp s
  | .hostMemAccess => Sys2Proof.Machine.execHostMemAccess s
  | .heartbeatTimeout => Sys2Proof.Machine.execHeartbeatTimeout s
  | .liveUpdate => Sys2Proof.Machine.execLiveUpdate s
  | .attestationRequest => Sys2Proof.Machine.execAttestationRequest s
  | .machineCheck => Sys2Proof.Machine.execMachineCheck s
  | .coreRestart => Sys2Proof.Machine.execCoreRestart s
  | .traceRecordWrite => Sys2Proof.Machine.execTraceRecordWrite s
  | .traceSampleTimer => Sys2Proof.Machine.execTraceSampleTimer s
  | .captureEnd => Sys2Proof.Machine.execCaptureEnd s
  | .debugCoreStop => Sys2Proof.Machine.execDebugCoreStop s
  | .debugCoreResume => Sys2Proof.Machine.execDebugCoreResume s
  | .firmwareRegisterWrite => Sys2Proof.Machine.execFirmwareRegisterWrite s
  | .tlbInvalidationComplete => Sys2Proof.Machine.execTlbInvalidationComplete s
  | .clusterStateChangeFinished => Sys2Proof.Machine.execClusterStateChangeFinished s

end Sys2Proof.Machine
end

