-- ==== Sys2Proof/Machine/Fetch.lean ====
section
/-!
DEFINITION. Sys2Proof/Machine/Fetch.lean: fetching an instruction (R164, R165, R189), the checks of R173 that depend on what runs,
the passing of time, and what may act next when the agenda is empty (log 1). Step.lean only calls it.
-/
namespace Sys2Proof.Machine

/-! ### Fetching -/

/-- The window check of a fetch (R164). -/
def fetchWindow (pc : Word) : Eff Win :=
  match windowOf pc.toNat with
  | none => .error (.fault .windowNone pc)
  | some .local => .error (.fault .windowNone pc)
  | some w => if windowOf (pc.toNat + 11) ≠ some w then .error (.fault .windowStraddle pc)
    else if pc.toNat % 4 ≠ 0 then .error (.fault .align pc) else .ok w

/-- One 32-bit word of an instruction: a word fetched ahead of use may still be read in place of memory's (R165). -/
def fetchPart (s : State) (a : Word) (fresh : BitVec 32) (i : Nat) : BitVec 32 :=
  match (s.core.ibuf.find? fun p => p.1 == a).map Prod.snd with
  | some old => if freeChoice (s.free + i) then old else fresh
  | none => fresh

/-- The word at an address, read as a fetch of what runs on the focus core (R164): twelve bytes, or a fault, or a wait. -/
def fetchAt (s : State) (pc : Word) : Eff (BitVec 96 × State) :=
  match fetchWindow pc with
  | .error e => .error e
  | .ok _ =>
    match place s (coreAcc s) pc 12 4 false with
    | .error e => .error e
    | .ok (l, s1) =>
      let x := BitVec.ofNat 96 (ofBytes (l.map fun y => viewByte s1.mem s1.core y))
      let w := fun (i : Nat) => fetchPart s (pc + BitVec.ofNat 64 (4 * i)) (x.extractLsb' (32 * i) 32) i
      .ok (w 2 ++ w 1 ++ w 0, s1)

/-- The instruction word at the user task's or the service task's PC. A body whose LOOP runs is kept in the loop buffer as it is
first fetched, and issued from there afterwards (R189). -/
def fetchWord (s : State) : Eff (BitVec 96 × State) :=
  let c := s.core
  let inBody := c.bank == .user && c.loop.on && decide (c.loop.start.toNat ≤ c.pc.toNat) && decide (c.pc.toNat < c.loop.stop.toNat)
  match (if inBody then (c.loopBuf.find? fun p => p.1 == c.pc) else none) with
  | some p => .ok (p.2, s)
  | none =>
    match fetchAt s c.pc with
    | .error e => .error e
    | .ok (w, s1) => .ok (w, if inBody then onCore s1 fun c => { c with loopBuf := (c.pc, w) :: c.loopBuf } else s1)

/-- The instruction word of the coal handler, kept for the rest of the sweep (R42). -/
def fetchCoal (s : State) : Eff (BitVec 96 × State) :=
  match s.core.sweep with
  | none => .error (.wait .rake)
  | some w =>
    let pc := s.core.coal.pc
    match w.code.find? fun p => p.1 == pc with
    | some p => .ok (p.2, s)
    | none =>
      match fetchAt s pc with
      | .error e => .error e
      | .ok (x, s1) => .ok (x, onCore s1 fun c => { c with sweep := some { w with code := (pc, x) :: w.code } })

/-- A code word fetched ahead of use (R165): it may be read until CSYNC. -/
def prefetchWord (s : State) (k : Nat) (a : Word) : State :=
  let s1 := focus s k
  match place s1 (coreAcc s1) a 4 4 false with
  | .error _ => s
  | .ok (l, s2) =>
    let x := BitVec.ofNat 32 (ofBytes (l.map fun y => viewByte s2.mem s2.core y))
    onCore s2 fun c => { c with ibuf := (a, x) :: c.ibuf.filter fun p => p.1 != a }

/-! ### Decode faults (R173) -/

/-- The opcodes that R175 makes privileged. -/
def privilegedOp (op : BitVec 10) : Bool := [0x382#10, 0x387#10, 0x38B#10, 0x38A#10, 0x38F#10, 0x38E#10].contains op
/-- SWR names a register of access RP (R62) in its D field. -/
def swrPrivileged (f : Fields) : Bool :=
  f.op == 0x381#10 && opKind f.d == 10 && [0x0E, 0x10, 0x11, 0x19].contains (opPay f.d).toNat
/-- The words a service task may not run (R27, R192, R217, R279): these opcodes, and any word that names a v operand. -/
def serviceForbids (f : Fields) : Bool :=
  [0x007#10, 0x008#10, 0x009#10, 0x00A#10, 0x00C#10, 0x00D#10, 0x00E#10, 0x00F#10, 0x18D#10, 0x18E#10, 0x34D#10].contains f.op
    || opKind f.d == 3 || opKind f.a == 3 || opKind f.b == 3
/-- The opcodes a coal handler may run (R42, R217). -/
def coalAllows (op : BitVec 10) : Bool :=
  let n := op.toNat
  (decide (0x1C0 ≤ n) && decide (n < 0x21C)) || n == 0x302 || n == 0x303

/-- A word that does not decode (R173): step 6 stands between the steps that give ILLEGAL_INSN and the operand checks. -/
def decodeFault (s : State) (f : Fields) (e : DecErr) : State :=
  match e with
  | .insn => illegal s
  | .operand =>
    let forbidden := match s.core.bank with
      | .user => (privilegedOp f.op || swrPrivileged f) && !(privileged s)
      | .service => serviceForbids f
      | .coal => !(coalAllows f.op)
    if forbidden then illegal s else illegalOperand s

/-- A fetch that fails is a fault of the instruction that produced the PC, with the PC as its address (R164), also where a cold page that it
waits for does not come (R95); one that waits is tried again. -/
def fetchStopAt (s : State) (pc : Word) (e : Stop) : State :=
  match e with
  | .fault c _ => raiseAt s s.core.srcPc .scalar c pc
  | .wait w => standIn s w
  | .cold m => standIn (askFetch s m (coreWaiter s .scalar s.core.srcPc pc)) .coldPage
  | .asleep ch => standIn (askChannel s ch) .memory
  | .after t x => fetchStopAt t pc x
/-- What a failed fetch of what runs on the focus core comes to. -/
def fetchStop (s : State) (e : Stop) : State :=
  fetchStopAt s (match s.core.bank with | .coal => s.core.coal.pc | .user | .service => s.core.pc) e

/-- What follows an instruction of the coal handler: the bank that ran before runs again, and a handler that has run 64
instructions without RKNEXT faults its sweep's launch (R42). -/
def leaveCoal (b : Bank) (s : State) : State :=
  let s1 := if s.core.sweep.any (fun w => w.running) ∧ 64 ≤ s.core.coal.ran ∧ s.core.bank = .coal then illegal s else s
  if s1.core.bank = .coal then onCore s1 fun c => { c with bank := b } else s1

/-! ### Time -/

/-- The watchdog of a core's running user task raised by n cycles of its cluster, which a service task on the core stops (R23). -/
def countWatchdog (n : Nat) (c : Core) : Core :=
  if c.bank = .user then { c with task := c.task.map fun t => { t with wdog := satAdd t.wdog n } } else c
/-- Cycles pass (R65): a free number for a cluster whose clock runs, for the hub, and for the watchdogs of the cluster's tasks. -/
def passTime (s : State) (k : Nat) : State :=
  let n := freeCycles s.free
  let c := clusterOf k
  let x := getCluster s c
  let runs := x.pstate == .run && !x.gated
  let s1 := if runs then setCluster s c { x with cycle := x.cycle + n.zeroExtend 64, droop := false } else s
  let s2 := if runs then mapCores s1 fun y => if clusterOf y.id = c then countWatchdog n.toNat y else y else s1
  { s2 with free := s2.free + 1, hub := { s2.hub with cycle := s2.hub.cycle + n.zeroExtend 64 } }

/-- Whether a core's user task stands within an instruction: a send whose header has left, a TLBINV, a request to the watch unit, or a watch trap
that is due. A service task is taken at its end (R27). -/
def midway (c : Core) : Bool := c.sending.isSome || c.invalidating.isSome || c.watchResult.isSome || c.trapDue.isSome
/-- Whether the focus core can run an instruction of a task (R27, R287, R380): it exists, its cluster is enabled and running, no
service task waits to be entered but for the end of an instruction that has begun,
and the task is neither halted nor stopped. Service tasks run on a halted or stopped core. -/
def canRun (s : State) : Bool :=
  let c := s.core
  let x := getCluster s (clusterOf c.id)
  coreEnabled s c.id && (x.pstate == .run || x.pstate == .idle) && !x.gated && !c.clearing &&
    (match c.bank with
      | .service => true
      | .user => c.task.isSome && (c.svcq.isEmpty || midway c) && !c.halted && !c.debugStopped && (c.cutAck.isNone || c.cutGoal.isSome)
      | .coal => false)

/-- Core k's turn prepared: it is in focus, no event happens, and time passes. -/
def turnOf (s : State) (k : Nat) : State := passTime (focus { s with now := none } k) k
/-- An event prepared: it is the one that happens now, and time passes. -/
def eventOf (s : State) (e : Event) : State := passTime { s with now := some e } s.core.id

/-- The firmware task that stands for a program loaded from outside (log 23): context 0, launch 0, entry at the first byte of ember
SRAM. -/
def firmwareTask : Task :=
  { info := { entry := 0, arg := 0, origin := 0, ctx := 0, lid := 0, sub := 0, gangm := 0, gang := none, msg := none, chan := none,
              joinAddr := none },
    actid := 0, stepno := 0, wdog := 0, wdogLimit := BitVec.ofNat 33 (2 ^ 32), privileged := true }

/-- The state with a word placed at the first bytes of ember SRAM and the focus core about to run it (log 23). -/
def placeWord (s : State) (w : BitVec 96) : State :=
  let k := s.core.id
  let pc := BitVec.ofNat 64 emberBase
  let s1 := modCluster s (clusterOf k) fun c => { c with pstate := .run, gated := false }
  { s1 with
    mem := memWrite s1.mem (emberKey 0) 12 w.toNat
    hub := { s1.hub with emberGrants := (0, 0) :: s1.hub.emberGrants }
    agenda := [.turn k]
    core := { s1.core with
      task := some firmwareTask, pc := pc, srcPc := pc, bank := .user, blocked := none, svcq := [], storeBuf := [], ibuf := [], loopBuf := [],
      early := [], vq := [],
      loop := { s1.core.loop with on := false }, halted := false, debugStopped := false, clearing := false, cutAck := none } }

/-! ### What may act when the agenda is empty (log 1) -/

/-- The events of core k's own units that have something to do. -/
def coreEvents (s : State) (k : Nat) : List Happening :=
  let c := getCore s k
  let ev := fun (b : Bool) (h : Happening) => if b then [h] else []
  ev (!c.storeBuf.isEmpty) (.happen (.storeBufferDrain k)) ++
  ev (!c.responses.isEmpty) (.happen (.memoryResponse k 0 0)) ++
  ev (!c.vq.isEmpty) (.happen (.vectorCmdTake k)) ++
  ev (c.mrun.isSome) (.happen (.matrixCmdComplete k)) ++
  ev (c.mrun.isNone && !c.mq.isEmpty) (.happen (.matrixCmdStart k)) ++
  ev (!c.cq.isEmpty) (.happen (.copyCmdAccept k)) ++
  (List.range c.flight.length).flatMap (fun i => [.happen (.copyBeatComplete k i 0), .happen (.copyComplete k i)]) ++
  ev (!c.kq.isEmpty) (.happen (.rakeCmdTake k)) ++
  (match c.sweep with
    | none => []
    | some w => if w.running then [.rakeTurn k] else [.happen (.rakeBeatSample k), .happen (.rakeSweepEnd k)]) ++
  ev (match c.invalidating with | some (some _) => true | _ => false) (.happen (.tlbInvalidationComplete k)) ++
  ev (c.sending == some true) (.happen (.sendTailInjected k)) ++
  ev (!c.svcq.isEmpty && c.bank == .user) (.happen (.serviceTaskEntry k)) ++
  ev (c.clearing) (.happen (.localMemoryClearDone k)) ++
  ev (c.task.isNone && (!c.runq.isEmpty || !c.deque.isEmpty)) (.happen (.nextTaskChoice k)) ++
  (List.range 8).flatMap (fun i => ev ((c.chans[i]?.getD []).any fun m => m.waiting) (.happen (.headerQueueEntry k (Fin.ofNat 8 i))))

/-- The events of the shared units that have something to do. -/
def deviceEvents (s : State) : List Happening :=
  (List.range 4).flatMap (fun d => if (s.dirReqs[d]?.getD []).isEmpty then [] else [.happen (.directoryRequest d)]) ++
  (List.range s.network.length).flatMap (fun i => [.happen (.messageHeaderArrival i), .happen (.messageBeatArrival i)]) ++
  (if s.hub.watchQueue.isEmpty then [] else [.happen .watchUnitCommit]) ++
  (if s.traceQ.isEmpty then [] else [.happen .traceRecordWrite]) ++
  s.ctxs.flatMap (fun c => c.queues.flatMap fun q => if q.wridx = q.rdidx then [] else
    [.happen (.launchPacket c.id q.q), .happen (.graphPacket c.id q.q), .happen (.phasePacket c.id q.q), .happen (.waitPacket c.id q.q),
     .happen (.signalPacket c.id q.q)]) ++
  (List.range s.hub.signals.length).map (fun i => .happen (.signalAfterWrite i)) ++
  (List.range 5).flatMap (fun st => if (s.stores[st]?.getD []).isEmpty then [] else [.happen (.schedulingPass st 0 [])]) ++
  (List.range 5).flatMap (fun w => (List.range s.graphs.length).flatMap fun i =>
    [.happen (.graphLaunchNode w i), .happen (.graphCondNode w i), .happen (.graphWhileNode w i), .happen (.graphJoinallNode w i),
     .happen (.graphEndNode w i)]) ++
  s.launches.map (fun l => .happen (.workRetire l.ctx .launch l.lid)) ++
  s.graphs.map (fun g => .happen (.workRetire g.ctx .graph g.gid))

/-- What acts when the agenda is empty: the focus core's turn and every unit with something to do, in rotation. -/
def nextHappening (s : State) : Happening :=
  let l := .turn s.core.id :: (coreEvents s s.core.id ++ deviceEvents s)
  (l[s.free % l.length]?).getD (.turn s.core.id)

end Sys2Proof.Machine
end

