-- ==== Sys2Proof/Machine/Step.lean ====
section
/-!
DEFINITION. Sys2Proof/Machine/Step.lean: one step of the device: who acts next (log 1), and the fetch, decode and execution of one
instruction (R163 to R173), or one device event.
-/
namespace Sys2Proof.Machine

/-- The focus core runs the instruction at its PC; a core that cannot run does nothing, and an instruction that waits for what its vector queue
holds waits there (log 90), as one does that performs stores whose lines an overflow task holds (R86). -/
def turn (s : State) : Host.Outcome State Fault Refusal :=
  if canRun s then
    match fetchWord s with
    | .error e => .next (fetchStop s e)
    | .ok (w, s1) =>
      match decodeWord w with
      | .ok i =>
        if heldBack s1 i then .next (standIn s1 .engineQueue) else if heldStores s1 i then .next (standIn s1 .memory) else exec i s1
      | .error e => .next (decodeFault s1 (fieldsOf w) e)
  else .next s

/-- The focus core's vector engine performs the first command that its queue holds unperformed (R124). -/
def vecTurn (s : State) : Host.Outcome State Fault Refusal :=
  match vecReady s with
  | none => .next s
  | some (pre, e, t, post) =>
    match exec t.instr (vecStart s e t) with
    | .next u => .next (vecEnd s u pre e t post)
    | .fault r => .fault r
    | .refused r => .refused r

/-- The focus core's rake runs one instruction of its coal handler (R42). -/
def rakeTurn (s : State) : Host.Outcome State Fault Refusal :=
  if (s.core.sweep.any fun w => w.running) && !s.core.debugStopped then
    let b := s.core.bank
    let s0 := onCore s fun c => { c with bank := .coal }
    match fetchCoal s0 with
    | .error e => .next (leaveCoal b (fetchStop s0 e))
    | .ok (w, s1) =>
      match decodeWord w with
      | .ok i =>
        match exec i s1 with
        | .next t => .next (leaveCoal b t)
        | .fault r => .fault r
        | .refused r => .refused r
      | .error e => .next (leaveCoal b (decodeFault s1 (fieldsOf w) e))
  else .next s

/-- One happening. -/
def act (s : State) (h : Happening) : Host.Outcome State Fault Refusal :=
  match h with
  | .turn k => turn (turnOf s k)
  | .early k key => .next (readEarly s k key)
  | .vecTurn k => vecTurn (focus { s with now := none } k)
  | .rakeTurn k => rakeTurn (turnOf s k)
  | .prefetch k a => .next (prefetchWord s k a)
  | .happen e => exec e.instr (eventOf s e)

/-- One step of the device: the first happening of the agenda, or, when it is empty, the one `nextHappening` names. -/
def step (s : State) : Host.Outcome State Fault Refusal :=
  match s.agenda with
  | h :: r => act { s with agenda := r } h
  | [] => act s (nextHappening s)

/-- The state with the instruction of these bits placed where the next step fetches, and that step the focus core's turn
(log 23). -/
def State.withFetchWord (s : State) (nbits w : Nat) : State := placeWord s (BitVec.ofNat 96 (w % 2 ^ nbits))

end Sys2Proof.Machine
end

