-- ==== Sys2Proof/Machine/AsmText.lean ====
section
/-!
DEFINITION. Sys2Proof/Machine/AsmText.lean: the text that kelasm reads (spec/09 R176 to R178; spec/16 R331, R332): lines and comments,
identifiers, numbers, real numbers, operand lists and expressions.
-/
namespace Sys2Proof.Machine

/-- A line, or part of one. -/
abbrev Text := List Char

/-- Why kelasm rejects a file (R331 to R342): one name for each kind of breach. -/
inductive Reject where
  /-- A line holds more than 1,023 characters, or a character that is not ASCII (R331). -/
  | text
  /-- The first line is not `.isa 2`, or a later one names another level (R331). -/
  | isa
  /-- A line, an operand or a number is not written as R176 to R179 and R332 allow. -/
  | form
  /-- A division by zero, a negative shift, or an expression of another form than R332 allows. -/
  | expression
  /-- A label that R177 does not allow, or a second definition (R338). -/
  | name
  /-- A name that is used but neither defined nor declared (R338). -/
  | undefined
  /-- An unknown mnemonic (R177). -/
  | mnemonic
  /-- A suffix is missing, is not used, or does not fit (R170, R177). -/
  | suffix
  /-- An operand does not fit its position, or an immediate does not fit (R167, R178). -/
  | operand
  /-- A target that is no whole number of instructions away, or out of range (R180). -/
  | target
  /-- A value outside the range that its directive gives. -/
  | range
  /-- A directive, a section kind, an alignment or a flag that does not fit where it stands (R333 to R337). -/
  | place
  /-- A counter that is not the multiple that a directive asks for (R336, R341). -/
  | counter
  /-- An unknown directive, or a wrong number of operands. -/
  | directive
  /-- A launch declaration breaks R308, R339 or R340. -/
  | launch
  /-- A graph breaks R342. -/
  | graph
deriving DecidableEq, Repr

/-- A result of kelasm: a rejected line yields no object. -/
abbrev Asm (α : Type) := Except Reject α

/-- A condition on the source. -/
def insist (b : Bool) (r : Reject) : Asm Unit := if b then .ok () else .error r

/-! ### Lines (R176, R331) -/

/-- Blanks between the parts of a line. -/
def isBlank (c : Char) : Bool := c == ' ' || c == '\t' || c == '\r'
/-- A text without the blanks before it, and without those on both sides. -/
def skipBlanks (t : Text) : Text := t.dropWhile isBlank
def trim (t : Text) : Text := (skipBlanks (skipBlanks t).reverse).reverse
/-- A line without its comment. -/
def stripComment : Text → Text
  | [] => []
  | ';' :: _ => []
  | '/' :: '/' :: _ => []
  | c :: r => c :: stripComment r
/-- The lines of a source: the line under way is held reversed. -/
def splitLines : Text → Text → List Text
  | [], acc => [acc.reverse]
  | '\n' :: r, acc => acc.reverse :: splitLines r []
  | c :: r, acc => splitLines r (c :: acc)
/-- Whether a line is one that R331 allows. -/
def lineOk (t : Text) : Bool := decide (t.length ≤ 1023) && t.all fun c => decide (c.toNat < 128)

/-- Letters, digits and underscores of an identifier (R177). -/
def isNameStart (c : Char) : Bool := c.isAlpha || c == '_'
def isNameChar (c : Char) : Bool := c.isAlphanum || c == '_'
/-- An identifier at the head of a text, and the rest. -/
def takeName (t : Text) : Option (Text × Text) :=
  match t with
  | [] => none
  | c :: _ => if isNameStart c then some (t.takeWhile isNameChar, t.dropWhile isNameChar) else none
/-- A text that is one identifier. -/
def wholeName (t : Text) : Option Text :=
  match takeName (trim t) with
  | some (n, []) => some n
  | _ => none
/-- A text in capitals: mnemonics and register names are not case-sensitive (R177). -/
def upper (t : Text) : Text := t.map Char.toUpper
/-- Whether a text is the given word. -/
def isWord (t : Text) (w : String) : Bool := t == w.toList
/-- A text without a prefix that it begins with. -/
def after (p t : Text) : Option Text := if p.isPrefixOf t then some (t.drop p.length) else none
/-- Operands separated by commas that stand outside brackets and parentheses: the operand under way is held reversed. -/
def splitCommas : Text → Nat → Text → List Text
  | [], _, acc => [trim acc.reverse]
  | c :: r, n, acc =>
    if c = ',' ∧ n = 0 then trim acc.reverse :: splitCommas r 0 []
    else splitCommas r (if c = '(' ∨ c = '[' then n + 1 else if c = ')' ∨ c = ']' then n - 1 else n) (c :: acc)
/-- The operands of a line: none where nothing is written. -/
def operandsOf (t : Text) : List Text := if trim t = [] then [] else splitCommas t 0 []

/-! ### Numbers (R178) -/

/-- The value of a digit in a base. -/
def digitOf (b : Nat) (c : Char) : Option Nat :=
  let v := if c.isDigit then c.toNat - 48 else if c.isLower then c.toNat - 87 else if c.isUpper then c.toNat - 55 else 99
  if v < b then some v else none
/-- Digits with single underscores between them, after the first. -/
def takeDigits (b : Nat) : Text → Nat → Nat × Text
  | '_' :: c :: r, acc =>
    match digitOf b c with
    | some d => takeDigits b r (acc * b + d)
    | none => (acc, '_' :: c :: r)
  | c :: r, acc =>
    match digitOf b c with
    | some d => takeDigits b r (acc * b + d)
    | none => (acc, c :: r)
  | [], acc => (acc, [])
/-- Digits in a base, at least one. -/
def digitsIn (b : Nat) (t : Text) : Option (Nat × Text) :=
  match t with
  | [] => none
  | c :: r => (digitOf b c).map fun d => takeDigits b r d
/-- A number at the head of a text: decimal, hexadecimal with 0x or binary with 0b. -/
def takeNumber (t : Text) : Option (Nat × Text) :=
  let x := match t with
    | '0' :: 'x' :: r => digitsIn 16 r
    | '0' :: 'b' :: r => digitsIn 2 r
    | _ => digitsIn 10 t
  match x with
  | some (n, c :: r) => if isNameChar c then none else some (n, c :: r)
  | y => y
/-- A text that is one decimal number without sign or leading zero, as a register number or a COUNT is written. -/
def plainNumber (t : Text) : Option Nat :=
  match t with
  | ['0'] => some 0
  | '0' :: _ => none
  | _ => if t.all Char.isDigit then (digitsIn 10 t).map Prod.fst else none

/-! ### Real numbers (R335; their form is log 74) -/

/-- n / d with a sticky bit below every bit that a rounding can look at. -/
def ofRatio (neg : Bool) (n d : Nat) : FVal :=
  let k := 256 + Nat.log2 d
  .fin neg (2 * (n * 2 ^ k / d) + if n * 2 ^ k % d = 0 then 0 else 1) (-(k : Int) - 1)
/-- The digits of a fraction: their value and how many there are. -/
def takeFraction : Text → Nat → Nat → Nat × Nat × Text
  | '_' :: c :: r, acc, n =>
    match digitOf 10 c with
    | some d => takeFraction r (acc * 10 + d) (n + 1)
    | none => (acc, n, '_' :: c :: r)
  | c :: r, acc, n =>
    match digitOf 10 c with
    | some d => takeFraction r (acc * 10 + d) (n + 1)
    | none => (acc, n, c :: r)
  | [], acc, n => (acc, n, [])
/-- An exponent: none written is 0. -/
def exponentOf (t : Text) : Option Int :=
  match t with
  | [] => some 0
  | c :: r =>
    if c = 'e' ∨ c = 'E' then
      match r with
      | '-' :: d => match digitsIn 10 d with | some (n, []) => some (-(n : Int)) | _ => none
      | '+' :: d => match digitsIn 10 d with | some (n, []) => some n | _ => none
      | d => match digitsIn 10 d with | some (n, []) => some n | _ => none
    else none
/-- A real number without its sign. -/
def magnitudeOf (neg : Bool) (t : Text) : Option FVal :=
  match takeNumber t with
  | some (n, []) => some (ofRatio neg n 1)
  | _ =>
    -- a fraction may stand without digits before its point, but not without digits
    match digitsIn 10 (match t with | '.' :: c :: _ => if c.isDigit then '0' :: t else t | _ => t) with
    | none => none
    | some (n, r) =>
      let (m, k, r2) := match r with
        | '.' :: f => takeFraction f n 0
        | _ => (n, 0, r)
      (exponentOf r2).map fun e =>
        let x : Int := e - k
        if 0 ≤ x then ofRatio neg (m * 10 ^ x.toNat) 1 else ofRatio neg m (10 ^ (-x).toNat)
/-- A real number, an infinity or a NaN. -/
def realOf (t : Text) : Option FVal :=
  if isWord t "nan" then some .nan
  else if isWord t "inf" then some (.inf false)
  else if isWord t "-inf" then some (.inf true)
  else
    match t with
    | '-' :: r => magnitudeOf true (skipBlanks r)
    | _ => magnitudeOf false t
/-- Whether a value is a real number. -/
def FVal.isReal : FVal → Bool
  | .fin _ _ _ => true
  | .inf _ => false
  | .nan => false

/-! ### Expressions (R332) -/

/-- The binary operators. -/
inductive BinOp where
  | mul | quo | rem | add | sub | shl | shr | and | xor | or
deriving DecidableEq, Repr

/-- An expression. -/
inductive Expr where
  | lit (n : Nat)
  | sym (n : Text)
  | dot
  | neg (e : Expr)
  | inv (e : Expr)
  | bin (o : BinOp) (a b : Expr)
deriving DecidableEq, Repr

/-- An operator of a level of precedence at the head of a text: level 1 binds closest. -/
def takeOp (level : Nat) (t : Text) : Option (BinOp × Text) :=
  match level, t with
  | 1, '*' :: r => some (.mul, r)
  | 1, '/' :: r => some (.quo, r)
  | 1, '%' :: r => some (.rem, r)
  | 2, '+' :: r => some (.add, r)
  | 2, '-' :: r => some (.sub, r)
  | 3, '<' :: '<' :: r => some (.shl, r)
  | 3, '>' :: '>' :: r => some (.shr, r)
  | 4, '&' :: r => some (.and, r)
  | 5, '^' :: r => some (.xor, r)
  | 6, '|' :: r => some (.or, r)
  | _, _ => none

/-- What a step of the parser reads: an operand with its unary operators, an expression of a level, or the operators of a level that follow
a left side. -/
inductive Goal where
  | atom
  | level (n : Nat)
  | more (n : Nat) (l : Expr)
deriving DecidableEq, Repr

/-- The parser of expressions: the operators of one level apply left to right. -/
def parseExpr : Nat → Goal → Text → Option (Expr × Text)
  | 0, _, _ => none
  | f + 1, .atom, t =>
    match skipBlanks t with
    | '-' :: r => (parseExpr f .atom r).map fun p => (.neg p.1, p.2)
    | '~' :: r => (parseExpr f .atom r).map fun p => (.inv p.1, p.2)
    | '(' :: r =>
      match parseExpr f (.level 6) r with
      | some (e, r2) => match skipBlanks r2 with | ')' :: r3 => some (e, r3) | _ => none
      | none => none
    | '.' :: r => some (.dot, r)
    | u =>
      match takeNumber u with
      | some (n, r) => some (.lit n, r)
      | none => (takeName u).map fun p => (.sym p.1, p.2)
  | f + 1, .level 0, t => parseExpr f .atom t
  | f + 1, .level (n + 1), t =>
    match parseExpr f (.level n) t with
    | some (l, r) => parseExpr f (.more (n + 1) l) r
    | none => none
  | f + 1, .more n l, t =>
    match takeOp n (skipBlanks t) with
    | some (o, r) =>
      match parseExpr f (.level (n - 1)) r with
      | some (x, r2) => parseExpr f (.more n (.bin o l x)) r2
      | none => none
    | none => some (l, t)
/-- A text that is one expression. -/
def exprOf (t : Text) : Asm Expr :=
  match parseExpr (16 * t.length + 16) (.level 6) t with
  | some (e, r) => if skipBlanks r = [] then .ok e else .error .form
  | none => .error .form

/-- What a relocatable value counts from: a symbol, or the start of a section of the file (the counter of `.`). -/
inductive Base where
  | sym (n : Text)
  | sect (n : Text)
deriving DecidableEq, Repr

/-- The value of an expression: an integer, or a base and an integer beyond it. -/
structure Val where
  base : Option Base
  off : Int
deriving DecidableEq, Repr

/-- An absolute value. -/
def Val.abs (x : Int) : Val := ⟨none, x⟩
/-- An operator on two integers: exact, with / and % towards zero. -/
def applyOp (o : BinOp) (a b : Int) : Asm Int :=
  match o with
  | .mul => .ok (a * b)
  | .quo => if b = 0 then .error .expression else .ok (a.tdiv b)
  | .rem => if b = 0 then .error .expression else .ok (a.tmod b)
  | .add => .ok (a + b)
  | .sub => .ok (a - b)
  | .shl => if b < 0 then .error .expression else .ok (a * 2 ^ b.toNat)
  | .shr => if b < 0 then .error .expression else .ok (a / 2 ^ b.toNat)
  | .and => .ok (Int.land a b)
  | .xor => .ok (Int.xor a b)
  | .or => .ok (Int.lor a b)
/-- An operator on two values: of relocatable forms only symbol ± absolute. -/
def applyVal (o : BinOp) (a b : Val) : Asm Val :=
  match a.base, b.base with
  | none, none => (applyOp o a.off b.off).map Val.abs
  | some s, none =>
    match o with
    | .add => .ok ⟨some s, a.off + b.off⟩
    | .sub => .ok ⟨some s, a.off - b.off⟩
    | _ => .error .expression
  | none, some _ => .error .expression
  | some _, some _ => .error .expression
/-- An expression evaluated, with what its symbols and `.` stand for. -/
def evalExpr (look : Text → Asm Val) (dot : Asm Val) : Expr → Asm Val
  | .lit n => .ok (.abs n)
  | .sym n => look n
  | .dot => dot
  | .neg e => do
    let v ← evalExpr look dot e
    if v.base = none then .ok (.abs (-v.off)) else .error .expression
  | .inv e => do
    let v ← evalExpr look dot e
    if v.base = none then .ok (.abs (-v.off - 1)) else .error .expression
  | .bin o a b => do
    let x ← evalExpr look dot a
    let y ← evalExpr look dot b
    applyVal o x y

/-- Where an expression stands: what its symbols stand for, the value of `.`, and the section and offset of a label of the file. -/
structure AsmEnv where
  look : Text → Asm Val
  dot : Asm Val
  place : Text → Option (Text × Nat)

/-- A text evaluated. -/
def valueOf (env : AsmEnv) (t : Text) : Asm Val := do
  let e ← exprOf t
  evalExpr env.look env.dot e
/-- A text that must be absolute. -/
def absoluteOf (env : AsmEnv) (t : Text) : Asm Int := do
  let v ← valueOf env t
  if v.base = none then .ok v.off else .error .expression
/-- A text that must be absolute and lie in a range. -/
def numberIn (env : AsmEnv) (lo hi : Int) (t : Text) : Asm Nat := do
  let x ← absoluteOf env t
  if lo ≤ x ∧ x ≤ hi then .ok x.toNat else .error .range

end Sys2Proof.Machine
end

