-- ==== Sys2Proof/Machine/AsmTable.lean ====
section
/-!
DEFINITION. Sys2Proof/Machine/AsmTable.lean: the mnemonics of kelasm (R174, R177): for each its opcode, the subfields its suffixes fill and
the written order of its operands, as the Assembly columns of spec/10, spec/11 and spec/12 give them.
-/
namespace Sys2Proof.Machine

/-- The names that a mnemonic's SUB suffix takes. -/
inductive SubNames where
  /-- The entry uses no SUB. -/
  | none
  /-- The conditions of ICMP and VCMP, and those of FCMP and VFCMP (R171). -/
  | cond | fcond
  /-- A second format, by its TYPE name. -/
  | type
  /-- P0 to P7 (R197). -/
  | pred
  /-- The kinds of ICNT, the levels of CANCEL and COMPL, the classes of KINDLE and the kinds of TLBINV. -/
  | count | level | wake | inv
deriving DecidableEq, Repr

/-- A written operand, by the field it fills: an address fills A and B (R179), a target fills M (R180). -/
inductive Slot where
  | d | a | b | addr | target
deriving DecidableEq, Repr

/-- A mnemonic: its suffixes in their order, and its operands in theirs. -/
structure InsnRow where
  name : String
  op : Nat
  ty : Bool
  sub : SubNames
  ord : Bool
  scope : Bool
  count : Bool
  ops : List Slot
deriving DecidableEq, Repr

/-- Class 0x0. -/
def asmControl : List InsnRow := [
  ⟨"NOP", 0x001, false, .none, false, false, false, []⟩,
  ⟨"BR", 0x002, false, .none, false, false, false, [.target]⟩,
  ⟨"BRZ", 0x003, false, .none, false, false, false, [.a, .target]⟩,
  ⟨"BRNZ", 0x004, false, .none, false, false, false, [.a, .target]⟩,
  ⟨"BRDEC", 0x005, false, .none, false, false, false, [.d, .target]⟩,
  ⟨"JMP", 0x006, false, .none, false, false, false, [.a]⟩,
  ⟨"CALL", 0x007, false, .none, false, false, false, [.target]⟩,
  ⟨"CALLR", 0x008, false, .none, false, false, false, [.a]⟩,
  ⟨"RET", 0x009, false, .none, false, false, false, []⟩,
  ⟨"LOOP", 0x00A, false, .none, false, false, false, [.a, .target]⟩,
  ⟨"LBRK", 0x00B, false, .none, false, false, false, []⟩,
  ⟨"FORK", 0x00C, false, .none, false, false, false, [.d, .a, .b, .target]⟩,
  ⟨"JOIN", 0x00D, false, .none, false, false, false, [.a]⟩,
  ⟨"END", 0x00E, false, .none, false, false, false, []⟩,
  ⟨"STEP", 0x00F, false, .none, false, false, false, []⟩,
  ⟨"TRAP", 0x010, false, .none, false, false, false, [.a]⟩]
/-- Class 0x1, its first 20 mnemonics. -/
def asmIntegerA : List InsnRow := [
  ⟨"IADD", 0x040, true, .none, false, false, false, [.d, .a, .b]⟩,
  ⟨"ISUB", 0x041, true, .none, false, false, false, [.d, .a, .b]⟩,
  ⟨"IADDS", 0x042, true, .none, false, false, false, [.d, .a, .b]⟩,
  ⟨"ISUBS", 0x043, true, .none, false, false, false, [.d, .a, .b]⟩,
  ⟨"INEG", 0x044, true, .none, false, false, false, [.d, .a]⟩,
  ⟨"IABS", 0x045, true, .none, false, false, false, [.d, .a]⟩,
  ⟨"IMIN", 0x046, true, .none, false, false, false, [.d, .a, .b]⟩,
  ⟨"IMAX", 0x047, true, .none, false, false, false, [.d, .a, .b]⟩,
  ⟨"IMINN", 0x048, true, .none, false, false, false, [.d, .a, .b]⟩,
  ⟨"IMAXN", 0x049, true, .none, false, false, false, [.d, .a, .b]⟩,
  ⟨"IAND", 0x04A, true, .none, false, false, false, [.d, .a, .b]⟩,
  ⟨"IOR", 0x04B, true, .none, false, false, false, [.d, .a, .b]⟩,
  ⟨"IXOR", 0x04C, true, .none, false, false, false, [.d, .a, .b]⟩,
  ⟨"IANDN", 0x04D, true, .none, false, false, false, [.d, .a, .b]⟩,
  ⟨"ISHL", 0x04E, true, .none, false, false, false, [.d, .a, .b]⟩,
  ⟨"ISHR", 0x04F, true, .none, false, false, false, [.d, .a, .b]⟩,
  ⟨"ISAR", 0x050, true, .none, false, false, false, [.d, .a, .b]⟩,
  ⟨"IROT", 0x051, true, .none, false, false, false, [.d, .a, .b]⟩,
  ⟨"IEXT", 0x052, true, .none, false, false, true, [.d, .a, .b]⟩,
  ⟨"IEXTN", 0x053, true, .none, false, false, true, [.d, .a, .b]⟩]
/-- Class 0x1, the others. -/
def asmIntegerB : List InsnRow := [
  ⟨"IINS", 0x054, true, .none, false, false, true, [.d, .a, .b]⟩,
  ⟨"ICNT", 0x055, true, .count, false, false, false, [.d, .a]⟩,
  ⟨"IMOV", 0x056, true, .none, false, false, false, [.d, .b]⟩,
  ⟨"ISEL", 0x057, true, .pred, false, false, false, [.d, .a, .b]⟩]
/-- Class 0x2. -/
def asmMultiply : List InsnRow := [
  ⟨"IMUL", 0x080, true, .none, false, false, false, [.d, .a, .b]⟩,
  ⟨"IMULH", 0x081, true, .none, false, false, false, [.d, .a, .b]⟩,
  ⟨"IMULHN", 0x082, true, .none, false, false, false, [.d, .a, .b]⟩,
  ⟨"IMAD", 0x083, true, .none, false, false, false, [.d, .a, .b]⟩,
  ⟨"IDIV", 0x084, true, .none, false, false, false, [.d, .a, .b]⟩,
  ⟨"IDIVN", 0x085, true, .none, false, false, false, [.d, .a, .b]⟩,
  ⟨"IREM", 0x086, true, .none, false, false, false, [.d, .a, .b]⟩,
  ⟨"IREMN", 0x087, true, .none, false, false, false, [.d, .a, .b]⟩,
  ⟨"ILEA", 0x088, true, .none, false, false, true, [.d, .a, .b]⟩,
  ⟨"IDXT", 0x089, false, .none, false, false, false, [.d, .a, .b]⟩]
/-- Class 0x3. -/
def asmPredicate : List InsnRow := [
  ⟨"ICMP", 0x0C0, true, .cond, false, false, false, [.d, .a, .b]⟩,
  ⟨"FCMP", 0x0C1, true, .fcond, false, false, false, [.d, .a, .b]⟩,
  ⟨"PAND", 0x0C2, false, .none, false, false, false, [.d, .a, .b]⟩,
  ⟨"POR", 0x0C3, false, .none, false, false, false, [.d, .a, .b]⟩,
  ⟨"PXOR", 0x0C4, false, .none, false, false, false, [.d, .a, .b]⟩,
  ⟨"PNOT", 0x0C5, false, .none, false, false, false, [.d, .a]⟩,
  ⟨"PGET", 0x0C6, false, .none, false, false, false, [.d, .a]⟩,
  ⟨"PSET", 0x0C7, false, .none, false, false, false, [.d, .a]⟩,
  ⟨"PFIRST", 0x0C8, false, .none, false, false, false, [.d, .a]⟩,
  ⟨"PCNT", 0x0C9, false, .none, false, false, false, [.d, .a]⟩]
/-- Class 0x4. -/
def asmFloat : List InsnRow := [
  ⟨"FADD", 0x100, true, .none, false, false, false, [.d, .a, .b]⟩,
  ⟨"FSUB", 0x101, true, .none, false, false, false, [.d, .a, .b]⟩,
  ⟨"FMUL", 0x102, true, .none, false, false, false, [.d, .a, .b]⟩,
  ⟨"FFMA", 0x103, true, .none, false, false, false, [.d, .a, .b]⟩,
  ⟨"FDIV", 0x104, true, .none, false, false, false, [.d, .a, .b]⟩,
  ⟨"FSQRT", 0x105, true, .none, false, false, false, [.d, .a]⟩,
  ⟨"FMIN", 0x106, true, .none, false, false, false, [.d, .a, .b]⟩,
  ⟨"FMAX", 0x107, true, .none, false, false, false, [.d, .a, .b]⟩,
  ⟨"FABS", 0x108, true, .none, false, false, false, [.d, .a]⟩,
  ⟨"FNEG", 0x109, true, .none, false, false, false, [.d, .a]⟩,
  ⟨"FCVTIF", 0x10A, true, .none, false, false, false, [.d, .a]⟩,
  ⟨"FCVTFI", 0x10B, true, .none, false, false, false, [.d, .a]⟩,
  ⟨"FCVTFIZ", 0x10C, true, .none, false, false, false, [.d, .a]⟩,
  ⟨"FRCP", 0x10D, true, .none, false, false, false, [.d, .a]⟩,
  ⟨"FEXP2", 0x10E, true, .none, false, false, false, [.d, .a]⟩,
  ⟨"FLOG2", 0x10F, true, .none, false, false, false, [.d, .a]⟩]
/-- Class 0x5. -/
def asmMemory : List InsnRow := [
  ⟨"LD", 0x140, true, .none, false, false, false, [.d, .addr]⟩,
  ⟨"ST", 0x141, true, .none, false, false, false, [.addr, .d]⟩,
  ⟨"LDL", 0x142, true, .none, false, false, false, [.d, .addr]⟩,
  ⟨"STL", 0x143, true, .none, false, false, false, [.addr, .d]⟩,
  ⟨"LDPW", 0x144, true, .none, false, false, false, [.d, .a, .b]⟩,
  ⟨"PREF", 0x145, false, .none, false, false, false, [.addr]⟩,
  ⟨"ZLINE", 0x146, false, .none, false, false, false, [.addr]⟩,
  ⟨"WBLINE", 0x147, false, .none, false, false, false, [.addr]⟩,
  ⟨"INVLINE", 0x148, false, .none, false, false, false, [.addr]⟩]
/-- Class 0x6. -/
def asmAtomic : List InsnRow := [
  ⟨"AADD", 0x180, true, .none, true, true, false, [.addr, .d]⟩,
  ⟨"AMIN", 0x181, true, .none, true, true, false, [.addr, .d]⟩,
  ⟨"AMAX", 0x182, true, .none, true, true, false, [.addr, .d]⟩,
  ⟨"AMINN", 0x183, true, .none, true, true, false, [.addr, .d]⟩,
  ⟨"AMAXN", 0x184, true, .none, true, true, false, [.addr, .d]⟩,
  ⟨"AAND", 0x185, true, .none, true, true, false, [.addr, .d]⟩,
  ⟨"AOR", 0x186, true, .none, true, true, false, [.addr, .d]⟩,
  ⟨"AXOR", 0x187, true, .none, true, true, false, [.addr, .d]⟩,
  ⟨"ASWP", 0x188, true, .none, true, true, false, [.addr, .d]⟩,
  ⟨"ACAS", 0x189, true, .none, true, true, false, [.addr, .d]⟩,
  ⟨"LDACQ", 0x18A, true, .none, false, true, false, [.d, .addr]⟩,
  ⟨"STREL", 0x18B, true, .none, false, true, false, [.addr, .d]⟩,
  ⟨"FENCE", 0x18C, false, .none, true, true, false, []⟩,
  ⟨"WAITA", 0x18D, false, .none, false, true, false, [.addr, .d]⟩,
  ⟨"GBAR", 0x18E, false, .none, false, false, false, []⟩]
/-- Class 0x7, its first 20 mnemonics. -/
def asmVectorA : List InsnRow := [
  ⟨"VADD", 0x1C0, true, .none, false, false, false, [.d, .a, .b]⟩,
  ⟨"VSUB", 0x1C1, true, .none, false, false, false, [.d, .a, .b]⟩,
  ⟨"VADDS", 0x1C2, true, .none, false, false, false, [.d, .a, .b]⟩,
  ⟨"VADDSN", 0x1C3, true, .none, false, false, false, [.d, .a, .b]⟩,
  ⟨"VSUBS", 0x1C4, true, .none, false, false, false, [.d, .a, .b]⟩,
  ⟨"VMUL", 0x1C5, true, .none, false, false, false, [.d, .a, .b]⟩,
  ⟨"VMULH", 0x1C6, true, .none, false, false, false, [.d, .a, .b]⟩,
  ⟨"VMULHR", 0x1C7, true, .none, false, false, false, [.d, .a, .b]⟩,
  ⟨"VMAD", 0x1C8, true, .none, false, false, false, [.d, .a, .b]⟩,
  ⟨"VMACW", 0x1C9, true, .none, false, false, false, [.d, .a, .b]⟩,
  ⟨"VDOT4", 0x1CA, true, .none, false, false, false, [.d, .a, .b]⟩,
  ⟨"VMIN", 0x1CB, true, .none, false, false, false, [.d, .a, .b]⟩,
  ⟨"VMAX", 0x1CC, true, .none, false, false, false, [.d, .a, .b]⟩,
  ⟨"VMINN", 0x1CD, true, .none, false, false, false, [.d, .a, .b]⟩,
  ⟨"VMAXN", 0x1CE, true, .none, false, false, false, [.d, .a, .b]⟩,
  ⟨"VABS", 0x1CF, true, .none, false, false, false, [.d, .a]⟩,
  ⟨"VAND", 0x1D0, true, .none, false, false, false, [.d, .a, .b]⟩,
  ⟨"VOR", 0x1D1, true, .none, false, false, false, [.d, .a, .b]⟩,
  ⟨"VXOR", 0x1D2, true, .none, false, false, false, [.d, .a, .b]⟩,
  ⟨"VSHL", 0x1D3, true, .none, false, false, false, [.d, .a, .b]⟩]
/-- Class 0x7, the others. -/
def asmVectorB : List InsnRow := [
  ⟨"VSHR", 0x1D4, true, .none, false, false, false, [.d, .a, .b]⟩,
  ⟨"VSAR", 0x1D5, true, .none, false, false, false, [.d, .a, .b]⟩,
  ⟨"VRSHR", 0x1D6, true, .none, false, false, false, [.d, .a, .b]⟩,
  ⟨"VNARS", 0x1D7, true, .none, false, false, true, [.d, .a]⟩,
  ⟨"VNARN", 0x1D8, true, .none, false, false, true, [.d, .a]⟩,
  ⟨"VWID", 0x1D9, true, .none, false, false, true, [.d, .a]⟩,
  ⟨"VWIDN", 0x1DA, true, .none, false, false, true, [.d, .a]⟩,
  ⟨"VCMP", 0x1DB, true, .cond, false, false, false, [.d, .a, .b]⟩,
  ⟨"VSEL", 0x1DC, true, .pred, false, false, false, [.d, .a, .b]⟩,
  ⟨"VSPLAT", 0x1DD, true, .none, false, false, false, [.d, .b]⟩,
  ⟨"VPERM", 0x1DE, true, .none, false, false, false, [.d, .a, .b]⟩,
  ⟨"VSLIDE", 0x1DF, true, .none, false, false, false, [.d, .a, .b]⟩,
  ⟨"VIOTA", 0x1E0, true, .none, false, false, false, [.d, .b]⟩,
  ⟨"VREDADD", 0x1E1, true, .none, false, false, false, [.d, .a]⟩,
  ⟨"VREDMAX", 0x1E2, true, .none, false, false, false, [.d, .a]⟩,
  ⟨"VREDMIN", 0x1E3, true, .none, false, false, false, [.d, .a]⟩,
  ⟨"VMOVS", 0x1E4, true, .none, false, false, false, [.d, .a, .b]⟩,
  ⟨"VCLR", 0x1E5, true, .none, false, false, false, [.d]⟩]
/-- Class 0x8, its first 20 mnemonics. -/
def asmVectorFloatA : List InsnRow := [
  ⟨"VFADD", 0x200, true, .none, false, false, false, [.d, .a, .b]⟩,
  ⟨"VFSUB", 0x201, true, .none, false, false, false, [.d, .a, .b]⟩,
  ⟨"VFMUL", 0x202, true, .none, false, false, false, [.d, .a, .b]⟩,
  ⟨"VFFMA", 0x203, true, .none, false, false, false, [.d, .a, .b]⟩,
  ⟨"VFMIN", 0x204, true, .none, false, false, false, [.d, .a, .b]⟩,
  ⟨"VFMAX", 0x205, true, .none, false, false, false, [.d, .a, .b]⟩,
  ⟨"VFABS", 0x206, true, .none, false, false, false, [.d, .a]⟩,
  ⟨"VFNEG", 0x207, true, .none, false, false, false, [.d, .a]⟩,
  ⟨"VFRCP", 0x208, true, .none, false, false, false, [.d, .a]⟩,
  ⟨"VFRSQ", 0x209, true, .none, false, false, false, [.d, .a]⟩,
  ⟨"VFEXP2", 0x20A, true, .none, false, false, false, [.d, .a]⟩,
  ⟨"VFLOG2", 0x20B, true, .none, false, false, false, [.d, .a]⟩,
  ⟨"VFCMP", 0x20C, true, .fcond, false, false, false, [.d, .a, .b]⟩,
  ⟨"VFRADD", 0x20D, true, .none, false, false, false, [.d, .a]⟩,
  ⟨"VFRMAX", 0x20E, true, .none, false, false, false, [.d, .a]⟩,
  ⟨"VCVTFI", 0x20F, true, .none, false, false, false, [.d, .a]⟩,
  ⟨"VCVTIF", 0x210, true, .none, false, false, false, [.d, .a]⟩,
  ⟨"VCVTFB", 0x211, true, .none, false, false, true, [.d, .a]⟩,
  ⟨"VCVTFBS", 0x212, true, .none, false, false, true, [.d, .a]⟩,
  ⟨"VCVTFH", 0x213, true, .none, false, false, true, [.d, .a]⟩]
/-- Class 0x8, the others. -/
def asmVectorFloatB : List InsnRow := [
  ⟨"VCVTE4S", 0x214, true, .none, false, false, true, [.d, .a]⟩,
  ⟨"VCVTE4O", 0x215, true, .none, false, false, true, [.d, .a]⟩,
  ⟨"VCVTE5S", 0x216, true, .none, false, false, true, [.d, .a]⟩,
  ⟨"VCVTE5O", 0x217, true, .none, false, false, true, [.d, .a]⟩,
  ⟨"VCVTF4S", 0x218, true, .none, false, false, true, [.d, .a]⟩,
  ⟨"VWIDF", 0x219, true, .none, false, false, true, [.d, .a]⟩,
  ⟨"VDECQ", 0x21A, true, .none, false, false, true, [.d, .a, .b]⟩,
  ⟨"VENCQ", 0x21B, true, .none, false, false, true, [.d, .a, .b]⟩,
  ⟨"LWADD", 0x21C, true, .none, false, false, false, [.d, .a, .b]⟩,
  ⟨"LRND", 0x21D, true, .none, false, false, false, [.d, .a]⟩,
  ⟨"LCLR", 0x21E, false, .none, false, false, false, [.a]⟩]
/-- Class 0x9. -/
def asmStream : List InsnRow := [
  ⟨"VLD", 0x240, true, .none, false, false, false, [.d, .addr]⟩,
  ⟨"VLD2", 0x241, true, .none, false, false, true, [.d, .addr]⟩,
  ⟨"VST", 0x242, true, .none, false, false, false, [.addr, .d]⟩,
  ⟨"VLDS", 0x243, true, .none, false, false, false, [.d, .a, .b]⟩,
  ⟨"VSTS", 0x244, true, .none, false, false, false, [.a, .b, .d]⟩,
  ⟨"VGATH", 0x245, true, .none, false, false, false, [.d, .a, .b]⟩,
  ⟨"VSCAT", 0x246, true, .none, false, false, false, [.a, .b, .d]⟩,
  ⟨"VLDB", 0x247, true, .none, false, false, false, [.d, .addr]⟩,
  ⟨"RADVC", 0x248, false, .none, false, false, false, [.a]⟩,
  ⟨"RADVP", 0x249, false, .none, false, false, false, [.a]⟩,
  ⟨"RSTAT", 0x24A, false, .none, false, false, false, [.d, .a]⟩,
  ⟨"SEND", 0x24B, false, .none, true, true, false, [.d, .a]⟩,
  ⟨"SENDL", 0x24C, false, .none, true, true, false, [.d, .a, .b]⟩,
  ⟨"VSRED", 0x24D, true, .none, false, false, false, [.d, .a]⟩,
  ⟨"VSMAC", 0x24E, true, .none, false, false, false, [.d, .a, .b]⟩,
  ⟨"VSMOV", 0x24F, false, .none, false, false, false, [.d, .a]⟩,
  ⟨"CHEND", 0x250, false, .none, false, false, false, [.a]⟩]
/-- Class 0xA. -/
def asmMatrix : List InsnRow := [
  ⟨"MLDA", 0x280, true, .type, false, false, false, [.a]⟩,
  ⟨"MGANG", 0x281, true, .type, false, false, true, [.d, .a, .b]⟩,
  ⟨"MMA", 0x282, true, .type, false, false, true, [.d, .a, .b]⟩,
  ⟨"MZERO", 0x283, false, .none, false, false, true, [.d]⟩,
  ⟨"MSTF", 0x284, false, .none, false, false, true, [.d, .a]⟩,
  ⟨"MSTQ", 0x285, false, .none, false, false, true, [.d, .a, .b]⟩,
  ⟨"MSTB", 0x286, false, .none, false, false, true, [.d, .a]⟩,
  ⟨"MLDC", 0x287, false, .none, false, false, true, [.d, .a]⟩,
  ⟨"MWAIT", 0x288, false, .none, false, false, false, []⟩,
  ⟨"MSTAT", 0x289, false, .none, false, false, false, [.d]⟩]
/-- Class 0xB. -/
def asmCopy : List InsnRow := [
  ⟨"CPY", 0x2C0, false, .none, false, true, false, [.d, .a, .b]⟩,
  ⟨"CPY2", 0x2C1, false, .none, false, true, false, [.d, .a, .b]⟩,
  ⟨"CPYG", 0x2C2, false, .none, false, true, false, [.d, .a, .b]⟩,
  ⟨"CPYZ", 0x2C3, false, .none, false, true, false, [.d, .b]⟩,
  ⟨"CPYB", 0x2C4, false, .none, false, true, false, [.d, .a, .b]⟩,
  ⟨"CWAIT", 0x2C5, false, .none, false, false, false, [.b]⟩,
  ⟨"CSTAT", 0x2C6, false, .none, false, false, false, [.d, .b]⟩,
  ⟨"CCANCEL", 0x2C7, false, .none, false, false, false, [.d, .b]⟩]
/-- Class 0xC. -/
def asmRake : List InsnRow := [
  ⟨"RKDECL", 0x300, false, .none, false, false, true, [.a]⟩,
  ⟨"RKSWEEP", 0x301, false, .none, false, false, true, []⟩,
  ⟨"RKWAKE", 0x302, false, .none, false, false, true, [.a, .b]⟩,
  ⟨"RKNEXT", 0x303, false, .none, false, false, false, []⟩,
  ⟨"RKWAIT", 0x304, false, .none, false, false, true, []⟩,
  ⟨"RKSTAT", 0x305, false, .none, false, false, true, [.d]⟩]
/-- Class 0xD. -/
def asmWork : List InsnRow := [
  ⟨"SPAWN", 0x340, false, .none, false, false, false, [.d, .a, .b]⟩,
  ⟨"LAUNCH", 0x341, false, .none, false, false, false, [.d, .a]⟩,
  ⟨"GLAUNCH", 0x342, false, .none, false, false, false, [.d, .a, .b]⟩,
  ⟨"CANCEL", 0x343, false, .level, false, false, false, [.d, .a]⟩,
  ⟨"BIND", 0x344, false, .none, false, false, false, [.d, .a, .b]⟩,
  ⟨"UNBIND", 0x345, false, .none, false, false, false, [.d, .b]⟩,
  ⟨"COMPL", 0x346, false, .level, false, false, false, [.d, .a]⟩,
  ⟨"KINDLE", 0x347, false, .wake, false, true, false, [.d, .a, .b]⟩,
  ⟨"MIGRATE", 0x348, false, .none, false, false, false, [.d, .a]⟩,
  ⟨"TKCMT", 0x349, false, .none, false, false, true, [.d, .a, .b]⟩,
  ⟨"TKWSET", 0x34A, false, .none, false, false, true, [.d, .a, .b]⟩,
  ⟨"TKWCLR", 0x34B, false, .none, false, false, true, [.d, .a]⟩,
  ⟨"NOTIFY", 0x34C, false, .none, false, false, false, [.a, .b]⟩,
  ⟨"IDLE", 0x34D, false, .none, false, false, false, []⟩]
/-- Class 0xE. -/
def asmSystem : List InsnRow := [
  ⟨"SRD", 0x380, false, .none, false, false, false, [.d, .a]⟩,
  ⟨"SWR", 0x381, false, .none, false, false, false, [.d, .a]⟩,
  ⟨"TLBINV", 0x382, false, .inv, false, false, false, [.a, .b]⟩,
  ⟨"SEED", 0x383, false, .none, false, false, false, [.a]⟩,
  ⟨"RAND", 0x384, false, .none, false, false, false, [.d]⟩,
  ⟨"LTURN", 0x385, false, .none, false, false, false, [.d, .a, .b]⟩,
  ⟨"PWRREQ", 0x386, false, .none, false, false, false, [.d, .a]⟩,
  ⟨"RAILSEL", 0x387, false, .none, false, false, false, [.d, .a, .b]⟩,
  ⟨"TRMARK", 0x388, false, .none, false, false, false, [.a]⟩,
  ⟨"BKPT", 0x389, false, .none, false, false, false, [.a]⟩,
  ⟨"ERET", 0x38A, false, .none, false, false, false, []⟩,
  ⟨"PINSET", 0x38B, false, .none, false, false, true, [.d, .a]⟩,
  ⟨"DLYRD", 0x38C, false, .none, false, false, false, [.d, .a]⟩,
  ⟨"DLYCLR", 0x38D, false, .none, false, false, false, [.a]⟩,
  ⟨"MCRD", 0x38E, false, .none, false, false, false, [.d, .a]⟩,
  ⟨"HALT", 0x38F, false, .none, false, false, false, []⟩,
  ⟨"CSYNC", 0x390, false, .none, false, false, false, []⟩]
/-- Every mnemonic that kelasm accepts: ILLEGAL is none. -/
def asmRows : List InsnRow :=
  asmControl ++ asmIntegerA ++ asmIntegerB ++ asmMultiply ++ asmPredicate ++ asmFloat ++ asmMemory ++ asmAtomic
  ++ asmVectorA ++ asmVectorB ++ asmVectorFloatA ++ asmVectorFloatB ++ asmStream ++ asmMatrix ++ asmCopy ++
  asmRake ++ asmWork ++ asmSystem

end Sys2Proof.Machine
end

