-- ==== Sys2Proof/Machine/AsmInsn.lean ====
section
/-!
DEFINITION. Sys2Proof/Machine/AsmInsn.lean: one instruction line of kelasm (spec/09 R166, R167, R170, R171, R176 to R181): its word, and the
relocations it leaves for kelink.
-/
namespace Sys2Proof.Machine

/-- A relocation as kelasm notes it (R346), with the base of its value instead of a symbol index. -/
structure Reloc where
  off : Nat
  kind : Nat
  width : Nat
  lo : Nat
  base : Base
  addend : Int
deriving DecidableEq, Repr

/-! ### Registers, handles and special registers (R62, R166) -/

/-- The special registers by their names (R62). -/
def sregNames : List (String × SReg) := [
  ("CORE", .core), ("RANK", .rank), ("CLUS", .clus), ("DIE", .die), ("ISLAND", .island), ("CTXID", .ctxid), ("ACTID", .actid), ("ENTRY", .entry),
  ("ARG", .arg), ("MSGTAG", .msgtag), ("MSGSRC", .msgsrc), ("MSGLEN", .msglen), ("LAUNCH", .launch), ("STEPNO", .stepno), ("WSTACK", .wstack),
  ("WSPILL", .wspill), ("LINK", .link), ("TRAPCAUSE", .trapcause), ("TRAPPC", .trappc), ("TRAPINFO", .trapinfo), ("CYCLE", .cycle),
  ("VFSTATE", .vfstate), ("STALLBANK", .stallbank), ("STALLENG", .stalleng), ("CAPS", .caps), ("MSIMG", .msimg)]
/-- A special register's operand. -/
def sregOperand (t : Text) : Option (BitVec 18) :=
  (sregNames.find? fun p => isWord (upper t) p.1).map fun p => mkOp 0xA (BitVec.ofNat 14 p.2.num)
/-- A register or handle without offset or count, in capitals. -/
def registerOperand (t : Text) : Option (BitVec 18) :=
  let below := fun (kind : BitVec 4) (n : Nat) (r : Text) (more : Nat) => match plainNumber r with
    | some x => if x < n then some (mkOp kind (BitVec.ofNat 14 (x + more))) else none
    | none => none
  match upper t with
  | 'P' :: 'W' :: r => below 0x7 8 r 0
  | 'W' :: r => below 0x1 24 r 0
  | 'G' :: r => below 0x2 8 r 0
  | 'V' :: r => below 0x3 32 r 0
  | 'P' :: r => below 0x4 8 r 0
  | 'Q' :: r => below 0x5 16 r 16
  | 'N' :: r => below 0x6 8 r 0
  | _ => none
/-- Whether a name is taken by a register, a handle or a special register, so that no label may bear it (R177). -/
def reservedName (t : Text) : Bool := (registerOperand t).isSome || (sregOperand t).isSome
/-- A ring handle qR:k+o; k stands for 1 and o for 0 where it is not written (R178), and k is written as itself (R181). -/
def ringOperand (t : Text) : Option (BitVec 18) :=
  match t with
  | 'q' :: r | 'Q' :: r => do
    let ring ← plainNumber (r.takeWhile Char.isDigit)
    let (k, r1) ← match r.dropWhile Char.isDigit with
      | ':' :: u => takeNumber u
      | u => some (1, u)
    let (o, r2) ← match r1 with
      | '+' :: u => takeNumber u
      | u => some (0, u)
    if ring < 16 ∧ 1 ≤ k ∧ k ≤ 63 ∧ o < 16 ∧ r2 = [] then some (mkOp 0x5 (BitVec.ofNat 14 (ring + 2 ^ 4 * k + 2 ^ 10 * o))) else none
  | _ => none
/-- A ring handle as a disassembler prints it: a slot-count field of 0 as 1, since both decode alike (R181). -/
def ringText (x : BitVec 14) : Text :=
  let k := field x.toNat 4 6
  'q' :: (Nat.repr (field x.toNat 0 4)).toList ++ ':' :: (Nat.repr (if k = 0 then 1 else k)).toList ++ '+' :: (Nat.repr (field x.toNat 10 4)).toList
/-- A parameter window operand pwN+offset: the offset is a multiple of 8 (R178). -/
def windowOperand (env : AsmEnv) (t : Text) : Asm (BitVec 18) :=
  match takeName t with
  | some (n, r) =>
    match registerOperand n, skipBlanks r with
    | some x, '+' :: u => do
      let o ← numberIn env 0 16376 u
      if opKind x = 7 ∧ o % 8 = 0 then .ok (x ||| BitVec.ofNat 18 o) else .error .operand
    | _, _ => .error .operand
  | none => .error .operand

/-! ### Operands (R166, R167, R178, R179) -/

/-- An operand as written: its 18 bits, a long immediate, or a relocatable immediate. -/
inductive Operand where
  | bits (x : BitVec 18)
  | long (x : Int)
  | reloc (v : Val)
deriving DecidableEq, Repr

/-- An immediate of a value: short where it fits, else long where that is allowed. -/
def immediateOf (longOk : Bool) (v : Val) : Asm Operand :=
  if v.base.isSome then .ok (.reloc v)
  else if -8192 ≤ v.off ∧ v.off ≤ 8191 then .ok (.bits (mkOp 0x8 (BitVec.ofInt 14 v.off)))
  else if longOk = true ∧ -(2 ^ 33) ≤ v.off ∧ v.off < 2 ^ 33 then .ok (.long v.off)
  else .error .operand
/-- A written operand. -/
def operandOf (env : AsmEnv) (longOk : Bool) (t : Text) : Asm Operand :=
  match t with
  | '#' :: r => do immediateOf longOk (← valueOf env r)
  | _ =>
    match ((registerOperand t).or (sregOperand t)).or (ringOperand t) with
    | some x => .ok (.bits x)
    | none => (windowOperand env t).map .bits
/-- The displacement of an address: what follows the base register. -/
def displacementOf (env : AsmEnv) (t : Text) : Asm Operand :=
  match t with
  | [] => .ok (.bits (mkOp 0x8 0))
  | '+' :: r =>
    match registerOperand (trim r) with
    | some x => .ok (.bits x)
    | none => do immediateOf false (← valueOf env r)
  | '-' :: _ => do immediateOf false (← valueOf env ('0' :: t))
  | _ => .error .form
/-- An address in brackets: operands A and B. -/
def addressOf (env : AsmEnv) (t : Text) : Asm (Operand × Operand) :=
  match t.reverse with
  | ']' :: r =>
    match takeName (skipBlanks (r.reverse.drop 1)) with
    | some (n, u) =>
      match registerOperand n with
      | some x => (displacementOf env (trim u)).map fun b => (.bits x, b)
      | none => .error .operand
    | none => .error .form
  | _ => .error .form

/-! ### Suffixes (R97, R171, R177) -/

/-- The element types by their codes. -/
def typeNames : List String := ["I8", "N8", "I16", "N16", "I32", "N32", "I64", "N64", "F32", "B16", "H16", "E4", "E5", "F4", "B4", "B8"]
/-- Where a word stands in a list of names. -/
def nameIndex (l : List String) (t : Text) : Option Nat := l.findIdx? fun n => isWord t n
/-- The SUB names of an entry, with the code of the first. -/
def subNames : SubNames → List String × Nat
  | .none => ([], 0)
  | .cond => (["EQ", "NE", "LT", "LE", "GT", "GE"], 0)
  | .fcond => (["EQ", "NE", "LT", "LE", "UN", "OR"], 0)
  | .type => (typeNames, 0)
  | .pred => (["P0", "P1", "P2", "P3", "P4", "P5", "P6", "P7"], 0)
  | .count => (["POP", "CLZ", "CTZ"], 0)
  | .level => (["UNIT", "LNCH", "GRAPH", "PHASE", "JOB"], 0)
  | .wake => (["IDLE", "SMRD", "COLD"], 1)
  | .inv => (["PAGE", "CTX", "ALL"], 0)
/-- The next suffix, where the entry uses the subfield: its value, and the suffixes after it. -/
def takeSuffix (uses : Bool) (f : Text → Option Nat) (l : List Text) : Asm (Nat × List Text) :=
  if uses then
    match l with
    | x :: r => match f x with | some n => .ok (n, r) | none => .error .suffix
    | [] => .error .suffix
  else .ok (0, l)
/-- The subfields of M, and whether a TYPE was written. -/
structure Suffixes where
  ty : Option Nat
  sub : Nat
  ord : Nat
  scope : Nat
  count : Nat
deriving DecidableEq, Repr
/-- The suffixes of a line: with a long immediate TYPE may be omitted. -/
def suffixesOf (row : InsnRow) (long : Bool) (l : List Text) : Asm Suffixes := do
  let omitted := long && !(l.head?.any fun x => (nameIndex typeNames x).isSome)
  let (ty, l1) ← takeSuffix (row.ty && !omitted) (nameIndex typeNames) l
  let (sub, l2) ← takeSuffix (row.sub != .none) (fun t => (nameIndex (subNames row.sub).1 t).map fun n => n + (subNames row.sub).2) l1
  let (ord, l3) ← takeSuffix row.ord (nameIndex ["RLX", "ACQ", "REL", "AR"]) l2
  let (scope, l4) ← takeSuffix row.scope (nameIndex ["CORE", "CLUS", "DIE", "PKG", "SYS"]) l3
  let (count, l5) ← takeSuffix row.count (fun t => (plainNumber t).bind fun n => if n < 64 then some n else none) l4
  if l5 = [] then .ok ⟨if row.ty && !omitted then some ty else none, sub, ord, scope, count⟩ else .error .suffix

/-! ### The parts of a line (R176) -/

/-- An instruction line in its parts: guard, mnemonic with suffixes, operands, hint. -/
structure InsnLine where
  gn : Bool
  gp : Nat
  mnemonic : List Text
  operands : List Text
  hint : Nat
deriving DecidableEq, Repr

/-- A guard prefix, and the rest. -/
def takeGuard (t : Text) : Asm (Bool × Nat × Text) :=
  match t with
  | '(' :: r =>
    let u := skipBlanks r
    let (neg, v) := match u with
      | '!' :: w => (true, skipBlanks w)
      | _ => (false, u)
    match takeName v with
    | some (n, w) =>
      match (registerOperand n).map (fun x => (opKind x, (opPay x).toNat)), skipBlanks w with
      | some (4, k), ')' :: x => .ok (neg, k, skipBlanks x)
      | _, _ => .error .form
    | none => .error .form
  | _ => .ok (false, 0, t)
/-- A text before a trailing `hint:`, and what follows it; `gap` says that a blank stands before. -/
def cutHint : Text → Bool → Text × Option Text
  | [], _ => ([], none)
  | c :: r, gap =>
    match (if gap then after "hint:".toList (c :: r) else none) with
    | some v => ([], some v)
    | none =>
      let (x, h) := cutHint r (isBlank c)
      (c :: x, h)
/-- Words separated by full stops: the word under way is held reversed. -/
def splitDots : Text → Text → List Text
  | [], acc => [acc.reverse]
  | '.' :: r, acc => acc.reverse :: splitDots r []
  | c :: r, acc => splitDots r (c :: acc)
/-- The parts of an instruction line without label and comment. -/
def insnLineOf (env : AsmEnv) (t : Text) : Asm InsnLine := do
  let (gn, gp, r) ← takeGuard t
  let (body, h) := cutHint r false
  let hint ← match h with
    | some v => numberIn env 0 255 v
    | none => .ok 0
  let word := body.takeWhile fun c => isNameChar c || c == '.'
  let rest := body.dropWhile fun c => isNameChar c || c == '.'
  insist (rest.head?.all isBlank) .form
  .ok ⟨gn, gp, splitDots (upper word) [], operandsOf rest, hint⟩

/-! ### Targets (R172, R180) -/

/-- A written target: an offset in instructions, or what kelink resolves. -/
inductive Target where
  | insns (k : Int)
  | reloc (v : Val)
deriving DecidableEq, Repr

/-- Bytes from the instruction at `here` to a byte of the same section, in instructions. -/
def insnsTo (here : Nat) (x : Int) : Asm Target :=
  if (x - here) % 12 = 0 then .ok (.insns ((x - here) / 12)) else .error .target
/-- A target: `.` and what is added to it counts instructions (R180, R332); a label of the same section is resolved, any other is left to
kelink. -/
def targetOf (env : AsmEnv) (sect : Text) (here : Nat) (t : Text) : Asm Target := do
  let v ← valueOf { env with dot := .ok ⟨some (.sym ['.']), 0⟩ } t
  match v.base with
  | none => .error .target
  | some (.sect n) => if n = sect then insnsTo here v.off else .ok (.reloc v)
  | some (.sym n) =>
    if n = ['.'] then .ok (.insns v.off)
    else
      match env.place n with
      | some (q, o) => if q = sect then insnsTo here (o + v.off) else .ok (.reloc v)
      | none => .ok (.reloc v)

/-! ### The word (R163, R181) -/

/-- The operands of a line, filled in one by one. -/
structure Draft where
  d : BitVec 18
  a : BitVec 18
  b : BitVec 18
  long : Option Int
  target : Option Target
  relocs : List Reloc
deriving DecidableEq, Repr

/-- Whether B of an opcode may be a long immediate (R167). -/
def longAllowed (op : Nat) : Bool := [0x056, 0x040, 0x04A, 0x04B, 0x04C, 0x0C0].contains op
/-- An operand put into a field. -/
def putOperand (here : Nat) (longOk : Bool) (x : Draft) (s : Slot) (o : Operand) : Draft :=
  let put := fun (x : Draft) (v : BitVec 18) => match s with
    | .d => { x with d := v }
    | .a => { x with a := v }
    | .b => { x with b := v }
    | .addr => x
    | .target => x
  match o with
  | .bits v => put x v
  | .long v => { x with b := mkOp 0x9 (BitVec.ofInt 14 (v / 2 ^ 20)), long := some v }
  | .reloc v =>
    let base := v.base.getD (.sym [])
    if longOk ∧ s = .b then
      { x with b := mkOp 0x9 0, long := some 0, relocs := x.relocs ++ [⟨here, 5, 34, 0, base, v.off⟩] }
    else
      let lo := match s with | .d => 56 | .a => 38 | .b => 20 | .addr => 20 | .target => 0
      { put x (mkOp 0x8 0) with relocs := x.relocs ++ [⟨here, 4, 14, lo, base, v.off⟩] }
/-- The written operands put into the fields of their positions; operands left out at the end are none (R166). -/
def fillOperands (env : AsmEnv) (sect : Text) (here : Nat) (longOk : Bool) : List Slot → List Text → Draft → Asm Draft
  | [], [], x => .ok x
  | [], _ :: _, _ => .error .operand
  | .target :: _, [], _ => .error .operand
  | _ :: l, [], x => fillOperands env sect here longOk l [] x
  | .target :: l, t :: r, x => do
    let k ← targetOf env sect here t
    fillOperands env sect here longOk l r { x with target := some k }
  | .addr :: l, t :: r, x =>
    if t.head? = some '[' then do
      let (a, b) ← addressOf env t
      fillOperands env sect here longOk l r (putOperand here false (putOperand here false x .a a) .b b)
    else
      match r with
      | u :: r2 => do
        let a ← operandOf env false t
        let b ← operandOf env false u
        fillOperands env sect here longOk l r2 (putOperand here false (putOperand here false x .a a) .b b)
      | [] => .error .operand
  | s :: l, t :: r, x => do
    let o ← operandOf env (longOk && s == .b) t
    fillOperands env sect here longOk l r (putOperand here (longOk && s == .b) x s o)
/-- M and D with the suffixes: with a long immediate M holds its low bits, and ICMP's condition stands in D (R167). -/
def modifierOf (row : InsnRow) (x : Draft) (u : Suffixes) : Asm (BitVec 20 × BitVec 18) :=
  match x.long with
  | some v =>
    let n64 := row.op = 0x0C0 ∧ u.ty = some 7
    if u.ty = none ∨ u.ty = some 6 ∨ n64 then
      .ok (BitVec.ofInt 20 v, if row.op = 0x0C0 then x.d ||| BitVec.ofNat 18 (u.sub * 2 ^ 11 + if n64 then 2 ^ 10 else 0) else x.d)
    else .error .suffix
  | none => .ok (BitVec.ofNat 20 (u.ty.getD 0 * 2 ^ 16 + u.sub * 2 ^ 12 + u.ord * 2 ^ 9 + u.scope * 2 ^ 6 + u.count), x.d)
/-- The offset in M: a target left to kelink stands as 0, with its relocation. -/
def offsetOf (here : Nat) : Target → Asm (BitVec 20 × List Reloc)
  | .insns k => if -(2 ^ 19) ≤ k ∧ k < 2 ^ 19 then .ok (BitVec.ofInt 20 k, []) else .error .target
  | .reloc v => .ok (0, [⟨here, 3, 0, 0, v.base.getD (.sym []), v.off⟩])
/-- A word must decode (R173): an offset that kelink is to write is taken as 2. -/
def checkWord (f : Fields) (open_ : Bool) : Asm Unit :=
  match decodeWord (wordOf (if open_ then { f with m := 2 } else f)) with
  | .ok _ => .ok ()
  | .error .insn => .error .suffix
  | .error .operand => .error .operand
/-- An instruction line assembled at an offset of a section: its word and its relocations. -/
def assembleInsn (env : AsmEnv) (sect : Text) (here : Nat) (t : Text) : Asm (BitVec 96 × List Reloc) := do
  let l ← insnLineOf env t
  match asmRows.find? fun r => isWord (l.mnemonic.headD []) r.name with
  | none => .error .mnemonic
  | some row =>
    let longOk := longAllowed row.op
    let x ← fillOperands env sect here longOk row.ops l.operands ⟨0, 0, 0, none, none, []⟩
    let u ← suffixesOf row x.long.isSome (l.mnemonic.drop 1)
    let (m, d) ← modifierOf row x u
    let (m2, r2) ← match x.target with
      | some k => offsetOf here k
      | none => .ok (m, [])
    let f : Fields := { op := BitVec.ofNat 10 row.op, gn := if l.gn then 1 else 0, gp := BitVec.ofNat 3 l.gp, hint := BitVec.ofNat 8 l.hint,
                        d := d, a := x.a, b := x.b, m := m2 }
    checkWord f (r2 != [])
    .ok (wordOf f, x.relocs ++ r2)

end Sys2Proof.Machine
end

