-- ==== Sys2Proof/Safety.lean ====
section
/-!
DEFINITION. Sys2Proof/Safety.lean: what counts as a safe run of the device.
-/
namespace Sys2Proof

/-- A state is sound when its memory, and the flash beside it, are in canonical form. -/
def Sound (s : Machine.State) : Prop := Machine.Memory.wf s.mem = true ∧ Machine.Memory.wf s.flash = true

/-- Every core is listed once, under its own number. -/
def CoresNumbered (s : Machine.State) : Prop := (s.core.id :: s.rest.map Prod.fst).Nodup ∧ ∀ p ∈ s.rest, p.2.id = p.1

/-- n steps from a state all answer a next state. -/
def SafeRun (n : Nat) (s : Machine.State) : Prop := ∀ k ≤ n, ∃ t, core.run k s = .next t

end Sys2Proof
end

