-- ==== Sys2Proof/Certificates/Slice0/Obligations.lean ====
section
/-!
DEFINITION. Sys2Proof/Certificates/Slice0/Obligations.lean: the statements for the provers. The namespace Sys2Proof.Machine holds the
vocabulary they share (what an instruction changes, what it leaves alone) and the clauses of the longer ones; each obligation stands outside
it.
-/
open Sys2Proof Sys2Proof.Machine

/-! ### Vocabulary -/

namespace Sys2Proof.Machine

/-- An outcome is a next state of which something holds. -/
def Gives (o : Host.Outcome State Fault Refusal) (p : State → Prop) : Prop := ∃ t, o = .next t ∧ p t

/-- A scalar instruction executes: a user or a service task runs it, and bit 0 of its guard is true (R168). -/
def Runs (s : State) (h : Hdr) : Prop := s.core.bank ≠ .coal ∧ guardBit s h = true

/-- The PC that follows an instruction that does not branch (R163), at the end of a loop's body the body's start (R188). -/
def nextPc (c : Core) : Word :=
  if c.bank = .user ∧ c.loop.on = true ∧ c.pc + 12 = c.loop.stop ∧ c.loop.rem ≠ 1 then c.loop.start
  else c.pc + 12

/-- The loop state that follows (R188): at the end of the body the count falls by one, and the last iteration ends the loop. -/
def nextLoop (c : Core) : LoopState :=
  if c.bank = .user ∧ c.loop.on = true ∧ c.pc + 12 = c.loop.stop then
    (if c.loop.rem = 1 then { c.loop with rem := 0, on := false } else { c.loop with rem := c.loop.rem - 1 })
  else c.loop

/-- The PC and the loop state move on, and the rest of the device outside the focus core is as it was. -/
def Follows (s t : State) : Prop :=
  t = { s with core := t.core } ∧ t.core.pc = nextPc s.core ∧ t.core.loop = nextLoop s.core

/-- A core after an instruction that may write general registers: all else is as it was but for what moves with the PC. -/
def GeneralOnly (c c' : Core) : Prop :=
  (c.bank = .user → c' = { c with win := ⟨c'.win.w, c.win.link⟩, out := c'.out, g := c'.g, pc := c'.pc, srcPc := c.pc, blocked := none, early := [],
                                  loop := c'.loop, loopBuf := c'.loopBuf }) ∧
  (c.bank = .service → c' = { c with svc := { c.svc with w := c'.svc.w, g := c'.svc.g }, pc := c'.pc, srcPc := c.pc,
                                     blocked := none, early := [] }) ∧
  c.bank ≠ .coal

/-- An instruction that writes x to one general register and nothing else: g0 takes no value (R50), every other register of the
bank, every vector register and predicate, all of memory and every other register of the device are as they were. -/
def WroteReg (s t : State) (d : WG) (x : Word) : Prop :=
  Follows s t ∧ GeneralOnly s.core t.core ∧ ∀ r, readWG t r = if r = d ∧ d ≠ .g 0 then x else readWG s r

/-- An instruction that writes x to one predicate and nothing else: p0 takes no value (R50). -/
def WrotePred (s t : State) (d : P) (x : Word) : Prop :=
  Follows s t ∧
  (s.core.bank = .user → t.core = { s.core with p := t.core.p, pc := t.core.pc, srcPc := s.core.pc, blocked := none, early := [],
                                                loop := t.core.loop, loopBuf := t.core.loopBuf }) ∧
  (s.core.bank = .service → t.core = { s.core with svc := { s.core.svc with p := t.core.svc.p }, pc := t.core.pc,
                                                   srcPc := s.core.pc, blocked := none, early := [] }) ∧
  s.core.bank ≠ .coal ∧
  ∀ r, readP t r = if r = d ∧ d ≠ 0 then x else readP s r

/-- An instruction that changes nothing but what moves with the PC. -/
def WroteNothing (s t : State) : Prop :=
  Follows s t ∧ t.core = { s.core with pc := t.core.pc, srcPc := s.core.pc, blocked := none, early := [], loop := t.core.loop,
                                       loopBuf := t.core.loopBuf }

/-- A 64-bit value taken mod 2^w and extended by sign or with zeros, as a register holds a result of a TYPE (R182). -/
def atType (t : Ty) (x : Word) : Word :=
  if Ty.signed t then (x.setWidth (Ty.width t)).signExtend 64 else (x.setWidth (Ty.width t)).zeroExtend 64

/-- A jump to p from a task (R186, R188): to an address outside the body of the running loop it ends the loop. -/
def Jumps (s t : State) (p : Word) : Prop :=
  let l := s.core.loop
  let out := s.core.bank = .user ∧ l.on = true ∧ ¬ (l.start.toNat ≤ p.toNat ∧ p.toNat < l.stop.toNat)
  t.core.pc = p ∧ t.core.srcPc = s.core.pc ∧ t.core.blocked = none ∧ (out → t.core.loop = { l with on := false }) ∧
    (¬ out → t.core.loop = l)

/-- The other fields of the core and of the device after a jump. -/
def JumpedOnly (s t : State) : Prop :=
  t = { s with core := t.core } ∧
  t.core = { s.core with pc := t.core.pc, srcPc := t.core.srcPc, blocked := none, early := [], loop := t.core.loop, loopBuf := t.core.loopBuf }

/-! ### Class 0x1 and class 0x2: integer (spec/10) -/

end Sys2Proof.Machine

/-- IADD, ISUB, INEG, IMUL, IMAD, IAND, IOR, IXOR, IANDN, IMOV and ISEL (R195, R197, R198): the result is exact mod 2^w and extended by
the TYPE; the register named D is the one thing written. -/
def Obligations.IntegerResultsWrapAtTheirType : Prop :=
  ∀ (s : State) (h : Hdr) (t : Ty) (pk : P) (d a : WG) (b : WGI) (bl : WGIL), t ∈ tyAll → Runs s h →
    Gives (exec (.iadd h t d a bl) s) (WroteReg s · d (atType t (readWG s a + readWGIL s bl))) ∧
    Gives (exec (.isub h t d a b) s) (WroteReg s · d (atType t (readWG s a - readWGI s b))) ∧
    Gives (exec (.ineg h t d a) s) (WroteReg s · d (atType t (-(readWG s a)))) ∧
    Gives (exec (.imul h t d a b) s) (WroteReg s · d (atType t (readWG s a * readWGI s b))) ∧
    Gives (exec (.imad h t d a b) s) (WroteReg s · d (atType t (readWG s d + readWG s a * readWGI s b))) ∧
    Gives (exec (.iand h t d a bl) s) (WroteReg s · d (atType t (readWG s a &&& readWGIL s bl))) ∧
    Gives (exec (.ior h t d a bl) s) (WroteReg s · d (atType t (readWG s a ||| readWGIL s bl))) ∧
    Gives (exec (.ixor h t d a bl) s) (WroteReg s · d (atType t (readWG s a ^^^ readWGIL s bl))) ∧
    Gives (exec (.iandn h t d a b) s) (WroteReg s · d (atType t (readWG s a &&& ~~~(readWGI s b)))) ∧
    Gives (exec (.imov h t d bl) s) (WroteReg s · d (atType t (readWGIL s bl))) ∧
    Gives (exec (.isel h t pk d a b) s)
      (WroteReg s · d (atType t (if (readP s pk).getLsbD 0 then readWG s a else readWGI s b)))

/-- IADDS, ISUBS, IABS, IMIN, IMAX, IMINN, IMAXN, IMULH, IMULHN, IDIV, IDIVN, IREM and IREMN (R195, R198, R199) on the integers A and B
hold at the TYPE: saturation to the TYPE's range, floor(A × B / 2^w), the quotient towards zero and 0 for B = 0, the remainder with the
dividend's sign and A for B = 0. -/
def Obligations.IntegerOrderAndDivision : Prop :=
  ∀ (s : State) (h : Hdr) (t : Ty) (d a : WG) (b : WGI), t ∈ tyAll → Runs s h →
    let x := opInt t (readWG s a)
    let y := opInt t (readWGI s b)
    let sat := fun (z : Int) => max (tyMin t) (min (tyMax t) z)
    Gives (exec (.iadds h t d a b) s) (WroteReg s · d (extend t (sat (x + y)))) ∧
    Gives (exec (.isubs h t d a b) s) (WroteReg s · d (extend t (sat (x - y)))) ∧
    Gives (exec (.iabs h t d a) s) (WroteReg s · d (extend t (if 0 ≤ x then x else -x))) ∧
    Gives (exec (.imin h t d a b) s) (WroteReg s · d (extend t (if x ≤ y then x else y))) ∧
    Gives (exec (.imax h t d a b) s) (WroteReg s · d (extend t (if x ≤ y then y else x))) ∧
    Gives (exec (.iminn h t d a b) s) (WroteReg s · d (extend t (if x ≤ y then x else y))) ∧
    Gives (exec (.imaxn h t d a b) s) (WroteReg s · d (extend t (if x ≤ y then y else x))) ∧
    Gives (exec (.imulh h t d a b) s) (WroteReg s · d (extend t (Int.fdiv (x * y) (2 ^ Ty.width t)))) ∧
    Gives (exec (.imulhn h t d a b) s) (WroteReg s · d (extend t (Int.fdiv (x * y) (2 ^ Ty.width t)))) ∧
    (y ≠ 0 →
      Gives (exec (.idiv h t d a b) s) (WroteReg s · d (extend t (x.tdiv y))) ∧
      Gives (exec (.idivn h t d a b) s) (WroteReg s · d (extend t (x.tdiv y))) ∧
      Gives (exec (.irem h t d a b) s) (WroteReg s · d (extend t (x - y * x.tdiv y))) ∧
      Gives (exec (.iremn h t d a b) s) (WroteReg s · d (extend t (x - y * x.tdiv y)))) ∧
    (y = 0 →
      Gives (exec (.idiv h t d a b) s) (WroteReg s · d 0) ∧
      Gives (exec (.idivn h t d a b) s) (WroteReg s · d 0) ∧
      Gives (exec (.irem h t d a b) s) (WroteReg s · d (extend t x)) ∧
      Gives (exec (.iremn h t d a b) s) (WroteReg s · d (extend t x)))

/-- ISHL, ISHR, ISAR, IROT, IEXT, IEXTN, IINS, ICNT and ILEA (R195 to R198): the shift amount is the whole value of B, unsigned; a left or
logical right shift by w or more gives 0; bits of a field at 64 or above read 0. -/
def Obligations.ShiftsAndFields : Prop :=
  ∀ (s : State) (h : Hdr) (t : Ty) (k : CntKind) (len : BitVec 6) (d a : WG) (b : WGI), t ∈ tyAll → Runs s h →
    let x := readWG s a
    let n := (readWGI s b).toNat
    let w := Ty.width t
    let fld := BitVec.ofNat 64 (x.toNat / 2 ^ n % 2 ^ (len.toNat + 1))
    Gives (exec (.ishl h t d a b) s) (WroteReg s · d (if w ≤ n then 0 else atType t (x <<< n))) ∧
    (Ty.signed t = false →
      Gives (exec (.ishr h t d a b) s) (WroteReg s · d (if w ≤ n then 0 else (x.setWidth w >>> n).zeroExtend 64))) ∧
    (Ty.signed t = true →
      Gives (exec (.isar h t d a b) s) (WroteReg s · d (((x.setWidth w).sshiftRight n).signExtend 64))) ∧
    Gives (exec (.irot h t d a b) s) (WroteReg s · d (atType t (((x.setWidth w).rotateLeft (n % w)).zeroExtend 64))) ∧
    Gives (exec (.iext h len d a b) s) (WroteReg s · d ((fld.setWidth (len.toNat + 1)).signExtend 64)) ∧
    Gives (exec (.iextn h len d a b) s) (WroteReg s · d fld) ∧
    Gives (exec (.iins h len d a b) s) (fun u => ∃ y : Word, WroteReg s u d y ∧
      ∀ i < 64, y.getLsbD i = if n ≤ i ∧ i ≤ n + len.toNat then x.getLsbD (i - n) else (readWG s d).getLsbD i) ∧
    Gives (exec (.icnt h t k d a) s) (WroteReg s · d (BitVec.ofNat 64 (countBits k w x.toNat))) ∧
    Gives (exec (.ilea h len d a b) s) (WroteReg s · d (x + readWGI s b <<< len.toNat))

/-! ### Class 0x3 and class 0x4: predicates and scalar FP32 (spec/10) -/

/-- ICMP, FCMP, PAND, POR, PXOR, PNOT, PSET write one predicate, a comparison all ones or zero; PGET, PFIRST and PCNT write one register
(R54, R171, R201). -/
def Obligations.PredicateResults : Prop :=
  ∀ (s : State) (h : Hdr) (t : Ty) (c : Cond) (fc : FCond) (d x y : P) (r a : WG) (b : WGI) (bl : WGIL), Runs s h →
    let i := opInt t (readWG s a)
    let j := opInt t (readWGIL s bl)
    let holds : Prop := (match c with | .eq => i = j | .ne => i ≠ j | .lt => i < j | .le => i ≤ j | .gt => j < i | .ge => j ≤ i)
    (holds → Gives (exec (.icmp h t c d a bl) s) (WrotePred s · d (BitVec.allOnes 64))) ∧
    (¬ holds → Gives (exec (.icmp h t c d a bl) s) (WrotePred s · d 0)) ∧
    Gives (exec (.fcmp h fc d r a) s)
      (WrotePred s · d (boolWord (fcondHolds fc (fdecode .f32 (f32Of (readWG s r))) (fdecode .f32 (f32Of (readWG s a)))))) ∧
    Gives (exec (.pand h d x y) s) (WrotePred s · d (readP s x &&& readP s y)) ∧
    Gives (exec (.por h d x y) s) (WrotePred s · d (readP s x ||| readP s y)) ∧
    Gives (exec (.pxor h d x y) s) (WrotePred s · d (readP s x ^^^ readP s y)) ∧
    Gives (exec (.pnot h d x) s) (WrotePred s · d (~~~(readP s x))) ∧
    Gives (exec (.pset h d b) s) (WrotePred s · d (readWGI s b)) ∧
    Gives (exec (.pget h r x) s) (WroteReg s · r (readP s x)) ∧
    Gives (exec (.pfirst h r x) s) (fun u => ∃ n ≤ 64, WroteReg s u r (BitVec.ofNat 64 n) ∧
      (∀ m < n, (readP s x).getLsbD m = false) ∧ (n < 64 → (readP s x).getLsbD n = true)) ∧
    Gives (exec (.pcnt h r x) s) (fun u =>
      WroteReg s u r (BitVec.ofNat 64 ((List.range 64).countP fun n => (readP s x).getLsbD n)))

/-- FADD to FLOG2 (R202 to R205): each reads F32 patterns from bits [31:0], rounds its exact result once, and clears bits [63:32]; an
integer operand or result is at the TYPE, and a conversion to an integer saturates. -/
def Obligations.ScalarFloatResults : Prop :=
  ∀ (s : State) (h : Hdr) (t : Ty) (d a b : WG), Runs s h →
    let x := f32At s a
    let y := f32At s b
    let fx := fdecode .f32 x
    let one := FVal.fin false 1 0
    let put := fun (n : Nat) => BitVec.ofNat 64 (n % 2 ^ 32)
    let rnd := fround .f32 false
    Gives (exec (.fadd h d a b) s) (WroteReg s · d (put (addBits .f32 x y))) ∧
    Gives (exec (.fsub h d a b) s) (WroteReg s · d (put (subBits .f32 x y))) ∧
    Gives (exec (.fmul h d a b) s) (WroteReg s · d (put (mulBits .f32 x y))) ∧
    Gives (exec (.ffma h d a b) s) (WroteReg s · d (put (fmaBits .f32 x y (f32At s d)))) ∧
    Gives (exec (.fdiv h d a b) s) (WroteReg s · d (put (rnd (fdiv fx (fdecode .f32 y))))) ∧
    Gives (exec (.fsqrt h d a) s) (WroteReg s · d (put (rnd (fsqrt fx)))) ∧
    Gives (exec (.fmin h d a b) s) (WroteReg s · d (put (fminBits .f32 x y))) ∧
    Gives (exec (.fmax h d a b) s) (WroteReg s · d (put (fmaxBits .f32 x y))) ∧
    Gives (exec (.fabs h d a) s) (WroteReg s · d (put (fabsBits .f32 x))) ∧
    Gives (exec (.fneg h d a) s) (WroteReg s · d (put (fnegBits .f32 x))) ∧
    Gives (exec (.fcvtif h t d a) s) (WroteReg s · d (put (rnd (fofInt (opInt t (readWG s a)))))) ∧
    Gives (exec (.fcvtfi h t d a) s) (WroteReg s · d (extend t (ftoInt false (tyMin t) (tyMax t) fx))) ∧
    Gives (exec (.fcvtfiz h t d a) s) (WroteReg s · d (extend t (ftoInt true (tyMin t) (tyMax t) fx))) ∧
    Gives (exec (.frcp h d a) s) (WroteReg s · d (put (rnd (fdiv one fx)))) ∧
    Gives (exec (.fexp2 h d a) s) (WroteReg s · d (put (rnd (fexp2 fx)))) ∧
    Gives (exec (.flog2 h d a) s) (WroteReg s · d (put (rnd (flog2 fx))))

/-! ### Class 0x0: control (spec/10) -/

namespace Sys2Proof.Machine

/-- NOP, BR, BRZ, BRNZ, JMP (R184, R186, R188): the target is PC + 12 × M, or the register; a branch not taken moves on. -/
def BranchTargets : Prop :=
  ∀ (s : State) (h : Hdr) (off : BitVec 20) (a : WG), Runs s h →
    let goal := s.core.pc + 12 * off.signExtend 64
    Gives (exec (.nop h) s) (WroteNothing s) ∧
    Gives (exec (.br h off) s) (fun t => Jumps s t goal ∧ JumpedOnly s t) ∧
    (readWG s a = 0 → Gives (exec (.brz h off a) s) (fun t => Jumps s t goal ∧ JumpedOnly s t)) ∧
    (readWG s a ≠ 0 → Gives (exec (.brz h off a) s) (WroteNothing s)) ∧
    (readWG s a ≠ 0 → Gives (exec (.brnz h off a) s) (fun t => Jumps s t goal ∧ JumpedOnly s t)) ∧
    (readWG s a = 0 → Gives (exec (.brnz h off a) s) (WroteNothing s)) ∧
    Gives (exec (.jmp h a) s) (fun t => Jumps s t (readWG s a) ∧ JumpedOnly s t)

/-- BRDEC (R186): D falls by one, and the branch is taken when it is not zero then; with D = g0 the value is all ones (R50) and is
dropped. -/
def BrdecCountsDown : Prop :=
  ∀ (s : State) (h : Hdr) (off : BitVec 20) (d : WG), Runs s h →
    let v := readWG s d - 1
    (v = 0 → Gives (exec (.brdec h off d) s) (WroteReg s · d v)) ∧
    (v ≠ 0 → Gives (exec (.brdec h off d) s) fun t =>
      Jumps s t (s.core.pc + 12 * off.signExtend 64) ∧ (∀ r, readWG t r = if r = d ∧ d ≠ .g 0 then v else readWG s r) ∧
      GeneralOnly s.core t.core ∧ t = { s with core := t.core })

end Sys2Proof.Machine

/-- Branches (R184, R186, R188): each goes to its target or moves on; BRDEC counts its register down. -/
def Obligations.BranchesGoToTheirTarget : Prop := BranchTargets ∧ BrdecCountsDown

namespace Sys2Proof.Machine

/-- CALL, CALLR and RET with the window resident (R56, R187): the caller's w16 to w23 become the callee's w0 to w7, everything else of the
new window is zero, the link is the return address; RET gives the callee's w0 to w7 back as w16 to w23 and goes to the link. -/
def WindowTurns : Prop :=
  ∀ (s : State) (h : Hdr) (off : BitVec 20) (a : WG), Runs s h → s.core.bank = .user → s.core.loop.on = false →
    let calls := fun (goal : Word) (t : State) =>
      t = { s with core := t.core } ∧ t.core.pc = goal ∧ t.core.below = s.core.win :: s.core.below ∧
      t.core.win.link = (s.core.pc + 12).extractLsb' 0 56 ∧
      (∀ n : Fin 24, readWG t (.w n) = if h : n.val < 8 then readWG s (.w ⟨n.val + 16, by omega⟩) else 0) ∧
      t.core = { s.core with win := t.core.win, out := t.core.out, below := t.core.below, pc := goal, srcPc := s.core.pc,
                             blocked := none, early := [] }
    (s.core.below.length < 7 →
      Gives (exec (.call h off) s) (calls (s.core.pc + 12 * off.signExtend 64)) ∧
      Gives (exec (.callr h a) s) (calls (readWG s a))) ∧
    (∀ f r, s.core.below = f :: r → Gives (exec (.ret h) s) fun t =>
      t = { s with core := t.core } ∧ t.core.pc = s.core.win.link.zeroExtend 64 ∧ t.core.win = f ∧ t.core.below = r ∧
      (∀ n : Fin 8, readWG t (.w ⟨n.val + 16, by omega⟩) = readWG s (.w ⟨n.val, by omega⟩)) ∧
      t.core = { s.core with win := f, out := t.core.out, below := r, pc := t.core.pc, srcPc := s.core.pc, blocked := none, early := [] })

/-- The window traps (R57 to R60, R187): with eight windows in use CALL raises the spill trap, cause 1, with WSTACK as its information, to
be run again; with the caller's window spilled RET raises the fill trap, cause 2, with the address of the spilled window; nothing else
changes. A CALL that would pass the limit faults LM_ADDR. -/
def WindowTraps : Prop :=
  ∀ (s : State) (h : Hdr) (off : BitVec 20), Runs s h → s.core.bank = .user → s.core.loop.on = false →
    s.core.svcq.length < 4 →
    (7 ≤ s.core.below.length → s.core.wstack.toNat + 136 ≤ s.core.wlimit.toNat → (s.core.pins[1]).isSome →
      exec (.call h off) s = .next { s with core := { s.core with
        svcq := ⟨1, 0, s.core.wstack.zeroExtend 64, some s.core.pc, true⟩ :: s.core.svcq } }) ∧
    (7 ≤ s.core.below.length → s.core.wlimit.toNat < s.core.wstack.toNat + 136 →
      exec (.call h off) s = .next (raise s .scalar .lmAddr (s.core.wstack.zeroExtend 64))) ∧
    (s.core.below = [] → s.core.wdepth ≠ 0 → (s.core.pins[2]).isSome →
      exec (.ret h) s = .next { s with core := { s.core with
        svcq := ⟨2, 0, (s.core.wstack - 136).zeroExtend 64, some s.core.pc, true⟩ :: s.core.svcq } }) ∧
    (s.core.below = [] → s.core.wdepth = 0 → exec (.ret h) s = .next (raise s .scalar .illegalInsn s.core.pc))

end Sys2Proof.Machine

/-- The register window (R56 to R60, R187): calls and returns turn it, and raise the spill and the fill trap. -/
def Obligations.CallsTurnTheWindow : Prop := WindowTurns ∧ WindowTraps

/-- LOOP and LBRK (R188): a count of zero skips the body, any other starts it; LBRK leaves it at once. -/
def Obligations.LoopsStartAndBreak : Prop :=
  ∀ (s : State) (h : Hdr) (off : BitVec 20) (a : WGI), Runs s h → s.core.bank = .user →
    let stop := s.core.pc + 12 * off.signExtend 64
    let keeps := fun (t : State) => t = { s with core := t.core } ∧
      t.core = { s.core with pc := t.core.pc, srcPc := s.core.pc, blocked := none, early := [], loop := t.core.loop, loopBuf := t.core.loopBuf }
    (s.core.loop.on = false → readWGI s a = 0 → Gives (exec (.loop h off a) s) fun t =>
      keeps t ∧ t.core.pc = stop ∧ t.core.loop = s.core.loop) ∧
    (s.core.loop.on = false → readWGI s a ≠ 0 → Gives (exec (.loop h off a) s) fun t =>
      keeps t ∧ t.core.pc = s.core.pc + 12 ∧
      t.core.loop = ⟨s.core.pc + 12, stop, readWGI s a, true⟩) ∧
    (s.core.loop.on = true → Gives (exec (.lbrk h) s) fun t =>
      keeps t ∧ t.core.pc = s.core.loop.stop ∧ t.core.loop = { s.core.loop with on := false })

namespace Sys2Proof.Machine

/-- FORK (R34, R190): with the deque full D is 0 and nothing else changes; else the arm is pushed, COUNT of the join word rises by one, as
an acquire-release at CLUS scope, the launch counts one task more, and D is 1. -/
def ForkPushesItsArm : Prop :=
  ∀ (s : State) (h : Hdr) (off : BitVec 20) (d a : WG) (b : WGI) (key : Nat) (k : Task),
    Runs s h → s.core.bank = .user → s.core.task = some k → localTarget s (readWG s a) 16 16 = .ok key →
    (s.core.deque.length = 16 → Gives (exec (.fork h off d a b) s) (WroteReg s · d 0)) ∧
    (s.core.deque.length < 16 → (∀ l ∈ s.launches, l.count + 1 < 2 ^ 32) → Gives (exec (.fork h off d a b) s) fun t =>
      let m := (settleWord (release s s.core.id .clus) key 4).mem
      t.mem = memWrite m key 4 (BitVec.ofNat 32 (memRead m key 4) + 1).toNat ∧
      (∃ arm, t.core.deque = arm :: s.core.deque ∧ arm.entry = s.core.pc + 12 * off.signExtend 64 ∧
        arm.arg = readWGI s b ∧ arm.joinAddr = some (readWG s a) ∧ arm.ctx = k.info.ctx ∧ arm.lid = k.info.lid ∧
        arm.origin = 3 ∧ arm.sub = k.info.sub) ∧
      (∀ r, readWG t r = if r = d ∧ d ≠ .g 0 then 1 else readWG s r) ∧ t.core.pc = nextPc s.core ∧
      t.launches = s.launches.map fun l =>
        if l.ctx = k.info.ctx ∧ l.lid = k.info.lid then { l with count := l.count + 1 } else l)

/-- What the end of the running user task leaves (R22, R192, R301): its stores performed as a release at SYS, no task, no loop, and the
launch's completion counter one lower; the registers stay as they were. -/
def TaskEnded (s t : State) (k : Task) (after : List Host.Cell) : Prop :=
  t.core.task = none ∧ t.core.storeBuf = [] ∧ t.core.loop.on = false ∧ t.mem = after ∧
  t.core.lastEntry = k.info.entry.extractLsb' 0 56 ∧ t.core.lastAct = k.actid ∧ (∀ r, readWG t r = readWG s r) ∧
  t.launches = s.launches.map fun l =>
    if l.ctx = k.info.ctx ∧ l.lid = k.info.lid then { l with count := l.count - 1 } else l

/-- JOIN and END (R34, R191, R192): END ends the task; JOIN lowers COUNT, goes on at CONT where it reaches zero, and else ends the task.
(CONT ends a running loop by R188: log 33.) -/
def JoinAndEnd : Prop :=
  ∀ (s : State) (h : Hdr) (a : WG) (key : Nat) (k : Task),
    Sound s → Runs s h → s.core.bank = .user → s.core.task = some k → s.core.cutGoal = none →
    Gives (exec (.endTask h) s) (fun t => TaskEnded s t k (release s s.core.id .sys).mem) ∧
    (localTarget s (readWG s a) 16 16 = .ok key →
      let m := (settleWord (release s s.core.id .clus) key 16).mem
      let n := BitVec.ofNat 32 (memRead m key 4)
      (n = 1 → Gives (exec (.join h a) s) fun t =>
        t.mem = memWrite m key 4 0 ∧ t.core.pc = BitVec.ofNat 64 (memRead (memWrite m key 4 0) (key + 8) 7) ∧
        t.core.task = some k ∧ (∀ r, readWG t r = readWG s r)) ∧
      (n ≠ 1 → (∀ x ∈ s.core.l1, x.addr < 2 ^ 41) → Gives (exec (.join h a) s) fun t =>
        t.core.task = none ∧ (∀ r, readWG t r = readWG s r) ∧
        ∀ j ≥ 2 ^ 48, memGet t.mem j = memGet (if n = 0 then m else memWrite m key 4 (n - 1).toNat) j))

end Sys2Proof.Machine

/-- FORK, JOIN and END (R22, R34, R190 to R192). -/
def Obligations.ForksAndJoins : Prop := ForkPushesItsArm ∧ JoinAndEnd

/-- STEP and TRAP (R193, R194): STEP counts STEPNO and starts the watchdog again, and where a cut names the launch the task stops there;
TRAP moves on and raises trap 4 with A as its information and A's low 16 bits as TCODE. -/
def Obligations.StepAndTrap : Prop :=
  ∀ (s : State) (h : Hdr) (a : WGI) (k : Machine.Task), Runs s h → s.core.bank = .user → s.core.task = some k →
    (cutNames s k.info.ctx k.info.lid = false → Gives (exec (.step h) s) fun t =>
      Follows s t ∧ t.core.task = some { k with stepno := k.stepno + 1, wdog := 0 } ∧ t.core.cutAck = none ∧
      t.core = { s.core with task := t.core.task, cutAck := none, pc := t.core.pc, srcPc := s.core.pc, blocked := none, early := [],
                             loop := t.core.loop, loopBuf := t.core.loopBuf }) ∧
    (cutNames s k.info.ctx k.info.lid = true → s.core.cutGoal = none → Gives (exec (.step h) s) fun t =>
      Follows s t ∧ t.core.task = some { k with stepno := k.stepno + 1, wdog := 0 } ∧ t.core.cutAck = some (k.stepno + 1)) ∧
    ((s.core.pins[4]).isSome → s.core.svcq.length < 4 → Gives (exec (.trap h a) s) fun t =>
      Follows s t ∧
      t.core.svcq = ⟨4, (readWGI s a).extractLsb' 0 16, readWGI s a, some (s.core.pc + 12), true⟩ :: s.core.svcq ∧
      t.core = { s.core with svcq := t.core.svcq, pc := t.core.pc, srcPc := s.core.pc, blocked := none, early := [], loop := t.core.loop,
                             loopBuf := t.core.loopBuf })

/-! ### Faults, traps and privilege (spec/03, spec/09, spec/15) -/

namespace Sys2Proof.Machine

/-- No core has a store to perform, a dirty remote line, or an engine at work. -/
def Quiet (s : State) : Prop :=
  ∀ c ∈ allCores s, c.storeBuf = [] ∧ (∀ y ∈ c.l1, y.st ≠ .rd) ∧ c.mrun = none ∧ c.cq = [] ∧ c.flight = []

/-- A launch fault of the running user task taken (R48, R129, R160, R321 to R324): the launch is no longer listed, the task is gone, the
guilt count is one higher, and the fault queue holds the record or counts its drop. Where no store is left to perform and no engine is at work,
memory changes only in the record's slot and in the journal. -/
def FaultTaken (s t : State) (pc : Word) (u : UnitCode) (code : FCode) (addr : Word) : Prop :=
  ∀ k c l, s.core.task = some k → getCtx s k.info.ctx = some c → getLaunch s k.info.ctx k.info.lid = some l →
    let size := 2 ^ c.faultLsize.toNat
    let slot := c.faultBase.toNat + 64 * (c.faultWr.toNat % size)
    let full := size ≤ (c.faultWr - c.faultRd).toNat
    let journal := fun (j : Nat) => s.hub.journal.base.toNat ≤ j ∧ j < s.hub.journal.base.toNat + 32 * s.hub.journal.entries
    getLaunch t k.info.ctx k.info.lid = none ∧ t.core.task = none ∧
    (∃ c', getCtx t k.info.ctx = some c' ∧ c'.guilt = satAdd c.guilt 1 ∧
      (full → c'.faultWr = c.faultWr ∧ c'.faultDrop = satAdd c.faultDrop 1) ∧
      (¬ full → c'.faultWr = c.faultWr + 1 ∧ c'.faultDrop = c.faultDrop)) ∧
    (Quiet s →
      (∀ j, ¬ journal j → (full ∨ j < slot ∨ slot + 64 ≤ j) → memGet t.mem j = memGet s.mem j) ∧
      (¬ full → (∀ j, slot ≤ j → j < slot + 64 → ¬ journal j) →
        memRead t.mem slot 64 = (preciseRec s k pc code u addr).bits.toNat))

/-- A fault that the running user task raises is taken so, whatever its code but MACHINE_CHECK (R323). -/
def UserFaultEndsItsLaunch : Prop :=
  ∀ (s : State) (u : UnitCode) (code : FCode) (pc addr : Word),
    Sound s → s.core.bank = .user → code ≠ .machineCheck → FaultTaken s (raiseAt s pc u code addr) pc u code addr

/-- ILLEGAL faults with ILLEGAL_INSN at its own PC (R173, R184, R323). -/
def IllegalTakesItsFault : Prop :=
  ∀ (s : State) (r : BitVec 86), Sound s → s.core.bank = .user →
    Gives (exec (.illegal r) s) fun t => FaultTaken s t s.core.pc .scalar .illegalInsn s.core.pc

/-- A privileged instruction faults ILLEGAL_INSN in a user task that is not privileged, whatever its guard and its operands (R175). -/
def PrivilegedInstructionsAreRefusedToUsers : Prop :=
  ∀ (s : State) (h : Hdr) (d a b : WG) (x y : WGI) (inv : InvKind) (idx : BitVec 6) (r : SReg) (k : Task), Sound s →
    s.core.bank = .user → s.core.task = some k → k.privileged = false → SReg.isRP r = true →
    ∀ i ∈ [Instr.tlbinv h inv a b, .railsel h d x y, .pinset h idx d a, .eret h, .halt h, .mcrd h d x, .swr h r x],
      Gives (exec i s) fun t => FaultTaken s t s.core.pc .scalar .illegalInsn s.core.pc

end Sys2Proof.Machine

/-- A launch fault of a user task (R48, R129, R173, R175, R321 to R324): however it is raised, the launch ends and the record is queued. -/
def Obligations.FaultsEndTheirLaunch : Prop := UserFaultEndsItsLaunch ∧ IllegalTakesItsFault ∧ PrivilegedInstructionsAreRefusedToUsers

namespace Sys2Proof.Machine

/-- Whether an instruction names a v register. -/
def namesVector : Instr → Bool
  | .send _ _ _ _ a => a.isSome
  | .vadd .. | .vsub .. | .vadds .. | .vaddsn .. | .vsubs .. | .vmul .. | .vmulh .. | .vmulhr .. | .vmad .. | .vmacw .. | .vdot4 ..
  | .vmin .. | .vmax .. | .vminn .. | .vmaxn .. | .vabs .. | .vand .. | .vor .. | .vxor .. | .vshl .. | .vshr .. | .vsar .. | .vrshr ..
  | .vnars .. | .vnarn .. | .vwid .. | .vwidn .. | .vcmp .. | .vsel .. | .vsplat .. | .vperm .. | .vslide .. | .viota .. | .vredadd ..
  | .vredmax .. | .vredmin .. | .vmovs .. | .vclr .. | .vfadd .. | .vfsub .. | .vfmul .. | .vffma .. | .vfmin .. | .vfmax .. | .vfabs ..
  | .vfneg .. | .vfrcp .. | .vfrsq .. | .vfexp2 .. | .vflog2 .. | .vfcmp .. | .vfradd .. | .vfrmax .. | .vcvtfi .. | .vcvtif .. | .vcvtfb ..
  | .vcvtfbs .. | .vcvtfh .. | .vcvte4s .. | .vcvte4o .. | .vcvte5s .. | .vcvte5o .. | .vcvtf4s .. | .vwidf .. | .vdecq .. | .vencq ..
  | .vld .. | .vld2 .. | .vst .. | .vlds .. | .vsts .. | .vgath .. | .vscat .. | .vldb .. | .vsred .. | .vsmac .. | .vsmov .. | .tkcmt .. => true
  | _ => false

end Sys2Proof.Machine

/-- What a service task may not run is a machine check of its core (R27, R192, R194, R217, R282, R326): the core halts, and its block names
source 9 and ILLEGAL_INSN. The checks of R192 and R217 and those of an instruction that names a v register are made whatever the guard holds;
TRAP, BKPT and LBRK are found as they execute. -/
def Obligations.ServiceTasksAreCheckedByMachineCheck : Prop :=
  ∀ (s : State) (h : Hdr) (off : BitVec 20) (d a : WG) (b : WGI) (sc : Scope) (m : BitVec 14) (i : Instr), s.core.bank = .service →
    (namesVector i = true ∨
      i ∈ [Instr.call h off, .callr h a, .ret h, .loop h off b, .fork h off d a b, .join h a, .endTask h, .step h,
           .waita h sc b a b, .gbar h, .idle h, .rknext h] ∨
      guardBit s h = true ∧ i ∈ [Instr.trap h b, .bkpt h m, .lbrk h]) →
      Gives (exec i s) fun u =>
        u.core.halted = true ∧ u.core.bank = .user ∧ u.core.mcb.valid = true ∧ u.core.mcb.src = 9 ∧ u.core.mcb.fcode = 1 ∧
        u.core.mcb.maddr = s.core.pc

/-! ### Class 0x5 and class 0x6: loads, stores, atomics (spec/04, spec/10, spec/11, spec/13) -/

namespace Sys2Proof.Machine

/-- A byte that may change where a line leaves an L1 (R84, R145): one of a dirty remote line of the focus core, or of the MASK of a list record
that a directory names. -/
def MayLeave (s : State) (j : Nat) : Prop :=
  (∃ y ∈ s.core.l1, y.st = .rd ∧ y.addr = j / 128) ∨
  ∃ d e a, e ∈ dirOf s d ∧ e.st = 3 ∧ listKey s (homeCore s d e.line) e.list.toNat = some a ∧ a + 32 ≤ j ∧ j < a + 64

/-- What bringing at most n lines into the focus core's L1 leaves of the rest of the device (R80, R82, R84, R86): while no set can be full,
requests to the directories alone; else lines may leave, and no byte of memory changes but those that they write back. -/
def FilledOnly (s t : State) (n : Nat) : Prop :=
  t = { s with core := t.core, rest := t.rest, mem := t.mem, launches := t.launches, dirs := t.dirs, dirReqs := t.dirReqs, agenda := t.agenda,
               free := t.free } ∧
  (s.core.l1.length + n ≤ 16 → t = { s with core := t.core, launches := t.launches, dirReqs := t.dirReqs }) ∧
  (Memory.wf s.mem = true → ∀ j, memGet t.mem j = memGet s.mem j ∨ MayLeave s j)

/-- What an instruction that loads from the spots l leaves besides the register it writes, after the translations of its bytes gave s1: lines
filled in the L1, responses counted, the classifier's counts, and n commands more that its launch counts. -/
def LoadedOnly (s1 t : State) (l : List Spot) (n : Nat) : Prop :=
  FilledOnly s1 t (linesOf l).length ∧
  t.launches.map (fun l => { l with bytes := 0, ops := 0 }) =
    (countUp s1 (curCtx s1) (curLid s1) n).launches.map (fun l => { l with bytes := 0, ops := 0 }) ∧
  t.core = { s1.core with win := ⟨t.core.win.w, s1.core.win.link⟩, out := t.core.out, g := t.core.g, v := t.core.v, vq := t.core.vq,
                          svc := { s1.core.svc with w := t.core.svc.w, g := t.core.svc.g },
                          vecIssued := s1.core.vecIssued + n, l1 := t.core.l1, responses := t.core.responses, stallBank := t.core.stallBank, pc := nextPc s1.core,
                          srcPc := s1.core.pc, blocked := none, early := [], loop := nextLoop s1.core, loopBuf := t.core.loopBuf } ∧
  (s1.core.bank = .user → t.core.svc = s1.core.svc) ∧
  (s1.core.bank = .service → t.core.win = s1.core.win ∧ t.core.out = s1.core.out ∧ t.core.g = s1.core.g)

/-- What an instruction that stores leaves, after the translations of its bytes gave s1: one more entry at the end of the store buffer, and n
commands more that its launch counts. No byte of memory changes before the entry is performed. -/
def StoredOnly (s1 t : State) (p : PendStore) (n : Nat) : Prop :=
  t = { s1 with core := t.core, launches := t.launches } ∧
  t.launches.map (fun l => { l with bytes := 0, ops := 0 }) =
    (countUp s1 (curCtx s1) (curLid s1) n).launches.map (fun l => { l with bytes := 0, ops := 0 }) ∧
  t.core = { s1.core with storeBuf := s1.core.storeBuf ++ [p], vq := t.core.vq, vecIssued := s1.core.vecIssued + n, pc := nextPc s1.core,
                          srcPc := s1.core.pc,
                          blocked := none, early := [], loop := nextLoop s1.core, loopBuf := t.core.loopBuf }

/-- The byte that an access to the bytes l finds at one of them (R83, R295): the newest buffered store to it; a byte of its remote line, where
that line holds every byte that the access needs of it, or holds this one dirty; else the byte of memory, for what is fetched replaces all but
dirty bytes. -/
def fetchedByte (s : State) (l : List Spot) (x : Spot) : Byte :=
  match buffered s.core x.key with
  | some b => b
  | none =>
    match (if remoteKey s.core.id x.key ∧ x.hs = false then remoteLine s.core x.key else none) with
    | none => memGet s.mem x.key
    | some y =>
      let hit := l.all fun z => z.key / 128 != x.key / 128 || (buffered s.core z.key).isSome || y.valid.getLsbD (z.key % 128)
      if y.valid.getLsbD (x.key % 128) ∧ (hit = true ∨ y.dirty.getLsbD (x.key % 128) = true) then y.byte (x.key % 128)
      else memGet s.mem x.key

/-- The bytes l of an access as the core sees them in t, once the lines they lack have come in: while no set can be full, each is the byte that
the rules give, but for one of a misaligned load that was read before the others (R208). -/
def SeenIn (s1 t : State) (l : List Spot) (whole : Bool) : Prop :=
  s1.core.l1.length + (linesOf l).length ≤ 16 → ∀ x ∈ l, loadByte t.mem t.core whole x =
    match (if whole then none else assocGet s1.core.early x.key) with
    | some b => b
    | none => fetchedByte s1 l x

/-- LD and LDL (R83, R206, R207, R209): D takes the bytes at A + B, or at the local address A + B below 2^24, as the core sees them once the
lines they lack have come in, little-endian, extended by the TYPE; an F32 is extended with zeros; of a misaligned access some bytes may have
been read before (R208). No other register changes. -/
def LoadedBytes : Prop :=
  ∀ (s s1 : State) (h : Hdr) (t : Ty) (d a : WG) (b : WGI) (l : List Spot), t ∈ tyMem → Runs s h →
    let whole := decide ((readWG s a + readWGI s b).toNat % tyBytes t = 0)
    let v := touchLoad s1 l
    let seen := ofBytes (l.map (loadByte v.mem v.core whole))
    SeenIn s1 v l whole ∧
    let gives := fun (u : State) => LoadedOnly s1 u l 0 ∧ u.mem = v.mem ∧ u.core.v = s.core.v ∧ u.core.vq = s.core.vq ∧
      u.core.stallBank = s.core.stallBank ∧ ∀ r, readWG u r =
      if r = d ∧ d ≠ .g 0 then (if t = .f32 then BitVec.ofNat 64 seen else atType t (BitVec.ofNat 64 seen)) else readWG s r
    (resolve s (coreAcc s) (readWG s a + readWGI s b) (tyBytes t) 1 false = .ok (l, s1) → Gives (exec (.ld h t d a b) s) gives) ∧
    ((readWG s a + readWGI s b).toNat < 2 ^ 24 →
      resolve s (coreAcc s) (BitVec.ofNat 64 localBase + (readWG s a + readWGI s b)) (tyBytes t) 1 false = .ok (l, s1) →
      Gives (exec (.ldl h t d a b) s) gives) ∧
    (2 ^ 24 ≤ (readWG s a + readWGI s b).toNat →
      exec (.ldl h t d a b) s = .next (raise s .scalar .lmAddr (readWG s a + readWGI s b)))

/-- LDPW and IDXT (R135, R136, R200, R210): a read through a bound parameter window, where bytes at or past SIZE read as zero; an unbound
window faults PARAM_UNBOUND with address 0; IDXT forms an address from the descriptor it reads so. -/
def WindowReads : Prop :=
  ∀ (s s1 : State) (h : Hdr) (t : Ty) (d c : WG) (a : PWin) (b : Option WG) (x : Nat), Runs s h →
    let keeps := fun (u : State) => u.mem = s1.mem ∧ u.core.storeBuf = s.core.storeBuf ∧ u.core.v = s.core.v
    (readWindow s a.win (8 * a.off.toNat + (readWGOpt s b).toNat) (tyBytes t) = .ok (x, s1) →
      Gives (exec (.ldpw h t d a b) s) fun u => keeps u ∧ u.core.pc = nextPc s.core ∧
        ∀ r, readWG u r = if r = d ∧ d ≠ .g 0 then loaded t x else readWG s r) ∧
    (readWindow s a.win (8 * a.off.toNat) 32 = .ok (x, s1) →
      Gives (exec (.idxt h d a c) s) fun u => keeps u ∧ u.core.pc = nextPc s.core ∧
        ∀ r, readWG u r = if r = d ∧ d ≠ .g 0 then indexed x (readWG s c).toNat else readWG s r) ∧
    ((∀ w, bindingOf s a.win = some w → w.bound = false) →
      exec (.ldpw h t d a b) s = .next (raise s .scalar .paramUnbound 0) ∧
      exec (.idxt h d a c) s = .next (raise s .scalar .paramUnbound 0)) ∧
    (∀ w, bindingOf s a.win = some w → w.bound = true → w.size.toNat ≤ 8 * a.off.toNat →
      readWindow s a.win (8 * a.off.toNat) 32 = .ok (0, s))

end Sys2Proof.Machine

/-- Loads (R135, R136, R200, R206 to R210): from memory, from local memory, through a parameter window. -/
def Obligations.LoadsWriteWhatTheCoreSees : Prop := LoadedBytes ∧ WindowReads

/-- ST, STL and ZLINE (R206, R207, R209, R212, R295): the low bytes of D, or 128 zero bytes of an aligned line, enter the store buffer at
the bytes that A + B names, those of a host-shared page never to be cached, and a misaligned store to be performed byte by byte (R208); with
the store buffer full the instruction waits and nothing changes but the wait. -/
def Obligations.StoresEnterTheStoreBuffer : Prop :=
  ∀ (s s1 : State) (h : Hdr) (t : Ty) (d a : WG) (b : WGI) (l : List Spot), Runs s h →
    let entry := fun (bytes : List Byte) (whole z : Bool) =>
      (⟨(l.map Spot.key).zip bytes, curCtx s, (l.filter Spot.hs).map Spot.key, whole, z⟩ : PendStore)
    let x := readWG s a + readWGI s b
    let one := decide (x.toNat % tyBytes t = 0)
    (resolve s (coreAcc s) x (tyBytes t) 1 true = .ok (l, s1) → s1.core.storeBuf.length < 16 →
      Gives (exec (.st h t d a b) s) (StoredOnly s1 · (entry (toBytes (tyBytes t) (readWG s d).toNat) one false) 0)) ∧
    (resolve s (coreAcc s) x (tyBytes t) 1 true = .ok (l, s1) → 16 ≤ s1.core.storeBuf.length →
      exec (.st h t d a b) s = .next (standIn s .storeBuffer)) ∧
    (x.toNat < 2 ^ 24 → resolve s (coreAcc s) (BitVec.ofNat 64 localBase + x) (tyBytes t) 1 true = .ok (l, s1) →
      s1.core.storeBuf.length < 16 →
      Gives (exec (.stl h t d a b) s) (StoredOnly s1 · (entry (toBytes (tyBytes t) (readWG s d).toNat) one false) 0)) ∧
    (resolve s (coreAcc s) x 128 128 true = .ok (l, s1) → s1.core.storeBuf.length < 16 →
      Gives (exec (.zline h a b) s)
        (StoredOnly s1 · (entry (List.replicate l.length 0) true (l.all fun y => !y.hs && decide (y.key < 2 ^ 48))) 0))

namespace Sys2Proof.Machine

/-- Where the bytes of a local access lie (R69 to R76): the core's own local memory, or a peer's of the cluster with the same owner
context, and never a state change; LA[19] set is LM_ADDR, another owner's local memory PAGE_PERM, a misaligned address ALIGN. While a peer's
local memory is being cleared for its new owner an access to it waits (R75: the old owner's bytes are never visible). -/
def LocalAddressesResolve : Prop :=
  ∀ (s : State) (w : Acc) (a : Word) (n align : Nat) (write : Bool), 0 < n → n ≤ 128 → 0 < align → w.core < 1032 →
    localBase ≤ a.toNat → a.toNat + n ≤ localBase + 2 ^ 24 →
    let la := a.toNat - localBase
    let peer := if la.testBit 23 then 8 * (w.core / 8) + la / 2 ^ 20 % 8 else w.core
    (a.toNat % align ≠ 0 → resolve s w a n align write = .error (.fault .align a)) ∧
    (a.toNat % align = 0 → la.testBit 19 = true → resolve s w a n align write = .error (.fault .lmAddr a)) ∧
    (a.toNat % align = 0 → la % 2 ^ 20 + n ≤ 2 ^ 19 →
      (peer = w.core ∨ (getCore s peer).owner = some w.ctx ∧ (getCore s peer).clearing = false →
        resolve s w a n align write = .ok ((List.range n).map (fun i => ⟨localKey peer (la % 2 ^ 19 + i), false⟩), s)) ∧
      (peer ≠ w.core → (getCore s peer).owner ≠ some w.ctx → resolve s w a n align write = .error (.fault .pagePerm a)) ∧
      (peer ≠ w.core → (getCore s peer).owner = some w.ctx → (getCore s peer).clearing = true →
        resolve s w a n align write = .error (.wait .memory)))

/-- An address in no window faults WINDOW_NONE before anything else, and an access that leaves its window WINDOW_STRADDLE (R69 to R72);
both name the address as the instruction formed it. -/
def WindowFaultsComeFirst : Prop :=
  ∀ (s : State) (w : Acc) (a : Word) (n align : Nat) (write : Bool), 0 < n →
    ((2 ^ 56 ≤ a.toNat → a.toNat < 0xFF00000000000000 ∨ 0xFF00000001000000 ≤ a.toNat →
        a.toNat < 0xFF01000000000000 ∨ 0xFF01000002000000 ≤ a.toNat →
        resolve s w a n align write = .error (.fault .windowNone a)) ∧
      (a.toNat < 2 ^ 56 → 2 ^ 56 < a.toNat + n → a.toNat + n ≤ 2 ^ 63 → resolve s w a n align write = .error (.fault .windowStraddle a)))

end Sys2Proof.Machine

/-- Addresses (R69 to R76): local ones lie where their bits say, and the windows are checked before anything else. -/
def Obligations.AddressesResolve : Prop := LocalAddressesResolve ∧ WindowFaultsComeFirst

/-- A translation changes memory in its leaf entry alone (R138): A, and D for a write, are set there, and no other bit of memory. -/
def Obligations.TranslationTouchesItsLeafAlone : Prop :=
  ∀ (s t : State) (w : Acc) (va n p : Nat) (write hs : Bool) (fa : Word), Sound s → translate s w va n write fa = .ok (p, hs, t) →
    ∃ at_ e level, leafFor s w va fa = .ok (e, at_, level) ∧ p = pteFrame e + va % pageSize level ∧ hs = pteHS e ∧
      (write = true → pteW e = true) ∧ (w.priv = false → pteU e = true) ∧ pteCold e = false ∧
      (∀ j, j < at_ ∨ at_ + 8 ≤ j → memGet t.mem j = memGet s.mem j) ∧
      (∀ i, (memRead t.mem at_ 8).testBit i = true →
        (memRead s.mem at_ 8).testBit i = true ∨ i = 7 ∨ (i = 8 ∧ write = true)) ∧
      (∀ i < 64, (memRead s.mem at_ 8).testBit i = true → (memRead t.mem at_ 8).testBit i = true)

/-- PREF, WBLINE and INVLINE (R211, R213): PREF changes no register, never faults, and leaves memory but for what a line that makes room writes
back; WBLINE and INVLINE have no effect on
local memory and ember SRAM, and for a line of the global window perform the task's stores and write the line's dirty bytes back; INVLINE
leaves no copy of the line. -/
def Obligations.LineInstructions : Prop :=
  ∀ (s s1 : State) (h : Hdr) (a : WG) (b : WGI) (line : Nat), Runs s h →
    let x := (readWG s a + readWGI s b).toNat
    Gives (exec (.pref h a b) s) (fun t => (s.core.l1.length < 16 → t.mem = s.mem) ∧
      (Memory.wf s.mem = true → ∀ j, memGet t.mem j = memGet s.mem j ∨ MayLeave s j) ∧
      t.core.pc = nextPc s.core ∧ ∀ r, readWG t r = readWG s r) ∧
    (localBase ≤ x ∧ x < localBase + 2 ^ 24 ∨ emberBase ≤ x ∧ x < emberBase + 2 ^ 25 →
      Gives (exec (.wbline h a b) s) (WroteNothing s) ∧ Gives (exec (.invline h a b) s) (WroteNothing s)) ∧
    (lineTarget s (readWG s a + readWGI s b) = .ok (some line, s1) →
      let u := drainAll s1 s.core.id
      Gives (exec (.wbline h a b) s) (fun t => t.mem = (writeBackLine u s.core.id line).mem ∧ t.core.storeBuf = [] ∧
        (∀ y ∈ t.core.l1, y.addr = line → y.st ≠ .m ∧ y.st ≠ .rd) ∧ ∀ r, readWG t r = readWG s r) ∧
      Gives (exec (.invline h a b) s) (fun t => t.mem = (evictLine u s.core.id line).mem ∧
        ((∀ e ∈ dirOf u (homeDie (line * 128)), e.st ≠ 3) → t.mem = (writeBackLine u s.core.id line).mem) ∧ t.core.storeBuf = [] ∧
        (∀ y ∈ t.core.l1, y.addr ≠ line) ∧ ∀ r, readWG t r = readWG s r))

/-- AADD to ASWP and ACAS (R218 to R222): D takes the value that stood at the address, and the new one stands there; no other byte of memory
differs from what performing the earlier stores left. ACAS stores only where the compare value stood. While the directory-overflow task of the
line waits or runs the atomic waits (R86). -/
def Obligations.AtomicsReplaceWhatStood : Prop :=
  ∀ (s s1 : State) (h : Hdr) (t : Ty) (o : Sys2Proof.Ord) (sc : Scope) (d a : WG) (b : WGI) (x : Spot) (l : List Spot), Sound s → t ∈ tyA →
    Runs s h → resolve s (coreAcc s) (readWG s a + readWGI s b) (tyBytes t) (tyBytes t) true = .ok (x :: l, s1) →
    let n := tyBytes t
    (x.key < 2 ^ 48 → lineHeld s1 x.key = true →
      ∀ i ∈ [Instr.aadd h t o sc d a b, .amin h t o sc d a b, .amax h t o sc d a b, .aminn h t o sc d a b, .amaxn h t o sc d a b,
             .aand h t o sc d a b, .aor h t o sc d a b, .axor h t o sc d a b, .aswp h t o sc d a b, .acas h t o sc d a b],
        exec i s = .next (standIn s1 .memory)) ∧
    ((x.key < 2 ^ 48 → lineHeld s1 x.key = false) →
    let m := (atHome (beforeAtomic s1 (ordRel o) (ordAcq o) sc x.key) x.key n).mem
    let old := memRead m x.key n
    let y := intAt t old
    let z := opInt t (readWG s d)
    let does := fun (new : Word) (u : State) =>
      memRead u.mem x.key n = new.toNat % 2 ^ (8 * n) ∧ (∀ j, j < x.key ∨ x.key + n ≤ j → memGet u.mem j = memGet m j) ∧
      u.core.pc = nextPc s.core ∧
      ∀ r, readWG u r = if r = d ∧ d ≠ .g 0 then atType t (BitVec.ofNat 64 old) else readWG s r
    Gives (exec (.aadd h t o sc d a b) s) (does (BitVec.ofNat 64 old + readWG s d)) ∧
    Gives (exec (.amin h t o sc d a b) s) (does (BitVec.ofInt 64 (if y ≤ z then y else z))) ∧
    Gives (exec (.amax h t o sc d a b) s) (does (BitVec.ofInt 64 (if y ≤ z then z else y))) ∧
    Gives (exec (.aminn h t o sc d a b) s) (does (BitVec.ofInt 64 (if y ≤ z then y else z))) ∧
    Gives (exec (.amaxn h t o sc d a b) s) (does (BitVec.ofInt 64 (if y ≤ z then z else y))) ∧
    Gives (exec (.aand h t o sc d a b) s) (does (BitVec.ofNat 64 old &&& readWG s d)) ∧
    Gives (exec (.aor h t o sc d a b) s) (does (BitVec.ofNat 64 old ||| readWG s d)) ∧
    Gives (exec (.axor h t o sc d a b) s) (does (BitVec.ofNat 64 old ^^^ readWG s d)) ∧
    Gives (exec (.aswp h t o sc d a b) s) (does (readWG s d)) ∧
    Gives (exec (.acas h t o sc d a b) s)
      (does (if old = (readWG s d).toNat % 2 ^ (8 * n) then readWG s (nextReg d) else BitVec.ofNat 64 old)))

namespace Sys2Proof.Machine

/-- LDACQ and STREL (R223): LDACQ at CORE, CLUS and DIE scope, and on a line of its own die, loads as LD does, after its acquire; at PKG and SYS a
remote-homed line is read at its home, after the core's own stores to it and every remote line's dirty bytes have been written back, and no
remote line is left. STREL performs every earlier store first and then stores, through the store buffer; at PKG and SYS to a remote-homed line
the store is performed at its home, and the core keeps no copy. While the directory-overflow task of such a line waits or runs both wait (R86). -/
def AcquireAndReleaseAccesses : Prop :=
  ∀ (s s1 : State) (h : Hdr) (t : Ty) (sc : Scope) (d a : WG) (b : WGI) (l : List Spot), t ∈ tyMem → Runs s h →
    let n := tyBytes t
    let x := readWG s a + readWGI s b
    let remote := l.any fun y => remoteKey s.core.id y.key
    let held := l.any fun y => lineHeld s1 y.key
    (resolve s (coreAcc s) x n n false = .ok (l, s1) → wideScope sc = false ∨ remote = false →
      let u := if wideScope sc then acquire s1 s.core.id sc else s1
      let w := touchLoad u l
      SeenIn u w l true ∧
      Gives (exec (.ldacq h t sc d a b) s) fun v => v.mem = w.mem ∧ (u.core.l1.length < 16 → v.mem = u.mem) ∧
        (Memory.wf u.mem = true → ∀ j, memGet v.mem j = memGet u.mem j ∨ MayLeave u j) ∧ v.core.pc = nextPc s.core ∧
        ∀ r, readWG v r = if r = d ∧ d ≠ .g 0 then loaded t (ofBytes (l.map (loadByte w.mem w.core true))) else readWG s r) ∧
    (∀ key, resolve s (coreAcc s) x n n false = .ok (l, s1) → wideScope sc = true → remote = true → (l.head?).map Spot.key = some key →
      (held = true → exec (.ldacq h t sc d a b) s = .next (standIn s1 .memory)) ∧
      (held = false → Gives (exec (.ldacq h t sc d a b) s) fun v =>
        v.mem = (acquire (drainLine s1 s.core.id (key / 128)) s.core.id sc).mem ∧
        (∀ p ∈ v.core.storeBuf, ∀ y ∈ p.bytes, y.1 / 128 ≠ key / 128) ∧ (∀ y ∈ v.core.l1, y.st ≠ .rc ∧ y.st ≠ .rd) ∧
        v.core.pc = nextPc s.core ∧
        ∀ r, readWG v r = if r = d ∧ d ≠ .g 0 then loaded t (memRead v.mem key n) else readWG s r)) ∧
    (∀ key, Sound s → resolve s (coreAcc s) x n n true = .ok (l, s1) → wideScope sc = true → remote = true →
      (l.head?).map Spot.key = some key →
      (held = true → exec (.strel h t sc d a b) s = .next (standIn s1 .memory)) ∧
      (held = false → reaches s1 (outDie s.core.id) (keyDie key) = true → Gives (exec (.strel h t sc d a b) s) fun v =>
        memRead v.mem key n = (readWG s d).toNat % 2 ^ (8 * n) ∧
        (∀ j, j < key ∨ key + n ≤ j → memGet v.mem j = memGet (release s1 s.core.id sc).mem j) ∧
        v.core.storeBuf = [] ∧ (∀ y ∈ v.core.l1, y.addr ≠ key / 128 ∧ y.st ≠ .rd) ∧ v.core.pc = nextPc s.core ∧
        ∀ r, readWG v r = readWG s r)) ∧
    (resolve s (coreAcc s) x n n true = .ok (l, s1) → wideScope sc = false ∨ remote = false →
      Gives (exec (.strel h t sc d a b) s) fun v => v.mem = (release s1 s.core.id sc).mem ∧ v.core.pc = nextPc s.core ∧
        v.core.storeBuf = [⟨(l.map Spot.key).zip (toBytes n (readWG s d).toNat), curCtx s, (l.filter Spot.hs).map Spot.key, true, false⟩] ∧
        ∀ r, readWG v r = readWG s r)

/-- FENCE, WAITA and GBAR (R84, R224 to R226): a release leaves no store unperformed, an acquire at PKG or SYS no remote line; WAITA goes on
where GEN equals D's low 16 bits and else waits; GBAR is over at once in a task of no gang. In a member of a gang it releases at CLUS scope, and
waits while some member that has not ended has not arrived (R37); the last that arrives lets every member go on, so that in a gang of one it is
over at once too. -/
def FencesAndWaits : Prop :=
  ∀ (s : State) (h : Hdr) (o : Ord) (sc : Scope) (d b : WGI) (a : WG) (key : Nat) (k : Task) (g : Gang), Runs s h →
    Gives (exec (.fence h o sc) s) (fun t =>
      (ordRel o = true → t.core.storeBuf = []) ∧
      (ordAcq o = true → wideScope sc = true → ∀ x ∈ t.core.l1, x.st ≠ .rc ∧ x.st ≠ .rd) ∧
      t.core.pc = nextPc s.core ∧ ∀ r, readWG t r = readWG s r) ∧
    (s.core.bank = .user → localTarget s (readWG s a + readWGI s b) 8 8 = .ok key →
      let gen := ofBytes ((List.range 2).map fun i => viewByte s.mem s.core ⟨key + i, false⟩)
      (gen = (readWGI s d).toNat % 2 ^ 16 → Gives (exec (.waita h sc d a b) s) fun t =>
        t.core.pc = nextPc s.core ∧ (wideScope sc = true → ∀ x ∈ t.core.l1, x.st ≠ .rc ∧ x.st ≠ .rd) ∧
        ∀ r, readWG t r = readWG s r) ∧
      (gen ≠ (readWGI s d).toNat % 2 ^ 16 → exec (.waita h sc d a b) s = .next (standIn s .arrival))) ∧
    (s.core.bank = .user → s.core.task = some k → k.info.gang = none → Gives (exec (.gbar h) s) (WroteNothing s)) ∧
    (s.core.bank = .user → s.core.task = some k → k.info.gang = some g → Sound s → s.core.id ∈ gangCores g →
      (∀ e ∈ s.core.runq, memberOf g k.info.ctx k.info.lid e.task = false) →
      let away := fun (j : Nat) => j ≠ s.core.id ∧ notArrived g k.info.ctx k.info.lid (getCore s j) = true
      ((∃ j ∈ gangCores g, away j) → Gives (exec (.gbar h) s) fun t =>
        t.core.atBarrier = true ∧ t.core.blocked = some .gang ∧ t.core.pc = s.core.pc ∧ t.core.storeBuf = [] ∧
        t.mem = (release s s.core.id .clus).mem ∧ ∀ r, readWG t r = readWG s r) ∧
      ((∀ j ∈ gangCores g, ¬ away j) → Gives (exec (.gbar h) s) fun t =>
        t.core.atBarrier = false ∧ t.core.pc = nextPc s.core ∧ t.core.storeBuf = [] ∧ t.mem = (release s s.core.id .clus).mem ∧
        (∀ r, readWG t r = readWG s r) ∧
        ∀ j ∈ gangCores g, ∀ y, (getCore s j).task = some y → memberOf g k.info.ctx k.info.lid y.info = true →
          (getCore t j).atBarrier = false))

end Sys2Proof.Machine

/-- LDACQ, STREL, FENCE, WAITA and GBAR (R84, R223 to R226). -/
def Obligations.AcquireReleaseAndFences : Prop := AcquireAndReleaseAccesses ∧ FencesAndWaits

/-! ### Class 0x7 and class 0x8: vectors (spec/11) -/

namespace Sys2Proof.Machine

/-- The vector queue performs a command of the running task as it issues (R66, R121, R124, R157): it has room, no earlier command waits in it,
and the completion counters have room. -/
def VecOpen (s : State) : Prop :=
  s.core.bank = .user ∧ s.core.vq.length < 2 ∧ vecWaits s.core = false ∧ ∀ l ∈ s.launches, l.count + 1 < 2 ^ 32

/-- The entry that such a command leaves in the queue: it counts until the engine takes it. -/
def vecDone (s : State) : VecCmd :=
  ⟨curCtx s, curLid s, match s.core.task with | some k => k.actid | none => 0, s.core.vecIssued, none⟩

/-- A vector instruction executes: in a user task whose vector queue performs it (R124), or in a coal handler where every operand lies in
its bank (R42). -/
def VectorRuns (s : State) (h : Hdr) (bad : Bool) : Prop :=
  VecOpen s ∨ s.core.bank = .coal ∧ bad = false ∧ h.gp.val < 2

/-- Lane L is active under the guard (R168). -/
def LaneOn (s : State) (h : Hdr) (L : Nat) : Prop := (guardMask s h).getLsbD L = true

/-- What an instruction that writes vector registers, a predicate or a general register through the vector engine leaves of the rest:
the classifier counts n operations (R314); a task's command stands in the vector queue until it is taken, and its launch counts it (R124, R155). -/
def VectorOnly (s t : State) (n : Nat) : Prop :=
  t = { s with core := t.core, launches := (if s.core.bank = .user then countUp (countOps s n) (curCtx s) (curLid s) 1
                                            else countOps s n).launches } ∧
  (s.core.bank = .user → t.core = { s.core with
    v := t.core.v, p := t.core.p, win := ⟨t.core.win.w, s.core.win.link⟩, out := t.core.out, g := t.core.g, genS := t.core.genS,
    vq := s.core.vq ++ [vecDone s], vecIssued := s.core.vecIssued + 1, pc := nextPc s.core, srcPc := s.core.pc, blocked := none, early := [],
    loop := nextLoop s.core,
    loopBuf := t.core.loopBuf }) ∧
  (s.core.bank = .coal → t.core = { s.core with genS := t.core.genS, coal := { s.core.coal with
    v := t.core.coal.v, p1 := t.core.coal.p1, pc := s.core.coal.pc + 12, ran := s.core.coal.ran + 1 } })

/-- A vector instruction that writes lanes of D and nothing else: an active lane takes its new value mod 2^w, an inactive one keeps the
old (R52, R168). It counts n operations for each lane written (R314). -/
def WroteLanes (s t : State) (h : Hdr) (w n : Nat) (d : V) (part : Nat → Bool) (new : Nat → Nat) : Prop :=
  VectorOnly s t (n * (List.range (512 / w)).countP fun L => part L && (guardMask s h).getLsbD L) ∧ (∀ r, readWG t r = readWG s r) ∧ (∀ r, readP t r = readP s r) ∧ t.core.genS = s.core.genS ∧
  (∀ r, r ≠ d → readV t r = readV s r) ∧
  ∀ L < 512 / w, (LaneOn s h L ∧ part L → lane w L (readV t d) = new L % 2 ^ w) ∧
    (¬ (LaneOn s h L ∧ part L) → lane w L (readV t d) = lane w L (readV s d))

end Sys2Proof.Machine

/-- VADD to VRSHR, VSEL, VSPLAT, VPERM, VSLIDE, VIOTA, VCLR, VWID and VWIDN (R227 to R231): lane by lane at the TYPE, B a register's lanes
or a broadcast. -/
def Obligations.VectorIntegerLanes : Prop :=
  ∀ (s : State) (h : Hdr) (t : Ty) (pk : P) (d a c : V) (b : VS) (g : WGI) (p : BitVec 6), t ∈ tyAll →
    let w := Ty.width t
    let x := fun (L : Nat) => intAt t (lane w L (readV s a))
    let y := fun (L : Nat) => intAt t (laneB s w b L)
    let u := fun (L : Nat) => laneB s w b L
    let sat := fun (z : Int) => max (tyMin t) (min (tyMax t) z)
    let gives := fun (i : Instr) (w n : Nat) (new : Nat → Int) =>
      Gives (exec i s) (WroteLanes s · h w n d (fun _ => true) fun L => wrap w (new L))
    let ones := fun (i : Instr) (new : Nat → Int) => gives i w 1 new
    (VectorRuns s h (vHigh d || (vHigh a || vsBad b)) →
      ones (.vadd h t d a b) (fun L => x L + y L) ∧ ones (.vsub h t d a b) (fun L => x L - y L) ∧
      ones (.vadds h t d a b) (fun L => sat (x L + y L)) ∧ ones (.vaddsn h t d a b) (fun L => sat (x L + y L)) ∧
      ones (.vsubs h t d a b) (fun L => sat (x L - y L)) ∧ ones (.vmul h t d a b) (fun L => x L * y L) ∧
      ones (.vmulh h t d a b) (fun L => Int.fdiv (x L * y L) (2 ^ w)) ∧
      gives (.vmad h t d a b) w 2 (fun L => intAt t (lane w L (readV s d)) + x L * y L) ∧
      ones (.vmin h t d a b) (fun L => if x L ≤ y L then x L else y L) ∧
      ones (.vmax h t d a b) (fun L => if x L ≤ y L then y L else x L) ∧
      ones (.vminn h t d a b) (fun L => if x L ≤ y L then x L else y L) ∧
      ones (.vmaxn h t d a b) (fun L => if x L ≤ y L then y L else x L) ∧
      ones (.vand h t d a b) (fun L => (lane w L (readV s a) &&& u L : Nat)) ∧
      ones (.vor h t d a b) (fun L => (lane w L (readV s a) ||| u L : Nat)) ∧
      ones (.vxor h t d a b) (fun L => (lane w L (readV s a) ^^^ u L : Nat)) ∧
      ones (.vshl h t d a b) (fun L => if w ≤ u L then 0 else x L * 2 ^ u L) ∧
      ones (.vshr h t d a b) (fun L => if w ≤ u L then 0 else x L / 2 ^ u L) ∧
      ones (.vsar h t d a b) (fun L => x L / 2 ^ min (u L) (w - 1)) ∧
      ones (.vrshr h t d a b) (fun L => rshr (x L) (min (u L) w))) ∧
    (VectorRuns s h (vHigh d || (vHigh a || vsBad b)) → t = .i32 →
      ones (.vmulhr h d a b) (fun L => mulhr (x L) (y L))) ∧
    (VectorRuns s h (vHigh d || (pHigh pk || vHigh a || vsBad b)) →
      ones (.vsel h t pk d a b) fun L => if (readP s pk).getLsbD L then (lane w L (readV s a) : Int) else u L) ∧
    (VectorRuns s h (vHigh d || vHigh a) →
      ones (.vabs h t d a) (fun L => if 0 ≤ x L then x L else -(x L)) ∧
      gives (.vwid h t p d a) (2 * w) 1 (fun L => intAt t (lane w (p.toNat * (512 / (2 * w)) + L) (readV s a))) ∧
      gives (.vwidn h t p d a) (2 * w) 1 (fun L => intAt t (lane w (p.toNat * (512 / (2 * w)) + L) (readV s a)))) ∧
    (VectorRuns s h (vHigh d || wgiBad g) →
      ones (.vsplat h t d g) (fun _ => (readWGI s g).toNat) ∧ ones (.viota h t d g) (fun L => ((readWGI s g).toNat + L : Nat))) ∧
    (VectorRuns s h (vHigh d || (vHigh a || vHigh c)) →
      ones (.vperm h t d a c) fun L =>
        if lane w L (readV s c) < 512 / w then (lane w (lane w L (readV s c)) (readV s a) : Int) else 0) ∧
    (VectorRuns s h (vHigh d || (vHigh a || wgiBad g)) →
      ones (.vslide h t d a g) fun L =>
        let i := (L : Int) + (readWGI s g).toInt
        if 0 ≤ i ∧ i < 512 / w then (lane w i.toNat (readV s a) : Int) else 0) ∧
    (VectorRuns s h (vHigh d) → ones (.vclr h t d) fun _ => 0)

namespace Sys2Proof.Machine

/-- VNARS, VNARN, VENCQ, VCVTFB, VCVTFH, VCVTE4S, VCVTE4O, VCVTE5S, VCVTE5O and VCVTF4S (R109, R115, R230, R237, R240): the results go to
part p of D, and the other lanes keep their values. -/
def NarrowingWritesOnePart : Prop :=
  ∀ (s : State) (h : Hdr) (t : Ty) (p : BitVec 6) (d a : V) (b : WG),
    let narrow := fun (i : Instr) (ws wr : Nat) (f : Nat → Nat) =>
      let m := 512 / ws
      Gives (exec i s) (WroteLanes s · h wr 1 d (fun L => L / m == p.toNat) fun L => f (lane ws (L - p.toNat * m) (readV s a)))
    let w := Ty.width t
    (VectorRuns s h (vHigh d || vHigh a) →
      (t ∈ [Ty.i8, .i16, .i32] →
        narrow (.vnars h t p d a) (2 * w) w fun x => wrap w (max (tyMin t) (min (tyMax t) (signedOf (2 * w) x)))) ∧
      (t ∈ [Ty.n8, .n16, .n32] →
        narrow (.vnarn h t p d a) (2 * w) w fun x => wrap w (max (tyMin t) (min (tyMax t) (signedOf (2 * w) x)))) ∧
      narrow (.vcvtfb h p d a) 32 16 (convert .f32 .b16 false) ∧ narrow (.vcvtfh h p d a) 32 16 (convert .f32 .h16 false) ∧
      (t ∈ [Ty.f32, .b16, .h16] →
        narrow (.vcvte4s h t p d a) w 8 (convert (fmtOf t) .e4 true) ∧ narrow (.vcvte4o h t p d a) w 8 (convert (fmtOf t) .e4 false) ∧
        narrow (.vcvte5s h t p d a) w 8 (convert (fmtOf t) .e5 true) ∧ narrow (.vcvte5o h t p d a) w 8 (convert (fmtOf t) .e5 false) ∧
        narrow (.vcvtf4s h t p d a) w 8 (convert (fmtOf t) .f4 true))) ∧
    (VectorRuns s h (vHigh d || (vHigh a || isWReg b)) →
      narrow (.vencq h p d a b) 32 8 fun x => blkEncode (fdecode .f32 x) (fdecode .f32 (f32At s b)))

/-- VFADD to VFLOG2, VCVTFI, VCVTIF, VWIDF and VDECQ (R233 to R235, R237, R239): lane by lane on patterns of the TYPE, one rounding each. -/
def FloatLanes : Prop :=
  ∀ (s : State) (h : Hdr) (t : Ty) (p : BitVec 6) (d a : V) (b : VWG) (c : WG), t ∈ tyFv →
    let w := Ty.width t
    let f := fmtOf t
    let x := fun (L : Nat) => lane w L (readV s a)
    let y := fun (L : Nat) => laneBF s w b L
    let z := fun (L : Nat) => lane 32 L (readV s a)
    let gives := fun (i : Instr) (w n : Nat) (new : Nat → Nat) => Gives (exec i s) (WroteLanes s · h w n d (fun _ => true) new)
    (VectorRuns s h (vHigh d || (vHigh a || vwgBad b)) →
      gives (.vfadd h t d a b) w 1 (fun L => addBits f (x L) (y L)) ∧ gives (.vfsub h t d a b) w 1 (fun L => subBits f (x L) (y L)) ∧
      gives (.vfmul h t d a b) w 1 (fun L => mulBits f (x L) (y L)) ∧
      gives (.vffma h t d a b) w 2 (fun L => fmaBits f (x L) (y L) (lane w L (readV s d))) ∧
      gives (.vfmin h t d a b) w 1 (fun L => fminBits f (x L) (y L)) ∧ gives (.vfmax h t d a b) w 1 (fun L => fmaxBits f (x L) (y L))) ∧
    (VectorRuns s h (vHigh d || vHigh a) →
      gives (.vfabs h t d a) w 1 (fun L => fabsBits f (x L)) ∧ gives (.vfneg h t d a) w 1 (fun L => fnegBits f (x L)) ∧
      gives (.vfrcp h d a) 32 1 (fun L => rcpBits (z L)) ∧ gives (.vfrsq h d a) 32 1 (fun L => rsqBits (z L)) ∧
      gives (.vfexp2 h d a) 32 1 (fun L => exp2Bits (z L)) ∧ gives (.vflog2 h d a) 32 1 (fun L => log2Bits (z L)) ∧
      ∀ e, gives (.vcvtfi h e d a) 32 1 (fun L => wrap 32 (ftoInt false (tyMin e) (tyMax e) (fdecode .f32 (z L)))) ∧
        gives (.vcvtif h e d a) 32 1 (fun L => fround .f32 false (fofInt (intAt e (z L)))) ∧
        gives (.vwidf h e p d a) 32 1 (fun L => convert (fmtOf e) .f32 false (lane (Ty.width e) (p.toNat * 16 + L) (readV s a)))) ∧
    (VectorRuns s h (vHigh d || vHigh a || isWReg c) → ∀ e, blkCheck e (readV s a).toNat = none →
      gives (.vdecq h e p d a c) 32 1 (fun L => blkDecode e (readV s a).toNat (16 * p.toNat + L) (f32At s c)))

/-- VDOT4 and VMACW (R229): sums of byte products added to 32-bit lanes, of one register and of a quad. -/
def ByteProductSums : Prop :=
  ∀ (s : State) (h : Hdr) (t : Ty) (d a : V) (b : VS), t ∈ tyB8i →
    (VectorRuns s h (vHigh d || (vHigh a || vsBad b)) → Gives (exec (.vdot4 h t d a b) s)
      (WroteLanes s · h 32 1 d (fun _ => true) fun L =>
        let byte := fun (k : Nat) => match b with
          | .v n => lane 8 (4 * L + k) (readV s n)
          | .reg r => (readWG s r).toNat / 2 ^ (8 * k) % 256
          | .imm v => (immWord v).toNat / 2 ^ (8 * k) % 256
        wrap 32 ((lane 32 L (readV s d) : Int) +
          ((List.range 4).map fun k => intAt t (lane 8 (4 * L + k) (readV s a)) * signedOf 8 (byte k)).sum))) ∧
    (VectorRuns s h (vHigh d || vHigh a || vsBad b) → d.val % 4 = 0 → Gives (exec (.vmacw h t d a b) s) fun u =>
      VectorOnly s u (2 * popBelow 64 (guardMask s h).toNat) ∧ (∀ r : V, r.val < d.val ∨ d.val + 4 ≤ r.val → readV u r = readV s r) ∧
      ∀ r : Fin 4, ∀ L < 16, lane 32 L (readV u (plusV d r.val)) =
        if (guardMask s h).getLsbD (16 * r.val + L) then
          wrap 32 ((lane 32 L (readV s (plusV d r.val)) : Int) +
            intAt t (lane 8 (16 * r.val + L) (readV s a)) * signedOf 8 (laneB s 8 b (16 * r.val + L)))
        else lane 32 L (readV s (plusV d r.val)))

/-- VCMP and VFCMP (R171, R215, R233): bit L of D is the comparison of lane L where the guard is true, and keeps its value elsewhere; bits
from the lane count up are zero. -/
def VectorComparisons : Prop :=
  ∀ (s : State) (h : Hdr) (t : Ty) (c : Cond) (fc : FCond) (d : P) (a : V) (b : VS) (e : VWG),
    let w := Ty.width t
    let wrote := fun (u : State) (new : Nat → Bool) => VectorOnly s u (laneCount s h (512 / w) fun _ => true) ∧ (∀ r, readV u r = readV s r) ∧
      (∀ r, readWG u r = readWG s r) ∧ (∀ r, r ≠ d → readP u r = readP s r) ∧
      (d ≠ 0 → ∀ L < 64, (readP u d).getLsbD L =
        if L < 512 / w then (if (guardMask s h).getLsbD L then new L else (readP s d).getLsbD L) else false)
    (VectorRuns s h (pHigh d || vHigh a || vsBad b) → Gives (exec (.vcmp h t c d a b) s) fun u =>
      wrote u fun L => condHolds c (intAt t (lane w L (readV s a))) (intAt t (laneB s w b L))) ∧
    (VectorRuns s h (pHigh d || vHigh a || vwgBad e) → Gives (exec (.vfcmp h t fc d a e) s) fun u =>
      wrote u fun L => fcondHolds fc (fdecode (fmtOf t) (lane w L (readV s a))) (fdecode (fmtOf t) (laneBF s w e L)))

/-- VREDADD, VREDMAX, VREDMIN, VMOVS, VFRADD and VFRMAX (R217, R232, R236): one register from the active lanes, ascending; a coal handler
may not run them. Each counts an operation for each active lane, VMOVS for its one lane (R314). -/
def ReductionsWriteOneRegister : Prop :=
  ∀ (s : State) (h : Hdr) (t : Ty) (d : WG) (a : V) (b : WGI), VecOpen s →
    let w := Ty.width t
    let ints := activeInts s h t a
    let fls := activeF32 s h a
    let wroteN := fun (n : Nat) (x : Word) (u : State) => VectorOnly s u n ∧ u.core.v = s.core.v ∧ u.core.p = s.core.p ∧
      ∀ r, readWG u r = if r = d ∧ d ≠ .g 0 then x else readWG s r
    let wrote := fun (w : Nat) (x : Word) (u : State) => wroteN (laneCount s h (512 / w) fun _ => true) x u
    let i := (readWGI s b).toNat % (512 / w)
    Gives (exec (.vredadd h t d a) s) (wrote w (BitVec.ofInt 64 ints.sum)) ∧
    Gives (exec (.vredmax h t d a) s) (wrote w (extend t (ints.foldl max (tyMin t)))) ∧
    Gives (exec (.vredmin h t d a) s) (wrote w (extend t (ints.foldl min (tyMax t)))) ∧
    Gives (exec (.vmovs h t d a b) s)
      (if (guardMask s h).getLsbD i then wroteN 1 (extend t (intAt t (lane w i (readV s a)))) else wroteN 0 (readWG s d)) ∧
    Gives (exec (.vfradd h d a) s) (wrote 32 (f32Word (match fls with | [] => 0 | x :: r => r.foldl (addBits .f32) x))) ∧
    Gives (exec (.vfrmax h d a) s) (wrote 32 (f32Word (match fls with | [] => 0xFF800000 | x :: r => r.foldl (fmaxBits .f32) x)))

end Sys2Proof.Machine

/-- What a vector instruction makes of several lanes at once (R215, R217, R229, R232, R233, R236). -/
def Obligations.VectorSumsAndComparisons : Prop := ByteProductSums ∧ VectorComparisons ∧ ReductionsWriteOneRegister

namespace Sys2Proof.Machine

/-- VCVTFBS (R113, R114, R238): each active result lane draws one step of the core's generator, ascending, and the generator moves on by as
many steps. -/
def StochasticRoundingDrawsOnceALane : Prop :=
  ∀ (s : State) (h : Hdr) (p : BitVec 6) (d a : V), VectorRuns s h (vHigh d || vHigh a) → p.toNat < 2 →
    Gives (exec (.vcvtfbs h p d a) s) fun u =>
      let lo := 16 * p.toNat
      let before := fun (n : Nat) => ((List.range n).countP fun i => (guardMask s h).getLsbD (lo + i))
      VectorOnly s u (before 16) ∧ (∀ r, r ≠ d → readV u r = readV s r) ∧ u.core.genS = genSteps (before 16) s.core.genS ∧
      ∀ L < 32, lane 16 L (readV u d) =
        if lo ≤ L ∧ L < lo + 16 ∧ (guardMask s h).getLsbD L = true then
          stochB16 (lane 32 (L - lo) (readV s a)) ((genSteps (before (L - lo) + 1) s.core.genS).extractLsb' 48 16).toNat % 2 ^ 16
        else lane 16 L (readV s d)

end Sys2Proof.Machine

/-- Vector FP and its conversions (R109 to R115, R230, R233 to R240), lane by lane. -/
def Obligations.VectorFloatLanes : Prop := FloatLanes ∧ NarrowingWritesOnePart ∧ StochasticRoundingDrawsOnceALane

/-- LWADD, LRND and LCLR (R72, R88, R118, R119, R241, R242): on the 80-byte accumulator in the own local memory, after the task's earlier stores.
An address that is not the core's own local memory faults LM_ADDR; then, in the order of R72, bytes that leave the window WINDOW_STRADDLE, a
misaligned address ALIGN, and LA[19] set or bytes past 512 KiB LM_ADDR. -/
def Obligations.LongAccumulator : Prop :=
  ∀ (s : State) (h : Hdr) (t : Ty) (d a b : WG) (off : Nat), Runs s h → VecOpen s → Sound s →
    let u := drainAll s s.core.id
    let here := fun (x : Word) => ownLocal s.core.id x 80 true = some off ∧ x.toNat % 16 = 0
    let key := localKey s.core.id off
    let old := memRead u.mem key 80
    let w := Ty.width t
    (here (readWG s d) → Gives (exec (.lwadd h t d a b) s) fun v =>
      v.mem = memWrite u.mem key 80 (longAdd t old ((readWG s a).toNat % 2 ^ w) ((readWG s b).toNat % 2 ^ w)) ∧
      v.core.pc = nextPc s.core ∧ ∀ r, readWG v r = readWG s r) ∧
    (here (readWG s a) → Gives (exec (.lrnd h d a) s) fun v =>
      v.mem = u.mem ∧ v.core.pc = nextPc s.core ∧
      ∀ r, readWG v r = if r = d ∧ d ≠ .g 0 then BitVec.ofNat 64 (longRound old % 2 ^ 32) else readWG s r) ∧
    (here (readWG s a) → Gives (exec (.lclr h a) s) fun v =>
      v.mem = memWrite u.mem key 80 0 ∧ v.core.pc = nextPc s.core ∧ ∀ r, readWG v r = readWG s r) ∧
    let stops := fun (x : Word) (i : Instr) =>
      (namesOwn s.core.id x true = false → exec i s = .next (raise s .vector .lmAddr x)) ∧
      (namesOwn s.core.id x true = true → localBase + 2 ^ 24 < x.toNat + 80 → exec i s = .next (raise s .vector .windowStraddle x)) ∧
      (namesOwn s.core.id x true = true → x.toNat + 80 ≤ localBase + 2 ^ 24 → x.toNat % 16 ≠ 0 → exec i s = .next (raise s .vector .align x)) ∧
      (namesOwn s.core.id x true = true → x.toNat + 80 ≤ localBase + 2 ^ 24 → x.toNat % 16 = 0 → ownLocal s.core.id x 80 true = none →
        exec i s = .next (raise s .vector .lmAddr x))
    stops (readWG s d) (.lwadd h t d a b) ∧ stops (readWG s a) (.lrnd h d a) ∧ stops (readWG s a) (.lclr h a)

/-! ### Class 0x9: vector memory, rings, streams, messages (spec/12; spec/02) -/

/-- VLD, VLD2, VLDS, VGATH and VLDB (R71, R83, R247 to R250): the active lanes take the bytes their addresses name, as the core sees them once the
lines they lack have come in, and the others keep their value; VLD2 writes two registers, and counts a stall where both lie in one bank quad;
VLDB checks the block first. -/
def Obligations.VectorLoads : Prop :=
  ∀ (s s1 s2 : State) (h : Hdr) (t : Ty) (k : BitVec 6) (d c : V) (a : WGQ) (g : WG) (b : WGI) (x y : Word)
    (l m : List (Nat × List Spot)), VecOpen s →
    let w := Ty.width t
    let e := tyBytes t
    let leaves := fun (s1 : State) (l : List Spot) (u : State) => LoadedOnly s1 u l 1 ∧ u.core.vq = s.core.vq ++ [vecDone s] ∧ ∀ r, readWG u r = readWG s r
    let flat := l.flatMap Prod.snd
    let one := fun (w : Nat) (s1 v : State) (u : State) => leaves s1 flat u ∧ u.mem = v.mem ∧ u.core.stallBank = s.core.stallBank ∧
      ∀ r, readV u r = if r = d then loadLanes v w (readV s d) l else readV s r
    SeenIn s1 (touchLanes s1 l) flat true ∧ SeenIn s1 (touchEach s1 l) flat true ∧
    SeenIn s1 (touchLanes (touchLanes s1 l) m) (flat ++ m.flatMap Prod.snd) true ∧
    (vecAddr s a b false = .ok x → wholeLanes s h t x false = .ok (l, s1) → Gives (exec (.vld h t d a b) s) (one w s1 (touchLanes s1 l))) ∧
    (pairAddr s a b k = .ok (x, y) → wholeLanes s h t x false = .ok (l, s1) → wholeLanes s1 h t y false = .ok (m, s2) →
      let v := touchLanes (touchLanes s2 l) m
      Gives (exec (.vld2 h t k d a b) s) fun u => leaves s2 ((l ++ m).flatMap Prod.snd) u ∧ u.mem = v.mem ∧
        (∀ r, readV u r = if r = plusV d 1 then loadLanes v w (readV s (plusV d 1)) m
          else if r = d then loadLanes v w (readV s d) l else readV s r) ∧
        u.core.stallBank = if l ≠ [] ∧ (quadOf s x).isSome ∧ quadOf s x = quadOf s y then satAdd s.core.stallBank 1
          else s.core.stallBank) ∧
    (resolveLanes s e e false (stridedLanes s h t g b) = .ok (l, s1) → Gives (exec (.vlds h t d g b) s) (one w s1 (touchLanes s1 l))) ∧
    (resolveLanes s e e false (gatheredLanes s h t g c) = .ok (l, s1) → Gives (exec (.vgath h t d g c) s) (one w s1 (touchEach s1 l))) ∧
    (∀ hd, vecAddr s a b false = .ok x → wholeLanes s h .n8 x false = .ok (l, s1) →
      resolve s1 (coreAcc s1) x 4 1 false = .ok (hd, s2) →
      (∃ L < 64, LaneOn s h L) →
      let v := touchLanes s2 l
      let check := blkCheck t (ofBytes (hd.map fun z => viewByte v.mem v.core z))
      (check = none → Gives (exec (.vldb h t d a b) s) (one 8 s2 v)) ∧
      (∀ code, check = some code → exec (.vldb h t d a b) s = .next (raiseAt s2 s.core.pc .vector code x)))

/-- VST, VSTS and VSCAT (R71, R247, R250, R295): the active lanes' bytes enter the store buffer as one entry, ascending, each at the address its
lane names, of two lanes at one byte the higher one's; with no active lane nothing is stored. -/
def Obligations.VectorStores : Prop :=
  ∀ (s s1 : State) (h : Hdr) (t : Ty) (d c : V) (a : WGQ) (g : WG) (b : WGI) (x : Word) (l : List (Nat × List Spot)),
    VecOpen s → s.core.storeBuf.length < 16 →
    let e := tyBytes t
    let w := Ty.width t
    let stores := fun (s1 u : State) =>
      u.core.vq = s.core.vq ++ [vecDone s] ∧
      (l = [] → u = { s1 with core := u.core, launches := (countUp s1 (curCtx s1) (curLid s1) 1).launches } ∧ u.core.storeBuf = s1.core.storeBuf ∧ u.core.pc = nextPc s.core) ∧
      (l ≠ [] → StoredOnly s1 u ⟨(laneBytes w (readV s d) l).map fun y => (y.1.key, y.2), curCtx s,
        ((laneBytes w (readV s d) l).filter fun y => y.1.hs).map fun y => y.1.key, true, false⟩ 1) ∧
      (((l.flatMap Prod.snd).map Spot.key).Nodup → (laneBytes w (readV s d) l) =
        l.flatMap fun p => p.2.zip (toBytes (w / 8) (lane w p.1 (readV s d))))
    (vecAddr s a b true = .ok x → wholeLanes s h t x true = .ok (l, s1) → Gives (exec (.vst h t d a b) s) (stores s1)) ∧
    (resolveLanes s e e true (stridedLanes s h t g b) = .ok (l, s1) → Gives (exec (.vsts h t d g b) s) (stores s1)) ∧
    (resolveLanes s e e true (gatheredLanes s h t g c) = .ok (l, s1) → Gives (exec (.vscat h t d g c) s) (stores s1))

/-- RADVC, RADVP and RSTAT (R125, R251): a consumer moves HEAD on and FILLED down by k once k slots are filled; a producer moves TAIL on and
FILLED up by k once k are free, over slots that have arrived too; the pointers count modulo COUNT. -/
def Obligations.RingsAdvance : Prop :=
  ∀ (s : State) (h : Hdr) (d : WG) (q : Ring), Runs s h →
    let r := s.core.rings[q.ring.val]
    let k := ringK q
    let turns := fun (e : RingEntry) (t : State) => Follows s t ∧ t.core.rings = s.core.rings.set q.ring.val e ∧
      t.core = { s.core with rings := t.core.rings, pc := t.core.pc, srcPc := s.core.pc, blocked := none, early := [], loop := t.core.loop,
                             loopBuf := t.core.loopBuf }
    (r.valid = true → k ≤ r.count.toNat → k ≤ r.filled.toNat → Gives (exec (.radvc h q) s) (turns
      { r with head := BitVec.ofNat 6 ((r.head.toNat + k) % r.count.toNat), filled := r.filled - BitVec.ofNat 7 k })) ∧
    (r.valid = true → k ≤ r.count.toNat → r.filled.toNat < k → exec (.radvc h q) s = .next (standIn s .ring)) ∧
    (r.valid = true → r.filled.toNat + k ≤ r.count.toNat → r.arrived = 0 → Gives (exec (.radvp h q) s) (turns
      { r with tail := BitVec.ofNat 6 ((r.tail.toNat + k) % r.count.toNat), filled := r.filled + BitVec.ofNat 7 k })) ∧
    (r.valid = true → r.filled.toNat + k ≤ r.count.toNat → Gives (exec (.radvp h q) s) (turns (produce r k))) ∧
    (r.valid = false → exec (.radvc h q) s = .next (raise s .scalar .ringMisuse (r.base.zeroExtend 64)) ∧
      exec (.radvp h q) s = .next (raise s .scalar .ringMisuse (r.base.zeroExtend 64))) ∧
    Gives (exec (.rstat h d q) s) (WroteReg s · d (if r.valid then
      BitVec.ofNat 64 (r.filled.toNat + r.head.toNat * 2 ^ 8 + r.tail.toNat * 2 ^ 16 + r.count.toNat * 2 ^ 32 + 2 ^ 39) else 0))

/-- SEND and SENDL (R28, R252 to R254): with a legal header control word whose core belongs to the same context, and a route, one message with
the sender, the tag and the beats is put into the network, the counter moves on, and the instruction is done when its tail has gone. A network
that holds other messages may not take the header at once (R31; log 91): then the core waits with nothing sent. -/
def Obligations.SendsPutOneMessageInTheNetwork : Prop :=
  ∀ (s : State) (h : Hdr) (o : Sys2Proof.Ord) (sc : Scope) (d a : WG) (v : V) (b : WGI) (off : Nat), Runs s h →
    let w := readWG s d
    let n := (readWGI s b).toNat
    let dest := (w.extractLsb' 0 11).toNat
    let legal := w.extractLsb' 32 32 = 0 ∧ w.extractLsb' 11 5 = 0 ∧ coreEnabled s dest = true ∧ (getCore s dest).owner = some (curCtx s) ∧
      reaches s (dieOf s.core.id) (dieOf dest) = true
    let sent := fun (beats : List VReg) (t : State) =>
      t.core.nextMsg = s.core.nextMsg + 1 ∧ t.core.sending = some true ∧ t.core.pc = s.core.pc ∧
      (ordRel o = true → t.core.storeBuf = []) ∧
      t.network = s.network ++ [⟨⟨s.core.nextMsg, BitVec.ofNat 12 beats.length, ordRel o, if ordRel o then sc else .core,
        BitVec.ofNat 11 s.core.id, w.extractLsb' 16 16⟩, dest, curCtx s, beats, none, false⟩]
    (legal → s.core.sending = none → s.network ≠ [] → Gives (exec (.send h o sc d none) s) fun t =>
      if freeChoice s.free then t.core.sending = none ∧ t.core.blocked = some .send ∧ t.core.pc = s.core.pc ∧
        t.core.nextMsg = s.core.nextMsg ∧ t.network = s.network ∧ ∀ r, readWG t r = readWG s r
      else sent [] t) ∧
    (legal → s.core.sending = none → s.network = [] ∨ freeChoice s.free = false →
      Gives (exec (.send h o sc d none) s) (sent []) ∧
      (s.core.bank = .user → Gives (exec (.send h o sc d (some v)) s) (sent [readV s v])) ∧
      (n ≤ 4095 → ordRel o = false → ownTarget s (readWG s a) (max 1 (64 * n)) 64 false = .ok off →
        Gives (exec (.sendl h o sc d a b) s) (sent (localBeats s off n)))) ∧
    (legal → s.core.sending = some false →
      Gives (exec (.send h o sc d none) s) fun t => Follows s t ∧ t.core.sending = none) ∧
    (s.core.sending = none → (getCore s dest).owner ≠ some (curCtx s) → w.extractLsb' 32 32 = 0 → w.extractLsb' 11 5 = 0 → coreEnabled s dest = true →
      exec (.send h o sc d none) s = .next (raise s .scalar .pagePerm w))

/-- VSRED, VSMAC, VSMOV and CHEND (R32, R255): the running activation's message is consumed beat by beat into the active lanes, in order, and
with its last beat the instruction is done; where no beat has come VSMOV waits in the vector queue; CHEND drops what is left of it. -/
def Obligations.StreamsConsumeTheirMessage : Prop :=
  ∀ (s : State) (h : Hdr) (t : Ty) (d b : V) (n : Chan) (k : Machine.Task) (m : Channel), VecOpen s →
    s.core.task = some k → k.info.chan = some n → s.core.chans[n.val] = [m] → k.info.msg = some m.hdr → m.discard = false →
    let lanes := fun (f : Nat → Nat → Nat → Nat) (u : State) => u.core.vq = s.core.vq ++ [vecDone s] ∧ u.core.pc = nextPc s.core ∧
      (∀ r, r ≠ d → readV u r = readV s r) ∧ u.core.chans[n.val] = [{ m with beats := [] }] ∧ u.mem = s.mem ∧
      ∀ L < 16, lane 32 L (readV u d) = if (guardMask s h).getLsbD L then
        m.beats.foldl (fun acc x => f L acc (lane 32 L x) % 2 ^ 32) (lane 32 L (readV s d)) else lane 32 L (readV s d)
    ((∃ L < 16, LaneOn s h L) → m.hdr.len.toNat ≤ m.arrived →
      Gives (exec (.vsred h t d n) s) (lanes fun _ acc x => if t = .f32 then addBits .f32 acc x else acc + x) ∧
      (d ≠ b → Gives (exec (.vsmac h t d n b) s) (lanes fun L acc x =>
        if t = .f32 then fmaBits .f32 x (lane 32 L (readV s b)) acc else acc + x * lane 32 L (readV s b)))) ∧
    (∀ x r, guardBit s h = true → m.beats = x :: r → Gives (exec (.vsmov h d n) s) fun u =>
      u.core.vq = s.core.vq ++ [vecDone s] ∧ u.core.pc = nextPc s.core ∧ (∀ q, readV u q = if q = d then x else readV s q) ∧
      u.core.chans[n.val] = [{ m with beats := r }]) ∧
    (guardBit s h = true → m.beats = [] → m.arrived < m.hdr.len.toNat →
      exec (.vsmov h d n) s = .next (advance (pushVec s (some (vecTodo s.core (.vsmov h d n)))))) ∧
    (guardBit s h = true → m.arrived = m.hdr.len.toNat → m.waiting = false → Gives (exec (.chend h n) s) fun u =>
      u.core.pc = nextPc s.core ∧ u.core.chans[n.val] = [])

/-! ### Class 0xA and class 0xB: the matrix and the copy engine (spec/12) -/

namespace Sys2Proof.Machine

/-- The eight matrix commands (R87, R124, R155, R245, R256): with room in the queue the command enters it with its operands as they stand, its
launch counts one thing more, and the scalar core goes on; with two commands waiting the scalar core waits. The first command of a task of
another context is the one that finds the accumulator store zero. -/
def MatrixCommandsEnterTheirQueue : Prop :=
  ∀ (s : State) (h : Hdr) (ta tb : Ty) (n : BitVec 6) (d : WGI) (a b : WG) (o : Option WG), Runs s h →
    (∀ l ∈ s.launches, l.count + 1 < 2 ^ 32) →
    let enters := fun (i : Instr) (op : MOp) (n : BitVec 6) (x y z : Word) =>
      (s.core.mq.length < 2 → Gives (exec i s) fun t =>
        t.core.mq = s.core.mq ++ [⟨op, n.toNat, recordOf s x y 0 z, s.core.task.bind fun k => k.info.gang,
          (match s.core.task.bind fun k => k.info.gang with | some g => s.core.id - g.base | none => 0),
          (match s.core.task.bind fun k => k.info.gang with
            | some g => (gangCores g).any fun j => memberGone g (curCtx s) (curLid s) (getCore s j)
            | none => false), s.core.accStale⟩] ∧ t.core.accStale = false ∧
        t.launches = (countUp s (curCtx s) (curLid s) 1).launches ∧ t.core.pc = nextPc s.core ∧ t.mem = s.mem ∧
        ∀ r, readWG t r = readWG s r) ∧
      (2 ≤ s.core.mq.length → Gives (exec i s) fun t =>
        t.core.mq = s.core.mq ∧ t.core.pc = s.core.pc ∧ t.core.blocked = some .engineQueue ∧ t.launches = s.launches)
    enters (.mlda h ta tb a) (.mlda tb ta) 0 0 (readWG s a) 0 ∧
    enters (.mma h ta tb n d a o) (.mma ta tb) n (readWGI s d) (readWG s a) (readWGOpt s o) ∧
    enters (.mgang h ta tb n d a o) (.mgang ta tb) n (readWGI s d) (readWG s a) (readWGOpt s o) ∧
    enters (.mzero h n d) .mzero n (readWGI s d) 0 0 ∧
    enters (.mstf h n d a) .mstf n (readWGI s d) (readWG s a) 0 ∧
    enters (.mstq h n d a b) .mstq n (readWGI s d) (readWG s a) (readWG s b) ∧
    enters (.mstb h n d a) .mstb n (readWGI s d) (readWG s a) 0 ∧
    enters (.mldc h n d a) .mldc n (readWGI s d) (readWG s a) 0

/-- The copy commands (R124, R155, R245, R263, R266): with room in the queue the command enters it, to a register's address or to the ring
slots that a handle names. -/
def CopyCommandsEnterTheirQueue : Prop :=
  ∀ (s : State) (h : Hdr) (sc : Scope) (d : WGQ) (e a b : WG) (dest : CopyDest) (dw : Word), Runs s h →
    s.core.cq.length < 2 → (∀ l ∈ s.launches, l.count + 1 < 2 ^ 32) → copyDest s d = .ok (dest, dw) →
    let enters := fun (i : Instr) (kind : CopyKind) (dest : CopyDest) (x y z c : Word) => Gives (exec i s) fun t =>
      t.core.cq = s.core.cq ++ [⟨kind, sc, y, z, c, dest, recordOf s x y z c, [], [], [], false⟩] ∧
      t.launches = (countUp s (curCtx s) (curLid s) 1).launches ∧ t.core.pc = nextPc s.core ∧ t.mem = s.mem ∧
      ∀ r, readWG t r = readWG s r
    enters (.cpy h sc d a b) .cpy dest dw (readWG s a) 0 (readWG s b) ∧
    enters (.cpy2 h sc d a b) .cpy2 dest dw (readWG s a) (readWG s (nextReg a)) (readWG s b) ∧
    enters (.cpyg h sc d a b) .cpyg dest dw (readWG s a) (readWG s (nextReg a)) (readWG s b) ∧
    enters (.cpyz h sc d b) .cpyz dest dw 0 0 (readWG s b) ∧
    enters (.cpyb h sc e a b) .cpyb (.addr (readWG s e)) (readWG s e) (readWG s a) (readWG s (nextReg a)) (readWG s b)

end Sys2Proof.Machine

/-- The matrix and the copy commands (R124, R155, R245, R256, R263, R266): with room they enter their queue and the core goes on. -/
def Obligations.CommandsEnterTheirQueue : Prop := MatrixCommandsEnterTheirQueue ∧ CopyCommandsEnterTheirQueue

/-- MWAIT, MSTAT, CWAIT, CSTAT and CCANCEL (R262, R267): the waits end when no command of the activation, or of the tag, is left, and else
change nothing but the wait; CSTAT and CCANCEL count. That CCANCEL acts on every command of the tag as it is issued, once the copy queue has room,
and leaves copies that are stopped already out of its count, is the model's reading (log 40). -/
def Obligations.EngineWaitsAndStates : Prop :=
  ∀ (s : State) (h : Hdr) (d : WG) (b : WGI), Runs s h →
    let tag := (readWGI s b).toNat % 128
    let mine := fun (x : Copy) => field x.ctl.toNat 32 7 = tag
    (matrixPending s = false → Gives (exec (.mwait h) s) fun t => t.core.pc = nextPc s.core ∧ t.mem = s.mem ∧ ∀ r, readWG t r = readWG s r) ∧
    (matrixPending s = true → exec (.mwait h) s = .next (standIn s .matrix)) ∧
    Gives (exec (.mstat h d) s) (WroteReg s · d (mstatWord s.core)) ∧
    ((∀ x ∈ s.core.cq ++ s.core.flight, ¬ mine x) → Gives (exec (.cwait h b) s) fun t =>
      t.core.pc = nextPc s.core ∧ t.mem = s.mem ∧ ∀ r, readWG t r = readWG s r) ∧
    ((∃ x ∈ s.core.cq ++ s.core.flight, mine x) → exec (.cwait h b) s = .next (standIn s .copy)) ∧
    Gives (exec (.cstat h d b) s) (WroteReg s · d (BitVec.ofNat 64 (s.core.flight.length * 256 +
      (s.core.cq ++ s.core.flight).countP fun x => field x.ctl.toNat 32 7 == tag))) ∧
    (2 ≤ s.core.cq.length → Gives (exec (.ccancel h d b) s) fun t =>
      t.core.cq = s.core.cq ∧ t.core.pc = s.core.pc ∧ t.core.blocked = some .engineQueue) ∧
    (s.core.cq.length < 2 → Gives (exec (.ccancel h d b) s) fun t =>
      t.core.pc = nextPc s.core ∧ t.mem = s.mem ∧
      (∀ x ∈ t.core.cq, mine x → x.cancelled = true) ∧ (∀ x ∈ t.core.flight, mine x → x.cancelled = true) ∧
      t.core.flight.length = s.core.flight.length ∧
      ∀ r, readWG t r = if r = d ∧ d ≠ .g 0 then BitVec.ofNat 64 ((s.core.cq ++ s.core.flight).countP fun x =>
        field x.ctl.toNat 32 7 == tag && !x.cancelled) else readWG s r)

namespace Sys2Proof.Machine

/-- An engine command's event may happen: the core's cluster runs and no cut holds the command's launch. -/
def EngineReady (s : State) (k : Nat) (r : OpRec) : Prop := enginesRun s k = true ∧ engineHeld s r = false

end Sys2Proof.Machine

/-- MATRIX_CMD_START and MATRIX_CMD_COMPLETE (R37, R87, R155, R257 to R261, R300): the head of the queue enters the engine once the stores and the
vector memory accesses before it are performed; the first command of a task of another context finds the accumulator store zero and the latch
clear. What a command does is done at its end, which is the model's reading (log 16): MLDA fills the latch, MZERO zeroes the placed entries, MLDC
and MMA write accumulator entries, the stores write local memory. A gang operation starts on every member once it is the head of every member's
queue, faults ENGINE_CMD where a member has ended, and at its end adds to each member's entries its rows' products with every member's tile. A
command that may not run faults as it stands. -/
def Obligations.MatrixEngine : Prop :=
  ∀ (s u : State) (k : Nat) (m : MatrixCmd) (r : List MatrixCmd) (g : Gang) (ta tb : Ty),
    EngineReady s k m.rcd →
    (s.now = some (.matrixCmdStart k) → (getCore s k).mrun = none → (getCore s k).mq = m :: r →
      (engineWaits s k m.rcd = true → exec .matrixCmdStart s = .next s) ∧
      (engineWaits s k m.rcd = false → gangTypes m = none →
        Gives (exec .matrixCmdStart s) fun t => (getCore t k).mrun = some m ∧ (getCore t k).mq = r ∧ (getCore t k).storeBuf = [] ∧
          (getCore t k).acc = (if m.zero then [] else (getCore s k).acc) ∧
          (getCore t k).latch = (if m.zero then none else (getCore s k).latch)) ∧
      (engineWaits s k m.rcd = false → gangTypes m = some (ta, tb) → m.gang = some g → Sound s → k ∈ gangCores g →
        let ended := m.late = true ∨ ∃ j ∈ gangCores g, memberGone g m.rcd.ctx m.rcd.lid (getCore s j) = true
        let ready := fun (j : Nat) (x : MatrixCmd) => matrixHead s j = some x ∧ sameGang m x = true
        (ended → exec .matrixCmdStart s = .next (raiseEngine s m.rcd .matrix .engineCmd 0)) ∧
        (¬ ended → (∃ j ∈ gangCores g, ∀ x, ¬ ready j x) → exec .matrixCmdStart s = .next s) ∧
        (¬ ended → (∀ j ∈ gangCores g, ∃ x, ready j x ∧ gangFits s ta tb m.hm1 (2 ^ g.log) j x = true) →
          Gives (exec .matrixCmdStart s) fun t => ∀ j ∈ gangCores g, ∀ x, matrixHead s j = some x →
            (getCore t j).mrun = some x ∧ (getCore t j).mq = (getCore s j).mq.tail ∧
            (getCore t j).acc = (if x.zero then [] else (getCore s j).acc) ∧ (getCore t j).latch = (getCore s j).latch))) ∧
    (s.now = some (.matrixCmdComplete k) → (getCore s k).mrun = some m → gangTypes m = some (ta, tb) → m.gang = some g → Sound s →
      ∀ (c : Nat → MatrixCmd) (tile : Nat → Latch) (rows : Nat → List (Nat × Nat)),
        (∀ j ∈ gangCores g, (getCore s j).mrun = some (c j) ∧ (getCore s j).latch = some (tile j) ∧
          matrixRows s.mem j ta (c j) = .ok (rows j)) →
        Gives (exec .matrixCmdComplete s) fun t => t.mem = s.mem ∧ ∀ j ∈ gangCores g,
          (getCore t j).mrun = none ∧ (getCore t j).latch = some (tile j) ∧
          (getCore t j).acc = (List.range (2 ^ g.log)).foldl (fun acc i =>
            let n := ((c j).member + 2 ^ g.log - i) % 2 ^ g.log
            accBlock acc (tile (g.base + n)) (rows j) (row0 (c j).rcd.d) (cblk (c j).rcd.d + n)) (getCore s j).acc) ∧
    (s.now = some (.matrixCmdComplete k) → (getCore s k).mrun = some m → gangTypes m = none →
      (performMatrix s k m = .ok u → Gives (exec .matrixCmdComplete s) fun t =>
        (getCore t k).mrun = none ∧ (getCore t k).acc = (getCore u k).acc ∧ (getCore t k).latch = (getCore u k).latch ∧
        t.mem = u.mem) ∧
      (∀ c a, performMatrix s k m = .error (c, a) →
        exec .matrixCmdComplete s = .next (raiseEngine (matrixGone s k m) m.rcd .matrix c a)))

/-- What a matrix command does (R87, R257 to R261): it changes its own core's latch or accumulator store, or its own core's local memory, and
nothing else; MZERO leaves zero in every entry it places and every other entry as it was. -/
def Obligations.MatrixCommandsKeepToTheirCore : Prop :=
  ∀ (s u : State) (k : Nat) (m : MatrixCmd), Sound s → performMatrix s k m = .ok u →
    (∀ j, j ≠ k → getCore u j = getCore s j) ∧
    (getCore u k = { getCore s k with acc := (getCore u k).acc, latch := (getCore u k).latch }) ∧
    (∀ j, (j < localKey k 0 ∨ localKey (k + 1) 0 ≤ j) → memGet u.mem j = memGet s.mem j) ∧
    (m.op = .mzero → row0 m.rcd.d + m.hm1 < 128 ∧ u.mem = s.mem ∧ (getCore u k).latch = (getCore s k).latch ∧
      ∀ row col, col < 256 → accGet (getCore u k).acc (accKey row col) =
        if row0 m.rcd.d ≤ row ∧ row ≤ row0 m.rcd.d + m.hm1 ∧ 32 * cblk m.rcd.d ≤ col ∧ col < 32 * (cblk m.rcd.d + nblk m.rcd.d + 1) then 0
        else accGet (getCore s k).acc (accKey row col))

/-- COPY_CMD_ACCEPT, COPY_BEAT_COMPLETE, COPY_COMPLETE and VECTOR_CMD_TAKE (R79, R124, R153, R155, R264 to R267, R300): the head of the copy queue
starts after the core's stores and its vector memory accesses; a beat moves its bytes, is marked, and with its bytes adds to the arrival word as
R153 says, as a release where GEN changes; a copy with every beat done leaves the engine. The event names the beat of the chunk (log 13), and
some bytes of a beat may have reached the banks before it (log 6): these are the model's. A vector command behind one that waits stays in the
queue with its operands; the engine performs it with them, and takes it out once it is performed. -/
def Obligations.CopyEngine : Prop :=
  ∀ (s u : State) (k i beat n rank : Nat) (mask : BitVec 64) (x y : Copy) (r : List Copy) (e : VecCmd) (q pre post : List VecCmd) (todo : VecTodo)
    (h : Hdr) (t : Ty) (d v : V) (aw : BitVec 24) (key word units : Nat),
    (s.now = some (.copyCmdAccept k) → EngineReady s k x.rcd → (getCore s k).cq = x :: r → engineWaits s k x.rcd = true →
      exec .copyCmdAccept s = .next s) ∧
    (s.now = some (.copyCmdAccept k) → EngineReady s k x.rcd → (getCore s k).cq = x :: r → engineWaits s k x.rcd = false →
      (getCore s k).flight.length < 128 →
      startCopy (modCore (drainAll s k) k fun c => { c with cq := r }) x = .ok y → beatCount y ≠ 0 →
      Gives (exec .copyCmdAccept s) fun t => (getCore t k).cq = r ∧ (getCore t k).flight = (getCore s k).flight ++ [y] ∧
        (getCore t k).storeBuf = [] ∧ t.launches = s.launches) ∧
    (s.now = some (.copyBeatComplete k i beat) → EngineReady s k x.rcd → (getCore s k).flight[i]? = some x → copyEnded x = false →
      beat < 2 ^ 32 → cpAw x = none → moveBeat s x (pickBeat x beat) (fun _ _ => true) = .ok (n, rank, mask, u) →
      Gives (exec .copyBeatComplete s) fun t => t.mem = u.mem ∧ (getCore t k).flight[i]? =
        some { x with done := x.done ++ [pickBeat x beat], landed := assocDel x.landed (pickBeat x beat) }) ∧
    (let count := field word 16 24 + units
      let target := field word 40 24
      let new := (arrivalStep word units).1
      word < 2 ^ 64 → field new 40 24 = target ∧
        field new 16 24 = (if target = 0 then min count (2 ^ 24 - 1) else count % target) ∧
        field new 0 16 = (if target = 0 then field word 0 16 else (field word 0 16 + count / target) % 2 ^ 16) ∧
        ((arrivalStep word units).2 = true ↔ target ≠ 0 ∧ target ≤ count)) ∧
    (s.now = some (.copyBeatComplete k i beat) → EngineReady s k x.rcd → (getCore s k).flight[i]? = some x → copyEnded x = false →
      beat < 2 ^ 32 → cpAw x = some aw → moveBeat s x (pickBeat x beat) (fun _ _ => true) = .ok (n, rank, mask, u) →
      arrivalAt u (engineAcc u x.rcd) (beatArrival x aw rank) = .ok key →
      let step := arrivalStep (memRead u.mem key 8) n
      Gives (exec .copyBeatComplete s) fun t =>
        (step.2 = false ∨ (getCore u k).storeBuf = [] ∧ (∀ z ∈ (getCore u k).l1, z.st ≠ .rd) → t.mem = memWrite u.mem key 8 step.1) ∧
        (step.2 = true → (getCore t k).storeBuf = [])) ∧
    (s.now = some (.copyComplete k i) → (getCore s k).flight[i]? = some x → copyEnded x = true →
      Gives (exec .copyComplete s) fun t => (getCore t k).flight = dropAt (getCore s k).flight i ∧ t.mem = s.mem ∧
        t.launches = (countDown s x.rcd.ctx x.rcd.lid 1).launches) ∧
    (s.now = some (.vectorCmdTake k) → (getCore s k).vq = e :: q → workHeld s e.ctx e.lid = false → enginesRun s k = true →
      (e.todo = none → Gives (exec .vectorCmdTake s) fun t =>
        getCore t k = { getCore s k with vq := q } ∧ (∀ j, j ≠ k → getCore t j = getCore s j) ∧
        t.launches = (countDown s e.ctx e.lid 1).launches) ∧
      (e.todo.isSome → Gives (exec .vectorCmdTake s) fun t => t = { s with agenda := .vecTurn k :: s.agenda })) ∧
    (s.core.bank = .user → s.core.vq.length < 2 → vecWaits s.core = true → (∀ l ∈ s.launches, l.count + 1 < 2 ^ 32) →
      Gives (exec (.vfabs h t d v) s) fun u => u.core.vq = s.core.vq ++ [{ vecDone s with todo := some (vecTodo s.core (.vfabs h t d v)) }] ∧
        u.core.v = s.core.v ∧ u.core.pc = nextPc s.core ∧ u.launches = (countUp s (curCtx s) (curLid s) 1).launches) ∧
    (vecReady s = some (pre, e, todo, post) → exec todo.instr (vecStart s e todo) = .next u → vecTurn s = .next (vecEnd s u pre e todo post))

/-! ### Class 0xC: the rake (spec/02; spec/12) -/

/-- RKDECL, RKSWEEP, RKWAIT, RKSTAT, RKWAKE and RKNEXT (R41 to R44, R268 to R270): the commands enter the rake's queue; RKWAKE makes a coal that
waits awake, with its cause and its skip bit clear, and leaves one that is done. It takes effect at once, behind the position of a sweep of its
clamp, and at it where no handler runs, with the pending-wake bit; at the position of a running handler it is held for the end of that beat (R43).
RKNEXT is illegal outside a coal handler, and in one it ends the handler. -/
def Obligations.RakeInstructions : Prop :=
  ∀ (s : State) (h : Hdr) (c : BitVec 6) (d a : WG) (x y : WGI) (k : Clamp), Sound s →
    (Runs s h → s.core.kq.length < 2 → (∀ l ∈ s.launches, l.count + 1 < 2 ^ 32) →
      (Gives (exec (.rkdecl h c a) s) fun t => t.core.kq = s.core.kq ++ [.decl c.toNat (recordOf s 0 (readWG s a) 0 0)] ∧
        t.launches = (countUp s (curCtx s) (curLid s) 1).launches ∧ t.core.pc = nextPc s.core ∧ t.mem = s.mem) ∧
      (Gives (exec (.rksweep h c) s) fun t => t.core.kq = s.core.kq ++ [.sweep c.toNat (recordOf s 0 0 0 0)] ∧
        t.launches = (countUp s (curCtx s) (curLid s) 1).launches ∧ t.core.pc = nextPc s.core ∧ t.mem = s.mem)) ∧
    (Runs s h → (clampOf s.core c.toNat = none ∨ sweeping s.core c.toNat = false) → Gives (exec (.rkwait h c) s) fun t =>
      t.core.pc = nextPc s.core ∧ t.mem = s.mem ∧ ∀ r, readWG t r = readWG s r) ∧
    (Runs s h → clampOf s.core c.toNat = some k → sweeping s.core c.toNat = true → exec (.rkwait h c) s = .next (standIn s .rake)) ∧
    (Runs s h → Gives (exec (.rkstat h c d) s) (WroteReg s · d (rkstatWord s.core c.toNat))) ∧
    (Runs s h → s.core.storeBuf = [] → clampOf s.core c.toNat = some k → (readWGI s x).toNat < k.size →
      let i := (readWGI s x).toNat
      let key := coalKey s.core.id k i
      let sweeps := fun (w : Sweep) (p : Nat) => s.core.sweep = some w ∧ w.c = c.toNat ∧ w.pos = some p
      let ahead := ∀ w p, sweeps w p → p < i / 8
      let behind := ∃ w p, sweeps w p ∧ (i / 8 < p ∨ i / 8 = p ∧ w.running = false)
      (ahead ∨ behind →
        (memGet s.mem key = 1 ∨ memGet s.mem key = 2 → skipKey s.core.id k i ≠ key → skipKey s.core.id k i ≠ key + 1 →
          Gives (exec (.rkwake h c x y) s) fun t => t.core.pc = nextPc s.core ∧ memGet t.mem key = 2 ∧
            memGet t.mem (key + 1) = (readWGI s y).extractLsb' 0 8 ∧ skipBit t.mem s.core.id k i = false ∧
            (∀ j, j ≠ key → j ≠ key + 1 → j ≠ skipKey s.core.id k i → memGet t.mem j = memGet s.mem j) ∧
            (ahead → t.core.clamps = s.core.clamps) ∧ (behind → clampOf t.core c.toNat = some { k with pending := true })) ∧
        (memGet s.mem key ≠ 1 → memGet s.mem key ≠ 2 → Gives (exec (.rkwake h c x y) s) (WroteNothing s))) ∧
      (∀ w, sweeps w (i / 8) → w.running = true → Gives (exec (.rkwake h c x y) s) fun t =>
        t.mem = s.mem ∧ t.core.pc = nextPc s.core ∧ t.core.clamps = s.core.clamps ∧
        t.core.sweep = some { w with held := w.held ++ [(i, (readWGI s y).extractLsb' 0 8)] })) ∧
    (s.core.bank ≠ .coal → Gives (exec (.rknext h) s) fun t => s.core.bank = .user → FaultTaken s t s.core.pc .scalar .illegalInsn s.core.pc) ∧
    (∀ w p, s.core.bank = .coal → guardBit s h = true → h.gp.val < 2 → s.core.sweep = some w → w.pos = some p →
      clampOf s.core w.c = some k → Gives (exec (.rknext h) s) fun t =>
        t.core.sweep = some { w with running := false, held := [] } ∧
        (w.held = [] → t.mem = (List.range 8).foldl (fun m L => putLane m s.core.id k s.core.coal p L) s.mem) ∧
        (w.held = [] → s.core.coal.p1 = 0 → t.mem = s.mem))

/-- RAKE_CMD_TAKE, RAKE_BEAT_SAMPLE and RAKE_SWEEP_END (R42, R44, R144, R269, R270, R300): a command is taken once no sweep runs and the stores and
vector memory accesses before it are performed. A declaration fills its record from its block, and faults on reserved bits, a misaligned coal
array and a range that leaves local memory; a sweep starts before its first beat with AUTOS and PENDING zero; each sample moves it one beat on
and runs the handler where some lane is awake; after the last beat the command ends, or an automatic sweep follows while RLIMIT allows. -/
def Obligations.SweepsGoBeatByBeat : Prop :=
  ∀ (s : State) (k n : Nat) (o : OpRec) (c : Clamp) (w : Sweep) (r : List RakeCmd) (p off : Nat),
    (s.now = some (.rakeCmdTake k) → EngineReady s k o → (getCore s k).kq = .decl n o :: r → (getCore s k).sweep = none →
      engineWaits s k o = false → (getCore s k).storeBuf = [] → n < 4 → engineLocal k o.a 32 8 = .ok off →
      let x := localNat s.mem k off 32
      let old := clampRec (getCore s k) n
      let ebase := field x 64 19
      let cbase := field x 83 19
      let sbase := field x 102 19
      let size := field x 128 16 + 1
      let faults := fun (code : FCode) (a : Word) =>
        exec .rakeCmdTake s = .next (raiseEngine (modCore s k fun y => { y with kq := r }) o .rake code a)
      let bad := field x 56 8 ≠ 0 ∨ field x 121 7 ≠ 0 ∨ field x 155 101 ≠ 0 ∨ old.valid = true ∧ ¬ (old.ctx = o.ctx ∧ old.lid = o.lid)
      let out := fun (base bytes : Nat) => 2 ^ 19 < base + bytes
      (bad → faults .engineCmd 0) ∧
      (¬ bad → cbase % 8 ≠ 0 → faults .align (BitVec.ofNat 64 (localBase + cbase))) ∧
      (¬ bad → cbase % 8 = 0 → ¬ out ebase (2 ^ field x 144 2 * size) → ¬ out cbase (8 * size) → ¬ out sbase ((size + 7) / 8) →
        Gives (exec .rakeCmdTake s) fun t => t.mem = s.mem ∧ (getCore t k).kq = r ∧
          t.launches = (countDown s o.ctx o.lid 1).launches ∧ (∀ m, m ≠ n → clampRec (getCore t k) m = clampRec (getCore s k) m) ∧
          ∃ y, clampOf (getCore t k) n = some y ∧ y.handler.toNat = field x 0 56 ∧ y.ebase.toNat = ebase ∧ y.cbase.toNat = cbase ∧
            y.sbase.toNat = sbase ∧ y.ecount.toNat = field x 128 16 ∧ y.esize.toNat = field x 144 2 ∧ y.auto = x.testBit 146 ∧
            y.rlimit.toNat = field x 147 8 ∧ y.autos = old.autos ∧ y.pending = old.pending ∧ y.ctx = o.ctx ∧ y.lid = o.lid) ∧
      (¬ bad → cbase % 8 = 0 → (out ebase (2 ^ field x 144 2 * size) ∨ out cbase (8 * size) ∨ out sbase ((size + 7) / 8)) →
        ∃ a, faults .lmAddr a)) ∧
    (s.now = some (.rakeCmdTake k) → EngineReady s k o → ((getCore s k).kq = .sweep n o :: r ∨ (getCore s k).kq = .decl n o :: r) →
      ((getCore s k).sweep.isSome = true ∨ engineWaits s k o = true) → exec .rakeCmdTake s = .next s) ∧
    (s.now = some (.rakeCmdTake k) → EngineReady s k o → (getCore s k).kq = .sweep n o :: r → (getCore s k).sweep = none →
      engineWaits s k o = false → n < 4 →
      clampOf (getCore s k) n = some c → Gives (exec .rakeCmdTake s) fun t =>
        (getCore t k).kq = r ∧ (getCore t k).sweep = some ⟨n, none, false, [], o, []⟩ ∧
        clampOf (getCore t k) n = some { c with autos := 0, pending := false }) ∧
    (s.now = some (.rakeBeatSample k) → EngineReady s k w.rcd → (getCore s k).sweep = some w → clampOf (getCore s k) w.c = some c →
      w.running = false → (w.pos = none ∧ p = 0 ∨ w.pos = some (p - 1) ∧ 0 < p) → p < c.beats →
      Gives (exec .rakeBeatSample s) fun t => t.mem = s.mem ∧
        ((∃ L < 8, laneAwake s.mem k c p L = true) → (getCore t k).sweep = some { w with pos := some p, running := true } ∧
          (getCore t k).coal.pc = c.handler.zeroExtend 64 ∧ (getCore t k).coal.ran = 0 ∧
          ∀ L < 8, (getCore t k).coal.p1.getLsbD L = laneAwake s.mem k c p L) ∧
        ((∀ L < 8, laneAwake s.mem k c p L = false) → (getCore t k).sweep = some { w with pos := some p, running := false })) ∧
    (s.now = some (.rakeSweepEnd k) → EngineReady s k w.rcd → (getCore s k).sweep = some w → clampOf (getCore s k) w.c = some c →
      w.running = false → w.pos = some (c.beats - 1) → 0 < c.beats → w.c < 4 → Gives (exec .rakeSweepEnd s) fun t =>
        ((c.pending = true ∧ c.auto = true ∧ c.autos.toNat < c.rlimit.toNat) → (getCore t k).sweep = some { w with pos := none } ∧
          clampOf (getCore t k) w.c = some { c with pending := false, autos := c.autos + 1 }) ∧
        (¬ (c.pending = true ∧ c.auto = true ∧ c.autos.toNat < c.rlimit.toNat) → (getCore t k).sweep = none ∧
          t.launches = (countDown s w.rcd.ctx w.rcd.lid 1).launches))

/-! ### Class 0xD: work (spec/12; spec/14) -/

/-- SPAWN, LAUNCH and GLAUNCH (R25, R127, R161, R271 to R273): SPAWN adds a run-queue entry of its launch, or answers FULL where no general
entry is free or a header waits for one (R49); LAUNCH and GLAUNCH
enter one launch or graph, unplaced, into the store of the die or of the walker, and answer its identifier; a full store, or one whose free entries
belong to held packets and graphs, answers FULL and counts a refusal. That a free entry counts as taken where a held packet or graph waits for it is
the model's reading of R127 (log 103), and that SPAWN answers FULL while a header waits is inferred from R49, which gives the freed entry to it. -/
def Obligations.WorkIsEntered : Prop :=
  ∀ (s s1 s2 : State) (h : Hdr) (d a : WG) (b : WGI) (k : Machine.Task) (p : Nat) (sub : SubLaunch) (c : Ctx), Runs s h →
    (s.core.task = some k → s.core.runq.length < 28 → headerWaits s.core = false → (∀ l ∈ s.launches, l.count + 1 < 2 ^ 32) →
      Gives (exec (.spawn h d a b) s) fun t => (∃ x, t.core.runq = s.core.runq ++ [⟨.spawned, x⟩] ∧
        x.entry = readWG s a ∧ x.arg = readWGI s b ∧ x.ctx = k.info.ctx ∧ x.lid = k.info.lid ∧ x.sub = k.info.sub ∧ x.origin = 0) ∧
        t.launches = (countUp s k.info.ctx k.info.lid 1).launches ∧ t.core.pc = nextPc s.core ∧
        ∀ r, readWG t r = if r = d ∧ d ≠ .g 0 then 0 else readWG s r) ∧
    (s.core.task = some k → (28 ≤ s.core.runq.length ∨ headerWaits s.core = true) → Gives (exec (.spawn h d a b) s) (WroteReg s · d 1)) ∧
    (load s (readWG s a) 64 64 = .ok (p, s1) → pkType p = 1 → pkLink p = 0 → readBlocks coreReader false s1 p = .ok (some sub, s2) →
      let st := dieOf s.core.id
      let u := release s2 s.core.id .pkg
      s.core.id < 1032 →
      (storeTaken u st = true → Gives (exec (.launch h d a) s) fun t => t.refusals = (refuse u st).refusals ∧ t.launches = u.launches ∧
        ∀ r, readWG t r = if r = d ∧ d ≠ .g 0 then 1 else readWG s r) ∧
      (storeTaken u st = false → getCtx u (taskIssuer u).ctx = some c → Gives (exec (.launch h d a) s) fun t =>
        (∃ l, t.launches = u.launches ++ [l] ∧ l.ctx = (taskIssuer u).ctx ∧ l.lid = BitVec.ofNat 32 c.nextLid ∧ l.subs = [sub] ∧ l.count = 0 ∧
          l.store = st) ∧
        (∃ e, storeOf t st = storeOf u st ++ [e] ∧ e.ctx = (taskIssuer u).ctx ∧ e.ident = BitVec.ofNat 32 c.nextLid ∧ e.isGraph = false) ∧
        ∀ r, readWG t r = if r = d ∧ d ≠ .g 0 then (BitVec.ofNat 32 c.nextLid).zeroExtend 64 <<< 32 else readWG s r)) ∧
    (let x := (readWGI s b).toNat
      let n := x % 2 ^ 17
      let walker := x / 2 ^ 17
      let u := release s s.core.id .pkg
      (readWG s a).toNat % 32 = 0 → 1 ≤ n → n ≤ 65536 → walker ≤ 4 → reaches s (cacheOf (coreAcc s)) walker = true →
      (storeTaken u walker = true → Gives (exec (.glaunch h d a b) s) fun t => t.refusals = (refuse u walker).refusals ∧ t.graphs = u.graphs ∧
        ∀ r, readWG t r = if r = d ∧ d ≠ .g 0 then 1 else readWG s r) ∧
      (storeTaken u walker = false → getCtx u (taskIssuer u).ctx = some c → Gives (exec (.glaunch h d a b) s) fun t =>
        (∃ g, t.graphs = u.graphs ++ [g] ∧ g.base = readWG s a ∧ g.nodes = n ∧ g.walker = walker ∧ g.node = 0 ∧
          g.gid = BitVec.ofNat 32 c.nextGid) ∧
        (∃ e, storeOf t walker = storeOf u walker ++ [e] ∧ e.isGraph = true ∧ e.ident = BitVec.ofNat 32 c.nextGid) ∧
        ∀ r, readWG t r = if r = d ∧ d ≠ .g 0 then (BitVec.ofNat 32 c.nextGid).zeroExtend 64 <<< 32 else readWG s r))

/-- CANCEL and COMPL (R47, R155, R274, R301) complete in every state of a task, for every level and operand: D is written before the work
that CANCEL names is retired, and COMPL that reads 0 acquires at PKG. On work that is not there CANCEL answers 3 and COMPL what R274 gives; CANCEL of a launch retires it
and answers 0; COMPL reads the launch's completion counter and whether work is unplaced. -/
def Obligations.CancelAndCompl : Prop :=
  ∀ (s : State) (h : Hdr) (lvl : Level) (d : WG) (a : WGI) (l : Launch), Runs s h →
    (∃ t, exec (.cancel h lvl d a) s = .next t ∧
      t = match (cancelled s lvl (curCtx s) (readWGI s a)).1 with
        | .absent => advance (writeWG s d 3)
        | .here => (cancelled (advance (writeWG s d 0)) lvl (curCtx s) (readWGI s a)).2) ∧
    (∃ t, exec (.compl h lvl d a) s = .next t ∧
      t = let x := complWord s lvl (curCtx s) (readWGI s a)
        advance (writeWG (if x = 0 then acquire s s.core.id .pkg else s) d x)) ∧
    ((cancelled s lvl (curCtx s) (readWGI s a)).1 = .absent → Gives (exec (.cancel h lvl d a) s) (WroteReg s · d 3)) ∧
    (getLaunch s (curCtx s) ((readWGI s a).extractLsb' 0 32) = some l → l.lid ≠ curLid s →
      Gives (exec (.cancel h .launch d a) s) fun t => getLaunch t (curCtx s) l.lid = none ∧
        ∀ r, readWG t r = if r = d ∧ d ≠ .g 0 then 0 else readWG s r) ∧
    Gives (exec (.compl h lvl d a) s) fun t => t.core.pc = nextPc s.core ∧
      ∀ r, readWG t r = if r = d ∧ d ≠ .g 0 then complWord s lvl (curCtx s) (readWGI s a) else readWG s r

/-- BIND and UNBIND (R134, R275): a free tag takes a new route while fewer than 64 are bound, the own launch's is replaced, another launch's stays
and answers 2; UNBIND removes the own launch's route of the tag alone. -/
def Obligations.RoutesBindAndUnbind : Prop :=
  ∀ (s : State) (h : Hdr) (d a b : WG) (g : WGI), Runs s h →
    let x := readWG s b
    let r := routeOf s (readWG s a) (readWG s (nextReg a)) x
    let others := fun (t : State) (v : Word) => t.core.pc = nextPc s.core ∧ t.mem = s.mem ∧
      ∀ q, readWG t q = if q = d ∧ d ≠ .g 0 then v else readWG s q
    (x.toNat < 2 ^ 22 →
      ((∀ y ∈ s.core.routes, y.tag ≠ r.tag) → s.core.routes.length < 64 → Gives (exec (.bind h d a b) s) fun t =>
        others t 0 ∧ t.core.routes = s.core.routes ++ [r]) ∧
      ((∀ y ∈ s.core.routes, y.tag ≠ r.tag) → 64 ≤ s.core.routes.length → Gives (exec (.bind h d a b) s) fun t =>
        others t 1 ∧ t.core.routes = s.core.routes) ∧
      ((∃ y, s.core.routes.find? (fun y => y.tag == r.tag) = some y ∧ ownRoute s y = false) → Gives (exec (.bind h d a b) s) fun t =>
        others t 2 ∧ t.core.routes = s.core.routes) ∧
      ((∃ y, s.core.routes.find? (fun y => y.tag == r.tag) = some y ∧ ownRoute s y = true) → Gives (exec (.bind h d a b) s) fun t =>
        others t 0 ∧ t.core.routes = s.core.routes.map fun y => if y.tag = r.tag then r else y)) ∧
    (let tag := (readWGI s g).extractLsb' 0 16
      let mine := fun (y : Route) => y.tag = tag ∧ y.ctx = curCtx s ∧ y.lid = curLid s
      ((∃ y ∈ s.core.routes, mine y) → Gives (exec (.unbind h d g) s) fun t =>
        others t 0 ∧ (∀ y, y ∈ t.core.routes ↔ y ∈ s.core.routes ∧ ¬ mine y)) ∧
      ((∀ y ∈ s.core.routes, ¬ mine y) → Gives (exec (.unbind h d g) s) fun t => others t 3 ∧ t.core.routes = s.core.routes))

/-- KINDLE, MIGRATE, TKCMT, TKWSET, TKWCLR, NOTIFY and IDLE (R276 to R279, R354, R357): a B of KINDLE in the local window names an arrival word, and
faults ALIGN, LM_ADDR or PAGE_PERM where it is none; without the wake grant KINDLE and MIGRATE answer 4; with
it a KINDLE chooses clusters, what it lacks waits at the hub with the arrival word, and every LPDDR-6 channel wakes (R353). That MIGRATE tries
NO_GRANT before RANGE before SAME is the model's choice (log 107). A row with no place is answered at once, any other request goes to the watch unit and the task waits for its
result, which is then written to D; IDLE ends the task, and its own trap with it, and the core sleeps where no other entry waits. -/
def Obligations.PowerWatchAndIdle : Prop :=
  ∀ (s u : State) (h : Hdr) (cls : WakeClass) (sc : Scope) (d b : WG) (a : WGI) (v : V) (idx cnt : BitVec 6) (w : Word) (k : Machine.Task)
    (word : Option (Nat × BitVec 24)), Runs s h →
    let wrote := fun (x : Word) (t : State) => t.core.pc = nextPc s.core ∧ ∀ r, readWG t r = if r = d ∧ d ≠ .g 0 then x else readWG s r
    let asks := fun (q : WatchReq) (t : State) => t.hub.watchQueue = s.hub.watchQueue ++ [q] ∧ t.core.watchResult = some none ∧
      t.core.pc = s.core.pc ∧ ∀ r, readWG t r = readWG s r
    (let x := (readWG s b).toNat
      let la := x - localBase
      let peer := if la.testBit 23 then 8 * (s.core.id / 8) + la / 2 ^ 20 % 8 else s.core.id
      let faults := fun (code : FCode) => exec (.kindle h cls sc d a b) s = .next (raise s .scalar code (readWG s b))
      (x < localBase ∨ localBase + 2 ^ 24 ≤ x → arrivalWord s (readWG s b) = .ok none) ∧
      (localBase ≤ x → x < localBase + 2 ^ 24 →
        (x % 8 ≠ 0 → faults .align) ∧
        (x % 8 = 0 → la.testBit 19 = true → faults .lmAddr) ∧
        (x % 8 = 0 → la.testBit 19 = false → peer ≠ s.core.id → (getCore s peer).owner ≠ some (curCtx s) → faults .pagePerm) ∧
        (x % 8 = 0 → la.testBit 19 = false →
          (peer = s.core.id ∨ (getCore s peer).owner = some (curCtx s) ∧ (getCore s peer).clearing = false) →
          arrivalWord s (readWG s b) = .ok (some (peer, BitVec.ofNat 24 (la % 2 ^ 19)))))) ∧
    (arrivalWord s (readWG s b) = .ok word → reaches s (cacheOf (coreAcc s)) 4 = true →
      (wakeGranted s (curCtx s) = false → Gives (exec (.kindle h cls sc d a b) s) (WroteReg s · d 4)) ∧
      (wakeGranted s (curCtx s) = true → (readWGI s a = 0 ∨ enabledCount s < (readWGI s a).toNat) →
        Gives (exec (.kindle h cls sc d a b) s) (WroteReg s · d 5)) ∧
      (wakeGranted s (curCtx s) = true → readWGI s a ≠ 0 → (readWGI s a).toNat ≤ enabledCount s →
        Gives (exec (.kindle h cls sc d a b) s) fun t => wrote 0 t ∧
          let asked := askWake s ⟨curCtx s, some (curLid s), word, sc, cls, some s.core.id⟩ (readWGI s a).toNat
          t.hub = asked.hub ∧ t.clusters = asked.clusters ∧ t.hub.awake = List.range 96 ∧ t.mem = s.mem)) ∧
    (reaches s (cacheOf (coreAcc s)) 4 = false → exec (.migrate h d a) s = .next (raise s .scalar .machineCheck s.core.pc)) ∧
    (reaches s (cacheOf (coreAcc s)) 4 = true →
      (wakeGranted s (curCtx s) = false → Gives (exec (.migrate h d a) s) (WroteReg s · d 4)) ∧
      (wakeGranted s (curCtx s) = true → 2 ≤ (readWGI s a).toNat → Gives (exec (.migrate h d a) s) (WroteReg s · d 5)) ∧
      (wakeGranted s (curCtx s) = true → (readWGI s a).toNat < 2 → (readWGI s a = 1 ↔ isEmber s.core.id = true) →
        Gives (exec (.migrate h d a) s) fun t => wrote 6 t ∧ (∀ c ∈ t.cuts, ∀ m, c.migrate = some m → m.1 ≠ curCtx s) ∧
          ∀ e, getCtx t (curCtx s) = some e → e.migrating = none) ∧
      (∀ c, wakeGranted s (curCtx s) = true → (readWGI s a).toNat < 2 → ¬ (readWGI s a = 1 ↔ isEmber s.core.id = true) →
        getCtx s (curCtx s) = some c → Gives (exec (.migrate h d a) s) fun t =>
          wrote 0 t ∧ ∃ e, getCtx t (curCtx s) = some e ∧ e.migrating = some (readWGI s a == 1))) ∧
    (s.core.trapDue = none → s.core.watchResult = none → noRow s (readWGI s a) = true →
      (s.core.bank = .user → Gives (exec (.tkcmt h cnt d a v) s) (WroteReg s · d closedWord)) ∧
      Gives (exec (.tkwclr h idx d a) s) (WroteReg s · d 3)) ∧
    (s.core.trapDue = none → s.core.watchResult = none → noRow s (readWGI s a) = false → reaches s (cacheOf (coreAcc s)) 4 = true →
      (s.core.bank = .user → Gives (exec (.tkcmt h cnt d a v) s) (asks (.commit s.core.id (curCtx s) (readWGI s a)
        ((List.range cnt.toNat).map fun i => BitVec.ofNat 24 (lane 32 i (readV s v)))))) ∧
      Gives (exec (.tkwclr h idx d a) s) (asks (.clear s.core.id (curCtx s) (readWGI s a) idx.toNat)) ∧
      (∀ off, let n := if idx = 4 then 32 else 64
        ownTarget s (readWG s b) n 8 true = .ok off → imageOk idx.toNat (readOwn s off n) = true →
        Gives (exec (.tkwset h idx d a b) s)
          (asks (.setEntry s.core.id (curCtx s) (readWGI s a) idx.toNat (toBytes n (readOwn s off n)))))) ∧
    (s.core.trapDue = none → s.core.watchResult = some (some (.ok w)) → field w.toNat 8 8 ≠ 5 →
      (s.core.bank = .user → Gives (exec (.tkcmt h cnt d a v) s) fun t => wrote w t ∧ t.core.watchResult = none) ∧
      (Gives (exec (.tkwclr h idx d a) s) fun t => wrote w t ∧ t.core.watchResult = none) ∧
      (Gives (exec (.tkwset h idx d a b) s) fun t => wrote w t ∧ t.core.watchResult = none)) ∧
    (notifyTarget (release s s.core.id .sys) (coreAcc s) (readWG s b) (readWGI s a) = .ok u →
      exec (.notify h b a) s = .next (advance u)) ∧
    (s.core.bank = .user → s.core.task = some k → s.core.cutGoal = none → Gives (exec (.idle h) s) fun t =>
      TaskEnded s t k (release s s.core.id .sys).mem ∧
      (t.core.idling = true ↔ (∀ r ∈ s.core.svcq, r.own = true) ∧ s.core.runq = [] ∧ s.core.deque = []))

/-! ### Class 0xE: the system (spec/12; spec/03; spec/15) -/

/-- SRD and SWR (R61 to R67, R281): SRD writes the register's word to D; SWR writes the named fields of a writable register and nothing else. That
SWR of TRAPPC has no effect outside a service task is the model's reading (log 55). -/
def Obligations.SpecialRegisters : Prop :=
  ∀ (s : State) (h : Hdr) (d : WG) (a : WGI) (r : SReg), Runs s h →
    let x := readWGI s a
    Gives (exec (.srd h d r) s) (WroteReg s · d (readSpecial s r)) ∧
    (readSpecial s .core = BitVec.ofNat 64 s.core.id ∧ readSpecial s .rank = BitVec.ofNat 64 (s.core.id % 8) ∧
      readSpecial s .clus = BitVec.ofNat 64 (s.core.id / 8) ∧ readSpecial s .msimg = 0x0000000100032100 ∧
      (s.core.bank = .user → readSpecial s .trapcause = 0 ∧ readSpecial s .trappc = 0 ∧ readSpecial s .trapinfo = 0)) ∧
    (SReg.privWrite r = true → privileged s = true → Gives (exec (.swr h r a) s) fun t =>
      t.core.pc = nextPc s.core ∧ t.core.wstack = (if r = .wstack then x.extractLsb' 0 24 else s.core.wstack) ∧
      t.core.wlimit = (if r = .wspill then x.extractLsb' 24 24 else s.core.wlimit) ∧
      t.core.wdepth = (if r = .wspill then x.extractLsb' 8 16 else s.core.wdepth) ∧
      t.core.svc.trapPc = (if r = .trappc ∧ s.core.bank = .service then x.extractLsb' 0 56 else s.core.svc.trapPc) ∧
      t.mem = s.mem ∧ ∀ q, readWG t q = readWG s q) ∧
    (Gives (exec (.swr h .link a) s) fun t => t.core.pc = nextPc s.core ∧ readSpecial t .link = (x.extractLsb' 0 56).zeroExtend 64 ∧
      t.mem = s.mem ∧ ∀ q, readWG t q = readWG s q) ∧
    (Gives (exec (.swr h .stallbank a) s) fun t => t.core.stallBank = x.extractLsb' 0 32 ∧ ∀ q, readWG t q = readWG s q) ∧
    (Gives (exec (.swr h .stalleng a) s) fun t => readSpecial t .stalleng = x ∧ ∀ q, readWG t q = readWG s q)

/-- SEED, RAND, LTURN, PWRREQ, RAILSEL, TRMARK, DLYRD, DLYCLR and CSYNC (R113, R146, R158, R283 to R286, R289, R290). -/
def Obligations.SystemInstructions : Prop :=
  ∀ (s : State) (h : Hdr) (d : WG) (a b : WGI), Runs s h →
    let x := readWGI s a
    let y := readWGI s b
    let step := s.core.genS * BitVec.ofNat 64 0x9E6C63D0676A9A99 + 0x0F4B
    let wrote := fun (v : Word) (t : State) => t.core.pc = nextPc s.core ∧ t.mem = s.mem ∧
      ∀ r, readWG t r = if r = d ∧ d ≠ .g 0 then v else readWG s r
    (Gives (exec (.seed h a) s) fun t => t.core.genS = x ∧ t.core.pc = nextPc s.core ∧ ∀ r, readWG t r = readWG s r) ∧
    (Gives (exec (.rand h d) s) fun t => t.core.genS = step ∧ wrote ((step.extractLsb' 32 32).zeroExtend 64) t) ∧
    (∀ n : Fin 8, x.toNat = n.val → Gives (exec (.lturn h d a b) s) fun t =>
      wrote (turnStatus s.links[n.val] (curCtx s) y).1 t ∧ t.links = s.links.set n.val (turnStatus s.links[n.val] (curCtx s) y).2) ∧
    (8 ≤ x.toNat → Gives (exec (.lturn h d a b) s) (WroteReg s · d 3)) ∧
    (stepOk s x = true → Gives (exec (.pwrreq h d a) s) fun t =>
      wrote 0 t ∧ (getCluster t (s.core.id / 8)).request = x.extractLsb' 0 8) ∧
    (stepOk s x = false → Gives (exec (.pwrreq h d a) s) (WroteReg s · d 1)) ∧
    (privileged s = true → x.toNat < 128 → enabled s x.toNat = true → y.toNat ≤ 3 → Gives (exec (.railsel h d a b) s) fun t =>
      wrote 0 t ∧ getCluster t x.toNat = { getCluster s x.toNat with pend := true, newRail := y.extractLsb' 0 2 }) ∧
    (privileged s = true → (128 ≤ x.toNat ∨ enabled s x.toNat = false ∨ 3 < y.toNat) →
      Gives (exec (.railsel h d a b) s) (WroteReg s · d 1)) ∧
    (Gives (exec (.trmark h a) s) fun t => t.core.pc = nextPc s.core ∧ t.mem = s.mem ∧ (∀ r, readWG t r = readWG s r) ∧
      (traces (getCluster s (s.core.id / 8)) 0 false = false → t.traceQ = s.traceQ) ∧
      (traces (getCluster s (s.core.id / 8)) 0 false = true → t.traceQ = (traceRec s s.core.id 2 [x]).traceQ)) ∧
    (d ≠ nextReg d → d ≠ .g 0 → nextReg d ≠ .g 0 → x.toNat < 110 → Gives (exec (.dlyrd h d a) s) fun t => t.core.pc = nextPc s.core ∧
      readWG t d = (account s.core x.toNat).2 ∧ readWG t (nextReg d) = (account s.core x.toNat).1) ∧
    (Gives (exec (.dlyclr h a) s) fun t => t.core.pc = nextPc s.core ∧ (x = 128 → t.core.dly = []) ∧
      account t.core x.toNat = (0, 0) ∧ ∀ n, n ≠ x.toNat → x ≠ 128 → account t.core n = account s.core n) ∧
    (Gives (exec (.csync h) s) fun t => t.core.pc = nextPc s.core ∧ t.core.storeBuf = [] ∧ t.core.ibuf = [] ∧ t.core.loopBuf.length ≤ s.core.loopBuf.length ∧
      t.mem = (drainAll s s.core.id).mem ∧ ∀ r, readWG t r = readWG s r)

/-- TLBINV, BKPT, ERET, PINSET, MCRD and HALT (R18, R141, R142, R282, R286 to R288, R326). The model's choices: ERET returns to the whole address kept
at the entry (log 34, DEDUCED), HALT in a service task leaves the user task it interrupted (log 35, DEDUCED), and PINSET ignores the bits above the
fields of an image (log 55, DEDUCED). -/
def Obligations.PrivilegedInstructions : Prop :=
  ∀ (s : State) (h : Hdr) (inv : InvKind) (d a b : WG) (x : WGI) (m : BitVec 14) (idx : BitVec 6) (k : Machine.Task) (off : Nat), Runs s h →
    (privileged s = true → s.core.invalidating = none → (∀ d < 5, reaches s (cacheOf (coreAcc s)) d = true) →
      Gives (exec (.tlbinv h inv a b) s) fun t =>
        t.core.invalidating = some (some (inv, (readWG s b).extractLsb' 0 10, readWG s a)) ∧ t.core.pc = s.core.pc ∧ t.mem = s.mem ∧
        (inv = .all → ∀ w ∈ t.walks, w.discarded = true)) ∧
    (∀ d < 5, privileged s = true → s.core.invalidating = none → s.core.bank = .user → reaches s (cacheOf (coreAcc s)) d = false →
      Gives (exec (.tlbinv h inv a b) s) fun t => FaultTaken s t s.core.pc .scalar .machineCheck s.core.pc) ∧
    (privileged s = true → s.core.invalidating = some none → Gives (exec (.tlbinv h inv a b) s) fun t =>
      Follows s t ∧ t.core.invalidating = none) ∧
    (s.core.bank = .user → (s.core.pins[6]).isSome = true → s.core.svcq.length < 4 → exec (.bkpt h m) s = .next { s with core := { s.core with
      svcq := ⟨6, 0, m.signExtend 64, some s.core.pc, true⟩ :: s.core.svcq } }) ∧
    (s.core.bank = .service → Gives (exec (.eret h) s) fun t => t = { s with core := t.core } ∧ t.core.bank = .user ∧
      t.core.pc = (match s.core.svc.resume with | some p => p | none => s.core.svc.trapPc.zeroExtend 64) ∧ t.core.win = s.core.win ∧ t.core.out = s.core.out ∧ t.core.g = s.core.g ∧
      t.core.p = s.core.p ∧ t.core.v = s.core.v ∧ t.core.task = s.core.task ∧ t.core.loop = s.core.loop) ∧
    (privileged s = true → s.core.bank = .user → s.core.task = some k → s.core.cutGoal = none → Gives (exec (.halt h) s) fun t =>
      t.core.halted = true ∧ TaskEnded s t k (release s s.core.id .sys).mem) ∧
    (s.core.bank = .service → Gives (exec (.halt h) s) fun t => t.core.halted = true ∧ t.core.bank = .user ∧ t.core.task = s.core.task) ∧
    (privileged s = true → Gives (exec (.mcrd h d x) s) (WroteReg s · d (mcWord s.core.mcb ((readWGI s x).toNat % 8)))) ∧
    (privileged s = true → ownTarget s (readWG s a) 32 8 true = .ok off →
      let p := pinImage (readOwn s off 32)
      let q := if idx = 7 then { p with cbase := 0, clen := 0, record := 0, entry := 0 } else p
      Gives (exec (.pinset h idx d a) s) fun t => t.core.pc = nextPc s.core ∧ t.mem = s.mem ∧
        (∀ r, readWG t r = if r = d ∧ d ≠ .g 0 then BitVec.ofNat 64 (pinStatus s idx.toNat p) else readWG s r) ∧
        (pinStatus s idx.toNat p = 0 → t.core.pins = s.core.pins.setIfInBounds idx.toNat (some q)) ∧
        (pinStatus s idx.toNat p ≠ 0 → t.core.pins = s.core.pins))

/-! ### Device events: tasks, service entries, messages (spec/02, spec/03) -/

namespace Sys2Proof.Machine

/-- No ring that a task's sub-launch declares breaks R133. -/
def RingsFit (s : State) (i : TaskInfo) : Prop := ∀ x, subOf s i = some x → ∀ r ∈ x.rings, ringFault (ringEntry r) = none

/-- A task started on core k (R21, R22, R60, R63, R66): w0 holds the argument and every other register of the task is zero but the
globals of its sub-launch; STEPNO, the watchdog and the stall counts are zero; the next activation number is its ACTID; its cluster runs. The
accumulator store of another context is empty, or goes before the task's first matrix command where commands of that context still stand before it. -/
def Started (s t : State) (k : Nat) (i : TaskInfo) : Prop :=
  let c := getCore s k
  let n := getCore t k
  (∃ u, n.task = some u ∧ u.info = i ∧ u.actid = BitVec.ofNat 32 c.nextAct ∧ u.stepno = 0 ∧ u.wdog = 0 ∧
    (∀ l, getLaunch s i.ctx i.lid = some l → u.privileged = l.privileged) ∧ (∀ x, subOf s i = some x → u.wdogLimit = x.wdog)) ∧
  (∀ x, subOf s i = some x → n.g = x.globals ∧ n.wstack = x.wsbase ∧ n.wlimit = x.wsend) ∧
  n.bank = .user ∧ n.pc = i.entry ∧ n.win = ⟨(Vector.replicate 16 0).set 0 i.arg, 0⟩ ∧ n.out = Vector.replicate 8 0 ∧
  n.below = [] ∧ n.wdepth = 0 ∧ n.v = Vector.replicate 32 0 ∧ n.p = predsZero ∧ n.loop.on = false ∧ n.nextAct = c.nextAct + 1 ∧
  n.stallBank = 0 ∧ n.stallVector = 0 ∧ n.stallMatrix = 0 ∧ n.stallCopy = 0 ∧ n.stallRake = 0 ∧
  (let busy := c.mq ≠ [] ∨ c.mrun.isSome = true
   (c.lastCtx = some i.ctx → n.acc = c.acc ∧ n.latch = c.latch ∧ n.accStale = c.accStale) ∧
   (c.lastCtx ≠ some i.ctx → ¬ busy → n.acc = [] ∧ n.latch = none ∧ n.accStale = false) ∧
   (c.lastCtx ≠ some i.ctx → busy → n.acc = c.acc ∧ n.latch = c.latch ∧ n.accStale = true)) ∧
  (getCluster t (clusterOf k)).pstate = .run

/-- The task that R26 chooses, and the core without its entry: the oldest handler activation, else the bottom of the deque, else the oldest
spawned task; a launch that a cut names starts nothing (R327). -/
def Chosen (s : State) (c : Core) (i : TaskInfo) (d : Core) : Prop :=
  let oldest := fun (cls : RunClass) => ∃ n e, c.runq[n]? = some e ∧ e.cls = cls ∧ startable s e.task = true ∧ i = e.task ∧
    d = { c with runq := dropAt c.runq n } ∧
    ∀ m < n, ∀ x, c.runq[m]? = some x → x.cls = cls → startable s x.task = false
  oldest .handler ∨
  ((∀ x ∈ c.runq, x.cls = .handler → startable s x.task = false) ∧
    ((∃ r, c.deque = i :: r ∧ startable s i = true ∧ d = { c with deque := r }) ∨
     ((∀ x r, c.deque = x :: r → startable s x = false) ∧ oldest .spawned)))

/-- DEVICE_RESET, NEXT_TASK_CHOICE, STEAL and STEP_WATCHDOG_EXPIRY (R14, R19, R22, R23, R26, R35, R36): reset leaves the boot state, host
memory and flash kept; a core takes its next task in the order of R26; the members of a gang start together, and none of them before every core of
the gang would take a member; a thief takes the top of the first peer's deque in order of distance; the watchdog at its limit is the fault HANG.
The model's choices: zero in all memory but the host's after reset (log 4, DESIGN CHOICE), and the boot values that no rule gives (log 2, DESIGN
CHOICE). -/
def TaskEvents : Prop :=
  ∀ (s : State) (k : Nat) (fu : Fuses) (i : TaskInfo) (d : Core) (u : Task) (j : Fin 7),
    (s.now = some (.deviceReset fu) → Gives (exec .deviceReset s) fun t =>
      (∀ a, memGet t.mem a = if 2 ^ 47 ≤ a ∧ a < 2 ^ 48 then memGet s.mem a else 0) ∧
      t = { State.boot fu with mem := t.mem, flash := s.flash, free := s.free, agenda := s.agenda }) ∧
    (s.now = some (.nextTaskChoice k) → mayChoose s k = true → RingsFit s i → Chosen s (getCore s k) i d → i.gang = none →
      Gives (exec .nextTaskChoice s) fun t => Started s t k i ∧ (getCore t k).runq = d.runq ∧ (getCore t k).deque = d.deque) ∧
    (∀ g, s.now = some (.nextTaskChoice k) → mayChoose s k = true → Chosen s (getCore s k) i d → i.gang = some g →
      (∃ j ∈ gangCores g, mayChoose s j = false ∨ ∀ x y, Chosen s (getCore s j) x y → memberOf g i.ctx i.lid x = false) →
      Gives (exec .nextTaskChoice s) fun t => t = s) ∧
    (∀ (g : Gang) (x : Nat → TaskInfo) (y : Nat → Core), s.now = some (.nextTaskChoice k) → CoresNumbered s → k ∈ gangCores g → (x k).gang = some g →
      (∀ j ∈ gangCores g, mayChoose s j = true ∧ Chosen s (getCore s j) (x j) (y j) ∧ memberOf g (x k).ctx (x k).lid (x j) = true ∧
        RingsFit s (x j)) →
      Gives (exec .nextTaskChoice s) fun t => ∀ j ∈ gangCores g, Started s t j (x j) ∧ (getCore t j).runq = (y j).runq ∧
        (getCore t j).deque = (y j).deque) ∧
    (s.now = some (.steal k) → mayChoose s k = true → RingsFit s i → (getCore s k).runq = [] → (getCore s k).deque = [] →
      (getCore s k).idling = false →
      let peer := fun (n : Nat) => 8 * (k / 8) + (k % 8 + 1 + n) % 8
      (∀ n < j.val, topFor s (getCore s k).owner (peer n) = none) → topFor s (getCore s k).owner (peer j.val) = some i →
      Gives (exec .steal s) fun t => Started s t k i ∧ (getCore t (peer j.val)).deque = (getCore s (peer j.val)).deque.dropLast) ∧
    (Sound s → s.now = some (.stepWatchdogExpiry k) → (getCore s k).task = some u → u.wdogLimit.toNat ≤ u.wdog.toNat →
      (getCore s k).bank = .user →
      Gives (exec .stepWatchdogExpiry s) fun t => FaultTaken (focus s k) t (getCore s k).pc .scalar .hang 0)

end Sys2Proof.Machine

/-- How tasks start and end without an instruction (R14, R19, R22, R23, R26, R35). -/
def Obligations.TasksStart : Prop := TaskEvents

namespace Sys2Proof.Machine

/-- Core k can be interrupted for a service entry: its cluster's clock runs, no service task runs, and no instruction is half done. -/
def Interruptible (s : State) (k : Nat) : Prop :=
  let c := getCore s k
  let x := getCluster s (clusterOf k)
  coreEnabled s k = true ∧ (x.pstate = .run ∨ x.pstate = .idle) ∧ x.gated = false ∧ c.clearing = false ∧ c.bank = .user ∧
    c.sending = none ∧ c.invalidating = none ∧ c.watchResult = none ∧ (c.trapDue = none ∨ 4 ≤ c.svcq.length)

/-- A service task entered on core k (R55, R64): the PC at which ERET resumes is saved in TRAPPC, the trap registers hold the entry's words, the
service bank is as R55 says, and the user's registers stay. -/
def Entered (s t : State) (k : Nat) (r : SvcReq) (p : Pin) : Prop :=
  let c := getCore s k
  let n := getCore t k
  n.bank = .service ∧ n.pc = p.entry.zeroExtend 64 ∧ n.svc.cause = r.cause ∧ n.svc.tcode = r.tcode ∧ n.svc.trapInfo = r.info ∧
  n.svc.trapPc = (r.pc.getD c.pc).extractLsb' 0 56 ∧ n.svc.w = (Vector.replicate 24 0).set 0 r.info ∧ n.svc.p = predsZero ∧
  n.svc.g[0] = 0 ∧ n.task = c.task ∧ n.win = c.win ∧ n.out = c.out ∧ n.g = c.g ∧ n.v = c.v ∧ n.p = c.p ∧ n.loop = c.loop

end Sys2Proof.Machine

/-- SERVICE_TASK_ENTRY (R27, R55, R57, R61, R64): the first service entry is taken; a spill moves the oldest window to WSTACK and a fill moves
one back, before the handler runs, or is a machine check where the slot cannot be accessed. The model's choices: what TRAPPC holds where no user
task is interrupted (log 94, DESIGN CHOICE), and the FCODE of a transfer that fails (log 56, DEDUCED). -/
def Obligations.ServiceTasksAreEntered : Prop :=
  ∀ (s : State) (k : Nat) (r : SvcReq) (q : List SvcReq) (p : Pin) (f : Frame), Sound s → s.now = some (.serviceTaskEntry k) →
    Interruptible s k → (getCore s k).svcq = r :: q → (getCore s k).pins[r.cause.toNat]?.getD none = some p →
    let c := getCore s k
    let out := fun (t : State) => Entered s t k r p ∧ (getCore t k).svcq = q
    (r.cause ≠ 1 → r.cause ≠ 2 → Gives (exec .serviceTaskEntry s) fun t => out t ∧ t.mem = s.mem ∧
      (∀ i : Fin 8, i ≠ 0 → (getCore t k).svc.g[i.val] = BitVec.ofNat 64 (ownRead (focus s k) (p.record.toNat + 8 * i.val) 8)) ∧
      (getCore t k).below = c.below ∧ (getCore t k).wstack = c.wstack ∧ (getCore t k).wdepth = c.wdepth) ∧
    (r.cause = 1 → slotFault c.wstack c.wstack = none → c.below.getLast? = some f →
      Gives (exec .serviceTaskEntry s) fun t => out t ∧ (getCore t k).below = c.below.dropLast ∧ (getCore t k).wstack = c.wstack + 136 ∧
        (getCore t k).wdepth = c.wdepth + 1 ∧
        ∀ n < 136, some (memGet t.mem (localKey k (c.wstack.toNat % 2 ^ 19 + n))) = (frameBytes f)[n]?) ∧
    (r.cause = 2 → slotFault c.wstack (c.wstack - 136) = none → Gives (exec .serviceTaskEntry s) fun t => out t ∧ t.mem = s.mem ∧
      (getCore t k).wstack = c.wstack - 136 ∧ (getCore t k).wdepth = c.wdepth - 1 ∧
      (getCore t k).below = c.below ++ [frameOf (ownRead (focus s k) ((c.wstack - 136).toNat % 2 ^ 19) 136)]) ∧
    (∀ e, (r.cause = 1 ∧ slotFault c.wstack c.wstack = some e ∨ r.cause = 2 ∧ slotFault c.wstack (c.wstack - 136) = some e) →
      Gives (exec .serviceTaskEntry s) fun t => (getCore t k).halted = true ∧ (getCore t k).bank = .user ∧ (getCore t k).mcb.valid = true ∧
        (getCore t k).mcb.src = 9 ∧ (getCore t k).mcb.fcode = e.code ∧ (getCore t k).mcb.maddr = c.wstack.zeroExtend 64)

/-- MESSAGE_HEADER_ARRIVAL, HEADER_QUEUE_ENTRY, MESSAGE_BEAT_ARRIVAL and SEND_TAIL_INJECTED (R28 to R32, R41, R123, R134, R254): an unbound tag
drops the message and counts it; a bound one enters its channel and makes a handler entry, which its launch counts, or waits with its header,
always behind a header that waits; of the headers that wait in several channels the one of the lowest channel gets the entry; beats enter in order;
the beats of a dropped message vanish; a message that no route is left for is gone, with a machine check of its source (R18); a send ends once the
network has taken its tail. The model's choices: a route is found by the tag and the sender's context (log 42, DEDUCED), a clamp message occupies
its channel and a header waits behind headers that wait (log 43, DEDUCED), and when the network takes a tail is a free value (log 91, DESIGN CHOICE). -/
def Obligations.MessagesArrive : Prop :=
  ∀ (s : State) (i k : Nat) (m : NetMsg) (r : Route) (n : Chan) (x : Channel) (b : VReg) (rest : List VReg),
    let c := getCore s m.dest
    let road := reaches s (outDie m.hdr.src.toNat) (dieOf m.dest)
    let lost := Happening.happen (.machineCheck m.hdr.src.toNat (.requester 7 0 m.ctx 0 0))
    let mine := c.routes.find? fun r => r.tag == m.hdr.tag && r.ctx == m.ctx
    let room := c.runq.length < 28 ∧ ∀ l, getLaunch s m.ctx r.lid = some l → l.count + 1 < 2 ^ 32
    let ch := fun (w : Bool) => (⟨m.hdr, m.ctx, [], 0, w, none, false, r.entry, r.arg, r.lid⟩ : Channel)
    (s.now = some (.messageHeaderArrival i) → s.network[i]? = some m → m.chan = none → m.dropped = false → overtakes s i m = false →
      road = false → Gives (exec .messageHeaderArrival s) fun t => t = { s with network := dropAt s.network i, agenda := lost :: s.agenda }) ∧
    (s.now = some (.messageHeaderArrival i) → s.network[i]? = some m → m.chan = none → m.dropped = false → overtakes s i m = false →
      road = true →
      (mine = none → Gives (exec .messageHeaderArrival s) fun t =>
        t = { s with core := t.core, rest := t.rest, network := t.network } ∧
        getCore t m.dest = { c with routeDrops := satAdd c.routeDrops 1 }) ∧
      (mine = some r → r.kind = true → m.hdr.len = 0 ∨ clampOf c r.clamp.toNat = none → Gives (exec .messageHeaderArrival s) fun t =>
        getCore t m.dest = { c with routeDrops := satAdd c.routeDrops 1 }) ∧
      (mine = some r → r.kind = true → m.hdr.len ≠ 0 → (clampOf c r.clamp.toNat).isSome = true → (∀ y ∈ c.chans[r.chan.val], tailIn y = true) →
        Gives (exec .messageHeaderArrival s) fun t =>
          getCore t m.dest = { c with chans := c.chans.set r.chan.val (c.chans[r.chan.val] ++ [{ ch false with clamp := some r.clamp.toNat }]) }) ∧
      (mine = some r → r.kind = false → (∀ y ∈ c.chans[r.chan.val], tailIn y = true ∧ y.hdr ≠ m.hdr) →
        (room → headerWaits c = false → Gives (exec .messageHeaderArrival s) fun t =>
          getCore t m.dest = { c with chans := c.chans.set r.chan.val (c.chans[r.chan.val] ++ [ch false]),
                                      runq := c.runq ++ [handlerEntry (ch false) r.chan] } ∧
          t.launches = (countUp s m.ctx r.lid 1).launches) ∧
        (28 ≤ c.runq.length ∨ headerWaits c = true → Gives (exec .messageHeaderArrival s) fun t => t.launches = s.launches ∧
          getCore t m.dest = { c with chans := c.chans.set r.chan.val (c.chans[r.chan.val] ++ [ch true]) }))) ∧
    (s.now = some (.headerQueueEntry k n) → ((getCore s k).chans[n.val].find? fun x => x.waiting) = some x → (getCore s k).runq.length < 28 →
      (∀ l, getLaunch s x.ctx x.lid = some l → l.count + 1 < 2 ^ 32) → (∀ j < n, readyHeader s k j = none) → Gives (exec .headerQueueEntry s) fun t =>
        (getCore t k).runq = (getCore s k).runq ++ [handlerEntry x n] ∧ t.launches = (countUp s x.ctx x.lid 1).launches ∧
        ∀ y ∈ (getCore t k).chans[n.val], y.hdr = x.hdr → y.waiting = false) ∧
    (∀ j < n, s.now = some (.headerQueueEntry k n) → (readyHeader s k j).isSome = true → Gives (exec .headerQueueEntry s) fun t => t = s) ∧
    (s.now = some (.messageBeatArrival i) → s.network[i]? = some m → road = false → Gives (exec .messageBeatArrival s) fun t =>
      t = { s with core := t.core, rest := t.rest, network := dropAt s.network i, agenda := lost :: s.agenda } ∧
      (m.chan = none → t.core = s.core ∧ t.rest = s.rest) ∧
      (m.chan = some n → getCore t m.dest = { c with chans := c.chans.set n.val (c.chans[n.val].filter fun y => y.hdr != m.hdr) })) ∧
    (s.now = some (.messageBeatArrival i) → s.network[i]? = some m → m.beats = b :: rest → road = true →
      (m.dropped = true → Gives (exec .messageBeatArrival s) fun t =>
        t = { s with network := if rest = [] then dropAt s.network i else s.network.set i { m with beats := rest } }) ∧
      (m.dropped = false → m.chan = some n → (c.chans[n.val].find? fun x => x.hdr == m.hdr) = some x → x.clamp = none → x.discard = false →
        ((c.chans[n.val].map fun y => y.beats.length).foldl (· + ·) 0) < 64 → Gives (exec .messageBeatArrival s) fun t =>
          t = { s with core := t.core, rest := t.rest,
                       network := if rest = [] then dropAt s.network i else s.network.set i { m with beats := rest } } ∧
          getCore t m.dest = { c with chans := c.chans.set n.val (c.chans[n.val].map fun y =>
            if y.hdr = m.hdr then { x with arrived := x.arrived + 1, beats := x.beats ++ [b] } else y) })) ∧
    (s.now = some (.sendTailInjected k) → (getCore s k).sending = some true → Gives (exec .sendTailInjected s) fun t =>
      (∃ b, getCore t k = { getCore s k with sending := some b }) ∧ t = { s with core := t.core, rest := t.rest, free := s.free + 1 } ∧
      ((∀ m, lastSent s k = some m → m.beats = []) → getCore t k = { getCore s k with sending := some false }))

/-! ### Device events: the memory system, paging, the watch unit (spec/05, spec/07, spec/16) -/

namespace Sys2Proof.Machine

/-- No set of a core's L1 is full: a line that comes in displaces none (R80). -/
def RoomIn (c : Core) : Prop := ∀ line, (c.l1.filter fun l => l1Set l.addr == l1Set line).length < 16

end Sys2Proof.Machine

/-- STORE_BUFFER_DRAIN, MEMORY_RESPONSE, DIRECTORY_REQUEST, L1_EVICTION, TRANSLATION_WALK_COMPLETE and TLB_INVALIDATION_COMPLETE (R81 to R84,
R86, R93, R96, R145, R158, R159, R211, R282, R295). Stores and write-backs of a line that an overflow task holds wait; a prefetch's walk sets no bit of
a leaf in memory. -/
def Obligations.MemorySystemEvents : Prop :=
  ∀ (s : State) (k i d line delay p : Nat) (dl : BitVec 12) (st : PendStore) (rest : List PendStore) (r : Response) (q : DirReq)
    (e : DirEntry) (l : List DirReq) (w : Walk) (inv : InvKind × CtxId × Word) (n : Nat),
    let direct := st.bytes.filter fun b => !(st.toLine k b)
    let x := getCore s k
    (s.now = some (.storeBufferDrain k) → x.storeBuf = st :: rest → storeHeld s k st = true → Gives (exec .storeBufferDrain s) fun t => t = s) ∧
    (s.now = some (.storeBufferDrain k) → x.storeBuf = st :: rest → storeHeld s k st = false → st.whole = true ∨ st.bytes.length ≤ 1 →
      Gives (exec .storeBufferDrain s) fun t =>
        t = { s with core := t.core, rest := t.rest, mem := t.mem, dirReqs := t.dirReqs, dirs := t.dirs, agenda := t.agenda, free := t.free } ∧
        getCore t k = { x with storeBuf := rest, l1 := (getCore t k).l1 } ∧
        (∀ j, j ≠ k → getCore t j = { getCore s j with l1 := (getCore t j).l1 }) ∧
        ((∀ b ∈ st.bytes, b.1 / 128 = n) → RoomIn x → (∀ l ∈ x.l1, l.st = .rd → l.ctx = st.ctx) →
          (∀ b ∈ direct, reaches s (outDie k) (keyDie b.1) = true) →
          t.mem = memSetAll s.mem direct ∧ (zeroHeld s [n] = false → ∀ j, j ≠ k → getCore t j = getCore s j))) ∧
    (s.now = some (.storeBufferDrain k) → x.storeBuf = st :: rest → storeHeld s k st = false → st.whole = false → 2 ≤ st.bytes.length →
      Gives (exec .storeBufferDrain s) fun t => ∃ i < st.bytes.length,
        getCore t k = { x with storeBuf := { st with bytes := dropAt st.bytes i } :: rest, l1 := (getCore t k).l1 }) ∧
    (s.now = some (.memoryResponse k i dl) → x.responses[i]? = some r → Gives (exec .memoryResponse s) fun t =>
      t = { s with core := t.core, rest := t.rest } ∧ (∀ j, j ≠ k → getCore t j = getCore s j) ∧
      getCore t k = { x with responses := dropAt x.responses i, dly := (getCore t k).dly, l1 := (getCore t k).l1 } ∧
      (∀ n, account (getCore t k) n = if n = r.account ∧ n < 110 then (satAdd (account x n).1 1, satAdd (account x n).2 dl.toNat) else account x n) ∧
      (getCore t k).l1 = match r.line with | none => x.l1 | some a => x.l1.map (flagZero s.mem a)) ∧
    (s.now = some (.directoryRequest d) → (s.dirReqs[d]?.getD []) = l → (l.findIdx? fun r => !(overflowRuns s d r.line)) = some i →
      l[i]? = some q →
      (q.exclusive = true → Gives (exec .directoryRequest s) fun t => (t.dirReqs[d]?.getD []) = dropAt l i ∧
        (∀ y ∈ dirOf t d, y.line = q.line → y = ⟨q.line, 2, [q.core % 256], 0⟩) ∧ ⟨q.line, 2, [q.core % 256], 0⟩ ∈ dirOf t d ∧
        ∀ y, ((dirOf s d).find? fun y => y.line == q.line) = some y → ∀ j ∈ sharersOf s d y, j ≠ q.core →
          ∀ z ∈ (getCore t j).l1, z.addr ≠ q.line) ∧
      (q.exclusive = false → ((dirOf s d).find? fun y => y.line == q.line) = some e → e.st ≠ 3 → e.st ≠ 4 → q.core % 256 ∉ e.ptrs →
        (e.ptrs.length < 4 → Gives (exec .directoryRequest s) fun t => (t.dirReqs[d]?.getD []) = dropAt l i ∧
          { e with st := 1, ptrs := e.ptrs ++ [q.core % 256] } ∈ dirOf t d ∧
          ∀ j ∈ q.core :: e.ptrs.map (fun n => 256 * d + n), ∀ z ∈ (getCore t j).l1, z.addr = q.line → z.st ≠ .m ∧ z.st ≠ .e) ∧
        (4 ≤ e.ptrs.length → q.raised = false →
          let h := homeCore s d q.line
          ((getCore s h).pins[3] = none → Gives (exec .directoryRequest s) fun t => (t.dirReqs[d]?.getD []) = dropAt l i ∧
            { e with st := 4, ptrs := [] } ∈ dirOf t d) ∧
          ((getCore s h).pins[3].isSome = true → (getCore s h).svcq.length < 4 → Gives (exec .directoryRequest s) fun t =>
            (t.dirReqs[d]?.getD []) = l.set i { q with raised := true } ∧
            (getCore t h).svcq = (getCore s h).svcq ++ [⟨3, 0, BitVec.ofNat 64 (q.line * 128), none, false⟩])))) ∧
    (s.now = some (.l1Eviction k line) → lineHeld s (line * 128) = true → (∀ y ∈ x.l1, y.addr = line → y.st = .rd) →
      Gives (exec .l1Eviction s) fun t => t = s) ∧
    (∀ y ∈ x.l1, s.now = some (.l1Eviction k line) → y.addr = line → y.st ≠ .rd ∨ lineHeld s (line * 128) = false → Gives (exec .l1Eviction s) fun t =>
      let d := homeDie (line * 128)
      getCore t k = { x with l1 := x.l1.filter fun l => l.addr != line } ∧
      (∀ j, j ≠ k → getCore t j = { getCore s j with l1 := (getCore t j).l1 } ∧ ∀ y ∈ (getCore s j).l1, y.addr ≠ line → y ∈ (getCore t j).l1) ∧
      ((∀ y ∈ dirOf s d, y.line = line → y.st ≠ 3) → t.mem = (writeBackLine s k line).mem) ∧
      (remoteKey k (line * 128) = false → ((dirOf s d).find? fun y => y.line == line) = some e → e.st ≠ 3 → e.st ≠ 4 →
        ∀ y ∈ dirOf t d, y.line = line → k % 256 ∉ y.ptrs)) ∧
    (s.now = some (.translationWalkComplete i) → s.walks[i]? = some w →
      (w.discarded = true → Gives (exec .translationWalkComplete s) fun t =>
        t = { s with walks := s.walks.set i { w with discarded := false } }) ∧
      (let s0 := { s with walks := dropAt s.walks i }
       w.discarded = false → w.core < 1032 →
       (∀ f, leafFor s0 (walkAcc w) w.va.toNat w.va = .error f → Gives (exec .translationWalkComplete s) fun t => t = s0) ∧
       (leafFor s0 (walkAcc w) w.va.toNat w.va = .ok (p, d, delay) →
        let denied := leafDenies (walkAcc w) false p || pteCold p || pteHS p || ptePO p
        (denied = true → Gives (exec .translationWalkComplete s) fun t => t = s0) ∧
        (denied = false → Gives (exec .translationWalkComplete s) fun t => t.walks = s0.walks ∧
          t.caches[cacheOf (walkAcc w)]?.bind List.head? = some ⟨w.ctx, w.va.toNat / pageSize delay, delay, BitVec.ofNat 64 p, d⟩ ∧
          (RoomIn (getCore s w.core) → t.mem = s.mem))))) ∧
    (s.now = some (.tlbInvalidationComplete k) → x.invalidating = some (some inv) → anyStoreHeld s = true →
      Gives (exec .tlbInvalidationComplete s) fun t => t = s) ∧
    (s.now = some (.tlbInvalidationComplete k) → x.invalidating = some (some inv) → anyStoreHeld s = false → Gives (exec .tlbInvalidationComplete s) fun t =>
      (getCore t k).invalidating = some none ∧ (∀ j, ∀ y ∈ (getCore t j).tlb, removesTlb inv y = false) ∧
      (∀ n : Fin 5, ∀ y ∈ t.caches[n.val], removesTlb inv y = false) ∧
      (CoresNumbered s → ∀ j, (getCore t j).storeBuf = []))

namespace Sys2Proof.Machine

/-- The machine once the cold-page engine has taken the completion of its command i, which the device has written, where every other command is
outstanding already: the engine goes on in the queue, whose phase changes with each pass. -/
def MoveTaken (s : State) (i : Nat) (ok : Bool) : State :=
  let u := postCompletion s i ok
  { u with hub := { u.hub with moves := dropAt u.hub.moves i
                               nvme := u.hub.nvme.map fun n =>
                                 { n with head := (n.head + 1) % n.depth, phase := if n.depth ≤ n.head + 1 then !n.phase else n.phase } } }

/-- The completion entry of a command in a granted queue (R369), as NVMe lays it out: its command identifier, the phase, and status 0 for success. -/
def Completed (s t : State) (cid : BitVec 16) (ok : Bool) : Prop :=
  ∀ n, s.hub.nvme = some n →
    let q := n.cq.toNat + 16 * n.head
    memRead t.mem (q + 12) 2 = cid.toNat ∧ (memRead t.mem (q + 14) 2).testBit 0 = n.phase ∧ (memRead t.mem (q + 14) 2 / 2 = 0 ↔ ok = true)

/-- COLD_PAGE_FETCH_COMPLETE, PAGE_OUT_START and PAGE_OUT_COMPLETE (R2, R95, R121, R138, R139, R369): a fetch puts the page in its frame and its
leaf becomes present, clean and not accessed, and the waiting accesses are next, in order; a failed one faults a waiting launch with
PAGE_INVALID; a page-out, once the stores before it are performed, sets PO, takes every mapping that the leaf gives from every TLB, and goes to the
granted queue pair, its entry written and the doorbell rung; it ends with the leaf COLD and the page in flash, or with PO cleared. The model's choices:
NVMe's layout of both entries and of their phase (log 54, PRESUMED), and the waiting accesses as the next steps (log 101, DEDUCED). -/
def PagingEvents : Prop :=
  ∀ (s : State) (i : Nat) (f : PageMove) (k : Nat) (act : BitVec 32) (un : UnitCode) (pc addr : Word) (x : Task)
    (ctx : CtxId) (va : Word) (lba : BitVec 52) (c : Ctx) (e at_ : Nat), Sound s →
    let o := memRead s.mem f.at_ 8
    let leaf := fun (a : Nat) => f.at_ ≤ a ∧ a < f.at_ + 8
    let entry := fun (a : Nat) => ∃ n, s.hub.nvme = some n ∧ n.cq.toNat + 16 * n.head ≤ a ∧ a < n.cq.toNat + 16 * n.head + 16
    (s.hub.moves[i]? = some f → outstanding s i = true → (∀ m ∈ s.hub.moves, m.cid.isSome = true) →
      let at0 := f.frame.toNat * 2 ^ 16
      (f.out = false → s.now = some (.coldPageFetchComplete i true) → at0 + 2 ^ 16 ≤ 0xC000000000 →
        pteV o = true → pteLeaf o = true → pteCold o = true → Gives (exec .coldPageFetchComplete s) fun t =>
          let n := memRead t.mem f.at_ 8
          t.hub = (MoveTaken s i true).hub ∧ t.agenda = f.waiters.flatMap (wakeWaiter (MoveTaken s i true)) ++ s.agenda ∧
          pteFrame n = at0 ∧ pteV n = true ∧ pteLeaf n = true ∧ pteCold n = false ∧ ptePO n = false ∧ pteA n = false ∧ pteD n = false ∧
          pteW n = pteW o ∧ pteU n = pteU o ∧ pteHS n = pteHS o ∧ ptePin n = ptePin o ∧ (ptePmask n).testBit (partitionOf f.ctx) = true ∧
          (∀ a < 2 ^ 16, ¬ leaf (at0 + a) → memGet t.mem (at0 + a) = memGet s.flash (flashAt s f.lba + a)) ∧
          (∀ a, ¬ leaf a → ¬ entry a → (a < at0 ∨ at0 + 2 ^ 16 ≤ a) → memGet t.mem a = memGet s.mem a) ∧
          ∀ cid, f.cid = some cid → (∀ a, entry a → ¬ leaf a ∧ (a < at0 ∨ at0 + 2 ^ 16 ≤ a)) → Completed s t cid true) ∧
      (f.out = false → s.now = some (.coldPageFetchComplete i false) → f.waiters = [.core k act false un pc addr] →
        (getCore s k).task = some x → x.actid = act → Gives (exec .coldPageFetchComplete s) fun t =>
          FaultTaken (focus (MoveTaken s i false) k) t pc un .pageInvalid addr) ∧
      (f.out = true → ptePO o = true → s.now = some (.pageOutComplete i true) → Gives (exec .pageOutComplete s) fun t =>
        let n := memRead t.mem f.at_ 8
        t.hub = (MoveTaken s i true).hub ∧ pteCold n = true ∧ field n 12 52 = f.lba.toNat ∧ ptePO n = false ∧ pteV n = pteV o ∧
        pteA n = pteA o ∧ pteD n = pteD o ∧ (∀ a, ¬ leaf a → ¬ entry a → memGet t.mem a = memGet s.mem a) ∧
        (∀ cid, f.cid = some cid → (∀ a, entry a → ¬ leaf a) → Completed s t cid true) ∧
        ∀ a < 2 ^ 16, memGet t.flash (flashAt s f.lba + a) = memGet s.mem (at0 + a)) ∧
      (f.out = true → ptePO o = true → s.now = some (.pageOutComplete i false) → Gives (exec .pageOutComplete s) fun t =>
        t.hub = (MoveTaken s i false).hub ∧ memRead t.mem f.at_ 8 = o - 2 ^ 6 ∧ t.flash = s.flash ∧
        (∀ cid, f.cid = some cid → (∀ a, entry a → ¬ leaf a) → Completed s t cid false) ∧
        ∀ a, ¬ leaf a → ¬ entry a → memGet t.mem a = memGet s.mem a)) ∧
    (s.now = some (.pageOutStart ctx va lba) → getCtx s ctx = some c → anyStoreHeld s = true → Gives (exec .pageOutStart s) fun t => t = s) ∧
    (s.now = some (.pageOutStart ctx va lba) → getCtx s ctx = some c → anyStoreHeld s = false →
      walkFrom (drainEvery s).mem va.toNat 3 c.root.toNat = some (e, at_, 0) →
      pteCold e = false → ptePO e = false → ptePin e = false → pteFrame e < 0xC000000000 →
      let m : PageMove := ⟨true, none, BitVec.ofNat 32 (pteFrame e / 2 ^ 16), ctx, va, at_, lba, []⟩
      let leafNow := ((e ||| 2 ^ 6) - (if pteA e then 2 ^ 7 else 0)) % 2 ^ 64
      let gone := fun (t : State) => (∀ j, ∀ y ∈ (getCore t j).tlb, y.at_ ≠ at_) ∧ ∀ n : Fin 5, ∀ y ∈ t.caches[n.val], y.at_ ≠ at_
      (s.hub.nvme = none → Gives (exec .pageOutStart s) fun t =>
        memRead t.mem at_ 8 = leafNow ∧ t.hub = { s.hub with moves := s.hub.moves ++ [m] } ∧ gone t) ∧
      (∀ n, s.hub.nvme = some n → s.hub.moves = [] → 2 ≤ n.depth →
        let slot := n.sq.toNat + 64 * n.tail
        Gives (exec .pageOutStart s) fun t =>
          (at_ + 8 ≤ slot ∨ slot + 64 ≤ at_ → memRead t.mem at_ 8 = leafNow) ∧ gone t ∧
          t.hub = { s.hub with moves := [{ m with cid := some n.nextCid }]
                               nvme := some { n with tail := (n.tail + 1) % n.depth, rang := BitVec.ofNat 32 ((n.tail + 1) % n.depth)
                                                     nextCid := n.nextCid + 1 } } ∧
          memRead t.mem (slot + 2) 2 = n.nextCid.toNat ∧ memRead t.mem (slot + 4) 4 = n.ns.toNat ∧
          memRead t.mem (slot + 26) 4 = pteFrame e / 2 ^ 16 ∧ memRead t.mem (slot + 40) 8 = lba.toNat))

/-- WATCH_UNIT_COMMIT (R147 to R150, R277), as one step (log 96, DESIGN CHOICE): the oldest request is served, and its result word, or its fault, is handed to the core that waits; tokens
count every live entry's budget down and are committed up to the first at which an entry hits, of the lowest-numbered entry that hits. -/
def WatchUnit : Prop :=
  ∀ (s u : State) (r : WatchReq) (rest : List WatchReq) (w : Word) (code : FCode) (a : Word) (h t : Nat) (es toks : List Nat),
    (s.now = some .watchUnitCommit → s.hub.watchQueue = r :: rest → (∀ x ∈ rest, x.who.1 ≠ r.who.1) →
      (serveWatch s r false = .ok (w, u) → (getCore u r.who.1).watchResult = some none → Gives (exec .watchUnitCommit s) fun v =>
        v.mem = u.mem ∧ v.hub.watchQueue = rest ∧ (getCore v r.who.1).watchResult = some (some (.ok w))) ∧
      (serveWatch s r false = .error (.fault code a) → (getCore s r.who.1).watchResult = some none → Gives (exec .watchUnitCommit s) fun v =>
        v.mem = s.mem ∧ v.hub.watchQueue = rest ∧ (getCore v r.who.1).watchResult = some (some (.error (code, a))))) ∧
    (let hit := fun (e : Nat) => enLive e = true ∧ (enBudget e = 1 ∨ enMatches h e t = true)
     ((∀ e ∈ es, enLive e = false) → commitToks ⟨h, es, [], none⟩ toks = ⟨toks.foldl pushTok h, es, toks, none⟩) ∧
     ((∀ e ∈ es, ¬ hit e) → commitToks ⟨h, es, [], none⟩ [t] =
       ⟨pushTok h t, es.map fun e => if enLive e ∧ enBudget e ≠ 0 then putBudget e (enBudget e - 1) else e, [t], none⟩) ∧
     (∀ n e, es[n]? = some e → hit e → (∀ m < n, ∀ x, es[m]? = some x → ¬ hit x) →
       (commitToks ⟨h, es, [], none⟩ (t :: toks)).win = some n ∧ (commitToks ⟨h, es, [], none⟩ (t :: toks)).toks = [t]))

end Sys2Proof.Machine

/-- Cold pages (R138, R139, R369) and the watch unit (R147 to R150, R277). -/
def Obligations.PagesAndWatches : Prop := PagingEvents ∧ WatchUnit

/-! ### Device events: graphs, retirement, command queues (spec/02, spec/06, spec/13, spec/14) -/

namespace Sys2Proof.Machine

/-- A byte outside the command journal. -/
def OffJournal (s : State) (a : Nat) : Prop :=
  a < s.hub.journal.base.toNat ∨ s.hub.journal.base.toNat + 32 * s.hub.journal.entries ≤ a

/-- A launch made in store st: the context's next LID, no unit placed, and an entry of the store with its priority; the context's next LID is
one higher (R46, R127, R273). -/
def LaunchMade (s t : State) (c : Ctx) (subs : List SubLaunch) (st : Nat) (queue : BitVec 4) (prio : BitVec 6) (graph : Option (BitVec 32)) :
    Prop :=
  (∃ l, t.launches = s.launches ++ [l] ∧ l.ctx = c.id ∧ l.lid = BitVec.ofNat 32 c.nextLid ∧ l.subs = subs ∧ l.count = 0 ∧ l.store = st ∧
    l.queue = queue ∧ l.prio = prio ∧ l.graph = graph) ∧
  (∃ e, storeOf t st = storeOf s st ++ [e] ∧ e.ctx = c.id ∧ e.ident = BitVec.ofNat 32 c.nextLid ∧ e.isGraph = false ∧ e.prio = prio ∧ e.age = 0) ∧
  ∃ c', getCtx t c.id = some c' ∧ c'.nextLid = c.nextLid + 1

/-- WORK_RETIRE (R46, R131, R325): a launch with all units placed and counter zero, an ended graph and a closed phase without work leave the
device; the journal entry of a launch's packet becomes retired with STATUS 0. -/
def Retirement : Prop :=
  ∀ (s : State) (ctx : CtxId) (id : BitVec 32) (l : Launch) (g : Graph) (c : Ctx) (p : Phase) (st : BitVec 2) (status : BitVec 16), Sound s →
    (s.now = some (.workRetire ctx .launch id) → getLaunch s ctx id = some l → l.count = 0 → allPlaced l = true →
      Gives (exec .workRetire s) fun t => getLaunch t ctx id = none ∧
        (∀ d n, ¬ (d = ctx ∧ n = id) → getLaunch t d n = getLaunch s d n) ∧ (l.jseq = none → Quiet s → t.mem = s.mem) ∧
        ∀ q, l.jseq = some q → s.hub.journal.entries ≠ 0 → s.hub.journal.events = [] →
          field (memRead t.mem (journalSlot s q) 8) 46 2 = 2 ∧ field (memRead t.mem (journalSlot s q) 8) 48 16 = 0) ∧
    (s.now = some (.workRetire ctx .launch id) → getLaunch s ctx id = some l → l.count ≠ 0 ∨ allPlaced l = false →
      exec .workRetire s = .next s) ∧
    (s.now = some (.workRetire ctx .graph id) → getGraph s ctx id = some g → g.ended = some (st, status) → g.count = 0 →
      Gives (exec .workRetire s) fun t => getGraph t ctx id = none ∧ t.launches = s.launches) ∧
    (s.now = some (.workRetire ctx .phase id) → getCtx s ctx = some c → (c.phases.find? fun x => x.num == id) = some p → p.closed = true →
      p.count = 0 → Gives (exec .workRetire s) fun t => ∃ d, getCtx t ctx = some d ∧
        ∀ x, x ∈ d.phases ↔ x ∈ c.phases ∧ ¬ (x.num = id ∧ x.closed = true ∧ x.count = 0))

/-- A graph's present node x as its walker takes it (R143): read once as a plain load, and kept until it is done; `t` and `h` are the machine and
the graph from then on. -/
def NodeTaken (s : State) (g : Graph) (x : Nat) (t : State) (h : Graph) : Prop :=
  (∃ y, g.held = some y ∧ x = y.toNat ∧ t = s ∧ h = g) ∨
  (g.held = none ∧ h = { g with held := some (BitVec.ofNat 256 x) } ∧
    ∃ u, hubReader (walkerAcc g) s (g.base + BitVec.ofNat 64 (32 * g.node)) 32 = .ok (x, u) ∧ nodeBad x = false ∧
      t = modGraph u g.ctx g.gid fun y => { y with held := some (BitVec.ofNat 256 x) })

/-- GRAPH_LAUNCH_NODE, GRAPH_COND_NODE, GRAPH_WHILE_NODE, GRAPH_JOINALL_NODE, GRAPH_END_NODE and GRAPH_NODE_RETRY (R39, R127, R143): a LAUNCH node,
whose packets are read once, issues its launch and goes to NEXT, and stays where its store has no entry left that no held packet waits for; every
other node waits for the launches that the graph has issued, and a fault among them ends the graph; COND goes by its word, WHILE counts
iterations up to CAP, END retires. -/
def GraphNodes : Prop :=
  ∀ (s s1 s2 : State) (w i x : Nat) (g h : Graph) (c : Ctx) (b : Bundle) (subs : List SubLaunch) (word : List Byte) (status : BitVec 16),
    walkerGraph s w i = some g → NodeTaken s g x s1 h →
    let goes := fun (u : State) (n : Nat) => modGraph u g.ctx g.gid fun y => { y with node := n, held := none, parsed := none }
    let ends := fun (u : State) (st : BitVec 2) (v : BitVec 16) => modGraph u g.ctx g.gid fun y => { y with ended := some (st, v) }
    let waits := fun (ev : Instr) =>
      (g.count ≠ 0 → Gives (exec ev s) fun t => t = s1) ∧
      (g.count = 0 → g.faultSeen = some status → Gives (exec ev s) fun t => t = ends s1 3 status)
    let ready := g.count = 0 ∧ g.faultSeen = none
    let packet := fun (u : State) (n : Nat) => hubReader (walkerAcc g) u (ndAddr x + BitVec.ofNat 64 (64 * n)) 64
    let launches := fun (ev : Instr) (u : State) =>
      let st := targetStore u g.ctx (ndTarget x)
      (heldQueues u st < storeFree u st → ndNext x < g.nodes → getCtx u g.ctx = some c → c.id = g.ctx →
        Gives (exec ev s) fun t => (c.watch = 0 ∨ c.nextLid ≠ 0 ∨ c.nextGid ≠ 0 → t.mem = u.mem) ∧
          LaunchMade u t c subs st g.queue (queuePrio u g.ctx g.queue g.prio) (some g.gid) ∧
          t.graphs = u.graphs.map fun y => if y.ctx = g.ctx ∧ y.gid = g.gid then
            { y with count := y.count + 1, node := ndNext x, held := none, parsed := none } else y) ∧
      (storeFree u st ≤ heldQueues u st → Gives (exec ev s) fun t => t = u)
    (ndKind x = 1 → ∀ u,
      (h.parsed = some subs ∧ u = s1 ∨
        h.parsed = none ∧ readBundle (hubReader (walkerAcc g)) false packet s1 = .ok (b, s2) ∧ b.subs = some subs ∧ pkType b.head = 1 ∧
          u = modGraph s2 g.ctx g.gid fun y => { y with parsed := some subs }) →
      (s.now = some (.graphLaunchNode w i) → launches .graphLaunchNode u) ∧ (s.now = some (.graphNodeRetry w i) → launches .graphNodeRetry u)) ∧
    (ndKind x = 2 → s.now = some (.graphCondNode w i) → waits .graphCondNode ∧
      (ready → hubRead s1 (walkerAcc g) (ndAddr x) 4 4 = .ok (word, s2) → ndNext x < g.nodes → ndTaken x < g.nodes →
        Gives (exec .graphCondNode s) fun t => t = goes s2 (if ofBytes word ≠ 0 then ndTaken x else ndNext x))) ∧
    (ndKind x = 3 → s.now = some (.graphWhileNode w i) → waits .graphWhileNode ∧
      (ready → hubRead s1 (walkerAcc g) (ndAddr x) 4 4 = .ok (word, s2) → ndNext x < g.nodes → ndTaken x < g.nodes →
        let n := (assocGet g.counts g.node).getD 0 + 1
        (ofBytes word = 0 → Gives (exec .graphWhileNode s) fun t => t = goes s2 (ndNext x)) ∧
        (ofBytes word ≠ 0 → n ≤ ndCap x → Gives (exec .graphWhileNode s) fun t =>
          t = modGraph s2 g.ctx g.gid fun y =>
            { y with node := ndTaken x, held := none, parsed := none, counts := assocSet y.counts g.node n }) ∧
        (ofBytes word ≠ 0 → ndCap x < n → Gives (exec .graphWhileNode s) fun t => t = ends s2 2 2))) ∧
    (ndKind x = 4 → s.now = some (.graphJoinallNode w i) → waits .graphJoinallNode ∧
      (ready → ndNext x < g.nodes → Gives (exec .graphJoinallNode s) fun t => t = goes s1 (ndNext x))) ∧
    (ndKind x = 5 → s.now = some (.graphEndNode w i) → waits .graphEndNode ∧
      (ready → Gives (exec .graphEndNode s) fun t => t = ends s1 2 0))

end Sys2Proof.Machine

/-- Work retires (R46, R131, R325), and a walker goes through its graph (R39, R143). -/
def Obligations.WorkRetiresAndGraphsWalk : Prop := Retirement ∧ GraphNodes

namespace Sys2Proof.Machine

/-- A command complex serves queue x of the context next (R126, R306): it is neither barred nor closed, holds packets, and no other queue comes
first. -/
def Serves (s : State) (ctx : CtxId) (q : BitVec 4) (x : CmdQueue) : Prop :=
  getQueue s ctx q = some x ∧ x.q = q ∧ s.hub.packageOff = false ∧ servable x = true ∧ passedBy s x = false

/-- The queue has moved past n packets. -/
def Past (t : State) (ctx : CtxId) (q : BitVec 4) (x : CmdQueue) (n : Nat) : Prop :=
  ∃ y, getQueue t ctx q = some y ∧ y.rdidx = x.rdidx + BitVec.ofNat 32 n

/-- DOORBELL_WRITE, LAUNCH_PACKET, GRAPH_PACKET and PHASE_PACKET (R46, R126, R131, R160, R306 to R309): a doorbell moves WRIDX, or is an
overrun with ERRSTAT 3 and guilt; a malformed packet is skipped with ERRSTAT 2 and guilt; a launch packet, or bundle, makes its launch, a graph
packet its graph, a phase packet its phase; before a context's first launch its watch table is zeroed, page by page (R398; that moment is log 70,
DEDUCED). -/
def Packets : Prop :=
  ∀ (s s1 : State) (ctx : CtxId) (q : BitVec 4) (v : BitVec 32) (x : CmdQueue) (c : Ctx) (b : Bundle) (subs : List SubLaunch)
    (lo hi e at_ level : Nat),
    let p := packetAt s x 0
    let s0 := heldAt s ctx q none
    let st := targetStore s1 ctx (pkTarget p)
    (s.now = some (.doorbellWrite ctx q v) → getQueue s ctx q = some x →
      ((v - x.rdidx).toNat ≤ 2 ^ x.lsize.toNat → Gives (exec .doorbellWrite s) fun t => getQueue t ctx q = some { x with wridx := v }) ∧
      (2 ^ x.lsize.toNat < (v - x.rdidx).toNat → getCtx s ctx = some c → Gives (exec .doorbellWrite s) fun t =>
        (∃ y, getQueue t ctx q = some y ∧ y.errstat = 3 ∧ y.wridx = x.wridx ∧ y.rdidx = x.rdidx) ∧
        ∃ d, getCtx t ctx = some d ∧ d.guilt = satAdd c.guilt 1)) ∧
    (s.now = some (.launchPacket ctx q) → Serves s ctx q x →
      (pkType p = 1 → 1 + pkLink p ≤ unparsed x →
        readBundle (hubReader (complexAcc ctx x)) true (fun t i => .ok (packetAt t x i, t)) s0 = .ok (b, s1) → b.subs = some subs →
        (storeTakenFor s1 x st = false → journalReady s1 = true → getCtx s1 ctx = some c → c.id = ctx →
          Gives (exec .launchPacket s) fun t => Past t ctx q x (1 + pkLink p) ∧ LaunchMade s1 t c subs st x.q x.prio none) ∧
        (storeTakenFor s1 x st = true → Gives (exec .launchPacket s) fun t =>
          getQueue t ctx q = some { x with heldFor := some st } ∧ t.launches = s.launches ∧ t.mem = s.mem)) ∧
      (pkType p = 0 ∨ 5 < pkType p → getCtx s ctx = some c → Gives (exec .launchPacket s) fun t =>
        (∃ y, getQueue t ctx q = some y ∧ y.errstat = 2 ∧ y.rdidx = x.rdidx + 1) ∧ (∃ d, getCtx t ctx = some d ∧ d.guilt = satAdd c.guilt 1) ∧
        t.launches = s.launches)) ∧
    (s.now = some (.graphPacket ctx q) → Serves s ctx q x → pkType p = 2 → p / 2 ^ 128 = 0 → field p 8 44 = 0 → field p 72 56 % 32 = 0 →
      1 ≤ field p 55 17 → field p 55 17 ≤ 65536 → field p 52 3 ≤ 4 → storeTakenFor s0 x (field p 52 3) = false → journalReady s = true →
      getCtx s ctx = some c → c.id = ctx → Gives (exec .graphPacket s) fun t => Past t ctx q x 1 ∧
        ∃ g, t.graphs = s.graphs ++ [g] ∧ g.ctx = ctx ∧ g.gid = BitVec.ofNat 32 c.nextGid ∧ g.base = BitVec.ofNat 64 (field p 72 56) ∧
          g.nodes = field p 55 17 ∧ g.walker = field p 52 3 ∧ g.node = 0 ∧ g.count = 0 ∧ g.ended = none) ∧
    (s.now = some (.phasePacket ctx q) → Serves s ctx q x → pkType p = 3 → p / 2 ^ 64 = 0 → field p 8 24 = 0 → journalReady s = true →
      getCtx s ctx = some c → Gives (exec .phasePacket s) fun t => Past t ctx q x 1 ∧ ∃ d, getCtx t ctx = some d ∧
        d.phases = (c.phases.map fun y => if y.queue = q then { y with closed := true } else y) ++ [⟨BitVec.ofNat 32 (field p 32 32), q, 0, false⟩]) ∧
    (getCtx s ctx = some c → c.watch = 0 ∨ c.nextLid ≠ 0 ∨ c.nextGid ≠ 0 → zeroWatch s ctx = s) ∧
    (walkFrom s.mem lo 3 c.root.toNat = some (e, at_, level) → lo < hi → pteCold e = false →
      let a0 := pteFrame e + lo % pageSize level
      let t := zeroGranule c.root.toNat s lo hi
      t = { s with mem := t.mem } ∧ ∀ a, memGet t.mem a = if a0 ≤ a ∧ a < a0 + (hi - lo) then 0 else memGet s.mem a)

/-- WAIT_PACKET, WAIT_WORD_POLL, SIGNAL_PACKET, SIGNAL_AFTER_WRITE and QUEUE_CLOSE (R46, R309): a WAIT is done when its word holds the value, or
when the queue's earlier work has retired, and else holds the queue; a SIGNAL writes its value at once, or after the queue's earlier work. -/
def WaitsAndSignals : Prop :=
  ∀ (s s1 : State) (ctx : CtxId) (q : BitVec 4) (i : Nat) (x : CmdQueue) (c : Ctx) (word : List Byte) (g : Signal),
    let p := packetAt s x 0
    let s0 := heldAt s ctx q none
    let a := BitVec.ofNat 64 (field p 72 56)
    let fine := p / 2 ^ 128 = 0 ∧ field p 64 8 = 0 ∧ field p 9 23 = 0
    let polls := fun (ev : Instr) => Serves s ctx q x → pkType p = 4 → fine → journalReady s = true →
      (p.testBit 8 = false → queueLids s ctx x.q = [] → queueGids s ctx x.q = [] → Gives (exec ev s) fun t => Past t ctx q x 1) ∧
      (p.testBit 8 = false → queueLids s ctx x.q ≠ [] ∨ queueGids s ctx x.q ≠ [] → exec ev s = .next s0) ∧
      (p.testBit 8 = true → field p 72 56 % 4 = 0 → hubRead s0 (complexAcc ctx x) a 4 4 = .ok (word, s1) →
        (ofBytes word = field p 32 32 → Gives (exec ev s) fun t => Past t ctx q x 1) ∧
        (ofBytes word ≠ field p 32 32 → exec ev s = .next s1))
    (s.now = some (.waitPacket ctx q) → polls .waitPacket) ∧ (s.now = some (.waitWordPoll ctx q) → polls .waitWordPoll) ∧
    (s.now = some (.signalPacket ctx q) → Serves s ctx q x → pkType p = 5 → p / 2 ^ 192 = 0 → field p 9 63 = 0 → field p 72 56 % 8 = 0 →
      journalReady s = true →
      (p.testBit 8 = false → hubWrite s0 (complexAcc ctx x) a 8 (toBytes 8 (field p 128 64)) = .ok s1 →
        Gives (exec .signalPacket s) fun t => Past t ctx q x 1 ∧ ∀ j, OffJournal s j → memGet t.mem j = memGet s1.mem j) ∧
      (p.testBit 8 = true → Gives (exec .signalPacket s) fun t => Past t ctx q x 1 ∧
        t.hub.signals = s.hub.signals ++ [⟨ctx, x.q, a, BitVec.ofNat 64 (field p 128 64), s.hub.journal.nextSeq, x.rdidx, queueLids s ctx x.q,
          queueGids s ctx x.q⟩])) ∧
    (s.now = some (.signalAfterWrite i) → s.hub.signals[i]? = some g → (∀ l ∈ s.launches, l.ctx = g.ctx → l.lid ∉ g.lids) →
      (∀ y ∈ s.graphs, y.ctx = g.ctx → y.gid ∉ g.gids) → getQueue s g.ctx g.q = some x →
      hubWrite s (complexAcc g.ctx x) g.addr 8 (toBytes 8 g.value.toNat) = .ok s1 → Gives (exec .signalAfterWrite s) fun t =>
        t.hub.signals = dropAt s.hub.signals i ∧ ∀ j, OffJournal s j → memGet t.mem j = memGet s1.mem j) ∧
    (s.now = some (.queueClose ctx q) → getQueue s ctx q = some x → getCtx s ctx = some c → Gives (exec .queueClose s) fun t =>
      (∃ y, getQueue t ctx q = some y ∧ y.closed = true) ∧ ∃ d, getCtx t ctx = some d ∧ ∀ y ∈ d.phases, y.queue = q → y.closed = true)

end Sys2Proof.Machine

/-- The command complexes serve their queues (R46, R126, R306 to R309). -/
def Obligations.QueuesServePackets : Prop := Packets ∧ WaitsAndSignals

/-! ### Device events: the schedulers and the consistent cut (spec/14, spec/15) -/

namespace Sys2Proof.Machine

/-- SCHEDULING_PASS, LOCAL_MEMORY_CLEAR_DONE, PRIORITY_AGING, HEAD_RESERVATION and INTENSITY_CLASSIFY (R75, R87, R310 to R316): the head has the
highest effective priority and is the oldest of those; a block is aligned and free; a placed unit is an entry of its core's run queue, which its
launch counts, on a core of its context; a new owner finds local memory and accumulators zero, those of matrix commands that another context has
queued going with the owner's first command; blocks are reserved for the gangs of a head that
has waited, and the cores that become free next for its other units. -/
def Scheduling : Prop :=
  ∀ (s u : State) (st us k g b : Nat) (rested : List (CtxId × Lid)) (e : Pend) (l : Launch) (x : SubLaunch) (ok : Nat → Bool) (i : TaskInfo),
    (headOf s st = some e → e ∈ storeOf s st ∧ wantsPlace s e = true ∧
      ∀ y ∈ storeOf s st, wantsPlace s y = true → effOf y < effOf e ∨ effOf y = effOf e ∧ e.serial ≤ y.serial) ∧
    (findBlock s st l g ok = some b → b ∈ storeCores s st ∧ b % 2 ^ g = 0 ∧ ∀ m < 2 ^ g, ok (b + m) = true) ∧
    (let t := placeOne s k i
     (getCore t k).runq = (getCore s k).runq ++ [⟨.spawned, i⟩] ∧ (getCore t k).owner = some i.ctx ∧ (getCore t k).reserved = none ∧
     ((getCore s k).owner ≠ some i.ctx → (getCore t k).clearing = true) ∧ t.launches = (countUp s i.ctx i.lid 1).launches ∧ t.mem = s.mem) ∧
    (let r := reserveFreed (settleHead (restVictims s rested) st) st
     s.now = some (.schedulingPass st us rested) → s.hub.packageOff = false → st ≤ 4 →
      (passStep r st us = none → Gives (exec .schedulingPass s) fun t => t = noteIdle r st) ∧
      (passStep r st us = some u → passStep (settleHead u st) st us = none → Gives (exec .schedulingPass s) fun t => t = noteIdle (settleHead u st) st)) ∧
    (headOf s st = some e → e.reserving = true → ∀ m ∈ ((looseCores s st e).filter fun m => !(e.idle.contains m)).take (singlesLeft s st e),
      (getCore (reserveFreed s st) m).reserved = some ⟨st, e.ctx, e.ident, some 0⟩) ∧
    (s.now = some (.localMemoryClearDone k) → (getCore s k).clearing = true → Gives (exec .localMemoryClearDone s) fun t =>
      (∀ a, memGet t.mem a = if localKey k 0 ≤ a ∧ a < localKey (k + 1) 0 then 0 else memGet s.mem a) ∧
      ((getCore s k).mrun = none → (getCore s k).mq = [] →
        getCore t k = { getCore s k with clearing := false, acc := [], latch := none, accStale := false }) ∧
      ((getCore s k).mrun.isSome = true ∨ (getCore s k).mq ≠ [] → getCore t k = { getCore s k with clearing := false, accStale := true }) ∧
      ∀ j, j ≠ k → getCore t j = getCore s j) ∧
    (s.now = some (.priorityAging st b) → (storeOf s st)[b]? = some e → (∀ y ∈ storeOf s st, y.reserving = false) →
      Gives (exec .priorityAging s) fun t =>
        storeOf t st = (storeOf s st).map fun y => if y.same e then { y with age := y.age + 1 } else y) ∧
    (let r := settleHead s st
     s.now = some (.headReservation st) → headOf r st = some e → e.reserving = false → launchOf r e = some l →
      (e.saved = [] → (∀ y ∈ l.subs, y.gang = 0) → Gives (exec .headReservation s) fun t =>
        t = modEntry r st e fun y => { y with reserving := true, idle := looseCores r st e }) ∧
      (e.saved = [] → l.subs = [x] → x.gang ≠ 0 → (x.units - x.placed) / 2 ^ x.gang = 1 →
        bestBlock (modEntry r st e fun y => { y with reserving := true }) st e x.gang = some b → Gives (exec .headReservation s) fun t =>
          ∀ m < 2 ^ x.gang, (getCore t (b + m)).reserved = some ⟨st, e.ctx, e.ident, some x.gang⟩)) ∧
    (s.now = some (.intensityClassify l.ctx l.lid) → getLaunch s l.ctx l.lid = some l → l.mark = .none → l.store ≠ 4 →
      (∃ y ∈ l.subs, 0 < y.placed) → Gives (exec .intensityClassify s) fun t => getLaunch t l.ctx l.lid = some { l with mark :=
        if l.bytes = 0 ∨ 400 * l.bytes ≤ l.ops then .compute else if l.ops < 100 * l.bytes then .memory else .mixed })

/-- THERMAL_READING and THERMAL_STEP_UP (R320): a reading sets the temperatures; above 100 °C a cluster's work goes to a cooler one, or, with
none, its step falls by one; at 95 °C or less a step comes back. The model's choices: the work joins a cut of its context, which is then at stage 1 at
most (log 88, DEDUCED); a head that reserves keeps the list of the cores that were free then (log 63, DEDUCED). -/
def Heat : Prop :=
  ∀ (s : State) (c n d : Nat) (temps : List (Nat × Nat)) (rest : List Nat) (ctx : CtxId),
    let x := getCluster s c
    let s1 := modCluster { s with launches := s.launches.map countReading } c fun y => { y with temp := n }
    let w := (s1.launches.filter fun l => runsOn s1 c l && movable s1 c l).map fun l => (l.ctx, l.lid)
    (s.now = some (.thermalReading temps) → (∀ p ∈ temps, p.2 ≤ 100) → (temps.map Prod.fst).Nodup → Gives (exec .thermalReading s) fun t =>
      (∀ p ∈ temps, p.1 < 128 → enabled s p.1 = true → getCluster t p.1 = { getCluster s p.1 with temp := p.2 }) ∧ t.cuts = s.cuts) ∧
    (s.now = some (.thermalReading [(c, n)]) → c < 128 → enabled s c = true → 100 < n →
      ((∀ l ∈ s1.launches, runsOn s1 c l = true → cutNames s1 l.ctx l.lid = false) → coolerFor s1 c = [] → floorStep c < targetStep s1 c →
        Gives (exec .thermalReading s) fun t => (getCluster t c).thermal = BitVec.ofNat 8 (targetStep s1 c - 1) ∧ t.cuts = s.cuts) ∧
      (w ≠ [] → coolerFor s1 c = d :: rest → Gives (exec .thermalReading s) fun t =>
        (∀ p ∈ w, ∃ y ∈ t.cuts, p ∈ y.launches ∧ (c, d) ∈ y.dests ∧ y.stage ≤ 1) ∧
        ((∀ p ∈ w, p.1 = ctx) → (∀ y ∈ s.cuts, y.of ctx = false) →
          t.cuts = s.cuts ++ [⟨[.hotSpot c], 1, w, [], [], [], false, 0, none, [], [(c, d)]⟩]))) ∧
    (s.now = some (.thermalStepUp c) → c < 128 → enabled s c = true → x.temp ≤ 95 → x.thermal.toNat < grantedStep s c →
      Gives (exec .thermalStepUp s) fun t => (getCluster t c).thermal =
        if grantedStep s c ≤ x.thermal.toNat + 1 then 255 else x.thermal + 1)

end Sys2Proof.Machine

/-- The schedulers (R310 to R316) and the thermal rule (R320). -/
def Obligations.SchedulersPlaceWork : Prop := Scheduling ∧ Heat

/-- STOP_REQUEST, CUT_ACKNOWLEDGE, CUT_SECOND_STAGE, CUT_COMPLETE, CUT_RESUME and MIGRATION_TRANSFER_COMPLETE (R303, R317, R327, R328, R329, R330,
R356, R357, R399): a stop request names live work, and joins a cut of its context in progress; a task behind the greatest STEPNO runs on to it;
with equal counts the units stop; at the end no core holds anything of the work, its stores are performed, and an image of each launch on each
core lies in device memory with the local memory as it then stands and its save header; victims of a pre-emption go back to the store instead, and its
entry holds their cores; a resumed task has the registers of its image, and its local memory where another's stands there; after a migration the
context's work is placed on its island alone. The model's choices: where in device memory an image lies (log 21, DESIGN CHOICE), that a core resumes
work only with idle engines (log 87, DESIGN CHOICE), that a joined cut goes back to its first stage (log 88, DEDUCED), and the cores held for the entry
(log 63, DEDUCED). -/
def Obligations.ConsistentCuts : Prop :=
  ∀ (s : State) (w : StopWork) (i k st : Nat) (c : Cut) (u : Machine.Task) (n : BitVec 32) (ctx : CtxId) (lid : Lid) (cores : List Nat) (to_ : Bool) (x : Ctx)
    (p : CtxId × Lid), CoresNumbered s →
    ((w = .context ctx ∨ w = .launch ctx lid) → s.now = some (.stopRequest w) → workLaunches s w ≠ [] →
      (∀ p ∈ workLaunches s w, ∀ y ∈ s.cuts, y.stage = 3 → p ∉ y.launches) →
      ((∀ y ∈ s.cuts, y.of ctx = false) → Gives (exec .stopRequest s) fun t =>
        t = { s with cuts := s.cuts ++ [⟨[w], 1, workLaunches s w, [], [], [], false, 0, none, [], []⟩] }) ∧
      ((∀ m < i, ∀ y, s.cuts[m]? = some y → y.of ctx = false) → s.cuts[i]? = some c → c.of ctx = true → Gives (exec .stopRequest s) fun t =>
        let new := (workLaunches s w).filter fun p => !(c.launches.contains p)
        let d := { c with works := c.works ++ [w], launches := c.launches ++ new }
        (new = [] ∨ c.stage ≤ 1 → t = { s with cuts := s.cuts.set i d }) ∧
        (new ≠ [] → c.stage = 2 → t = { s with core := t.core, rest := t.rest, cuts := s.cuts.set i { d with stage := 1, cycles := [] } } ∧
          ∀ j m n, (getCore s j).mrun = some m → assocGet c.cycles (clusterOf j) = some n → c.owns m.rcd = true →
            getCore t j = { getCore s j with mstart := (getCore s j).mstart + ((getCluster s (clusterOf j)).cycle - n) }))) ∧
    (s.now = some (.cutAcknowledge i k) → s.cuts[i]? = some c → c.stage = 1 → (getCore s k).task = some u → ackOf c (getCore s k) = some n →
      let r := acknowledge s i k
      let acks := assocSet c.acks k n
      let team := taskCores r (u.info.ctx, u.info.lid)
      ((∃ y ∈ team, assocGet acks y.id = none) → Gives (exec .cutAcknowledge s) fun t =>
        (getCore t k).cutAck = some n ∧ t.cuts = s.cuts.set i { c with acks := acks }) ∧
      (∀ top, (∀ y ∈ team, ∃ m, assocGet acks y.id = some m ∧ m.toNat ≤ top) → (∃ y ∈ team, ∃ m, assocGet acks y.id = some m ∧ m.toNat = top) →
        Gives (exec .cutAcknowledge s) fun t => ∀ y ∈ team, ∀ m, assocGet acks y.id = some m → m.toNat < top →
          (getCore t y.id).cutGoal = some (BitVec.ofNat 32 top) ∧ (getCore t y.id).cutAck = none)) ∧
    (s.now = some (.cutSecondStage i) → s.cuts[i]? = some c → c.stage = 1 → (∀ y ∈ c.launches, countsEqual s c y = true) →
      Gives (exec .cutSecondStage s) fun t => ∃ l, t = { s with cuts := s.cuts.set i { c with stage := 2, cycles := l } } ∧
        ∀ j ∈ coresHolding s c, assocGet l (clusterOf j) = some (getCluster s (clusterOf j)).cycle) ∧
    (s.now = some (.cutComplete i) → s.cuts[i]? = some c → c.stage = 2 → (∀ j ∈ coresHolding s c, unitsStopped c (getCore s j) = true) →
      Gives (exec .cutComplete s) fun t => (∀ j ∈ coresHolding s c, holdsWork c (getCore t j) = false ∧ (getCore t j).storeBuf = []) ∧
        (c.claims = [] → c.launches ≠ [] → ∃ l h, t.cuts = s.cuts.set i { c with stage := 3, images := l, acks := [], header := h } ∧
          memRead t.mem (imageKey s.serial 0) 64 = h.toNat ∧
          (∀ y ∈ l, y.snap.id ∈ coresHolding s c ∧ y.header.extractLsb' 0 16 = 1 ∧ y.header.extractLsb' 48 11 = BitVec.ofNat 11 y.snap.id ∧
            ((∀ j ∈ coresHolding s c, j < 1032) → (∃ m, y.lm = imageKey s.serial (localOffset m)) ∧
              ∀ b < 2 ^ 19, memGet t.mem (y.lm + b) = memGet t.mem (localKey y.snap.id b))) ∧
          ∀ j ∈ coresHolding s c, ∀ o ∈ c.launches, holdsLaunch (getCore s j) o = true → getLaunch s o.1 o.2 ≠ none →
            ∃ y ∈ l, y.ctx = o.1 ∧ y.lid = o.2 ∧ y.snap.id = j) ∧
        (c.works = [.victims st c.launches] → c.claims = [(st, p.1, p.2, c.launches)] → c.migrate = none → t.cuts = dropAt s.cuts i ∧
          (p ∉ c.launches → (∃ e ∈ storeOf s st, e.isGraph = false ∧ e.ctx = p.1 ∧ e.ident = p.2) →
            ∀ j ∈ coresHolding s c, (∃ o ∈ c.launches, holdsLaunch (getCore s j) o = true) →
            (getCore s j).reserved = none → (getCore t j).reserved = some ⟨st, p.1, p.2, none⟩))) ∧
    (let l := (liveImages s c.images).zip cores
     s.now = some (.cutResume i cores) → s.cuts[i]? = some c → c.stage = 3 → c.migrate = none → cores.length = (liveImages s c.images).length →
      cores.Nodup → (∀ p ∈ l, resumable s c p.1 p.2 = true) → (∀ p ∈ l, ∀ q ∈ l, sameBlock p q = true) →
      (∀ p ∈ l, p.1.header.extractLsb' 0 16 = 1) →
      Gives (exec .cutResume s) fun t => ∀ p ∈ l, let m := getCore t p.2
        m.task = p.1.snap.task.map (fun y => resumeTask y p.2) ∧ m.owner = some p.1.ctx ∧
        (p.1.snap.task.isSome = true → m.pc = p.1.snap.pc ∧ m.win = p.1.snap.win ∧ m.out = p.1.snap.out ∧
          m.g = p.1.snap.g ∧ m.v = p.1.snap.v ∧ m.p = p.1.snap.p ∧ m.acc = p.1.snap.acc ∧ m.loop = p.1.snap.loop ∧ m.bank = .user) ∧
        m.mq = p.1.snap.mq.map (fun y => y.at p.2) ∧ m.vq = p.1.snap.vq ∧
        (l = [p] → p.1.moved p.2 = true → (∀ z ∈ (getCore s p.2).l1, z.st ≠ .rd) →
          ∀ b < 2 ^ 19, memGet t.mem (localKey p.2 b) = memGet s.mem (p.1.lm + b))) ∧
    (s.now = some (.migrationTransferComplete ctx) → s.cuts[i]? = some c → c.stage = 3 → c.migrate = some (ctx, to_) →
      (∀ j < i, ∀ y, s.cuts[j]? = some y → y.stage = 3 → ∀ m, y.migrate = some m → m.1 ≠ ctx) → getCtx s ctx = some x →
      let up := heldClusters s ctx ++ freeClusters s ctx
      (to_ = true ∨ up ≠ [] → Gives (exec .migrationTransferComplete s) fun t => t.cuts = dropAt s.cuts i ∧
        (∃ y, getCtx t ctx = some y ∧ y.lives = some to_ ∧ y.migrating = none) ∧
        ∀ y ∈ t.launches, y.ctx = ctx →
          y.store = if to_ then 4 else if y.target.toNat < 4 then y.target.toNat else (up.head?.map fun n => n / 32).getD 0) ∧
      (to_ = false → up = [] → c.asked = true → Gives (exec .migrationTransferComplete s) fun t => t = s) ∧
      (to_ = false → up = [] → c.asked = false →
        let s1 := askWake s ⟨ctx, none, none, .pkg, .cold, none⟩ (max 1 (ceilDiv (liveImages s c.images).length 8))
        heldClusters s1 ctx = [] → Gives (exec .migrationTransferComplete s) fun t => t = { s1 with cuts := s1.cuts.set i { c with asked := true } }))

/-! ### Device events: power and clocks (spec/17; spec/01) -/

namespace Sys2Proof.Machine

/-- CLUSTER_IDLE_ENTRY, SMOORED_ENTRY, COLD_ENTRY, CLUSTER_STATE_CHANGE_FINISHED, FIRMWARE_POWER_COMMAND, KINDLE_DEFERRED_CHOICE,
CLUSTER_WAKE_COMPLETE, KHOLD_TIMEOUT, CHANNEL_WAKE_COMPLETE and CHANNEL_SELF_REFRESH_ENTRY (R350 to R355): SMOORED keeps the zero-flagged lines and
the accumulators, COLD no line and no latch; OFF keeps the aperture, register 1,023 and the wake latch and queue; a cluster that KINDLE chooses is held
for its context and wakes. The model's choice: OFF ends every launch and context, and BOOT leaves what a reset leaves (log 66, DEDUCED). -/
def PowerStates : Prop :=
  ∀ (s : State) (c ch : Nat) (t : PState) (q : Kindle),
    let x := getCluster s c
    let quiet := c < 128 ∧ enabled s c = true ∧ x.moving = false ∧ clusterQuiet s c = true
    (s.now = some (.clusterIdleEntry c) → quiet → x.pstate = .run → x.gated = false → Gives (exec .clusterIdleEntry s) fun u =>
      u = setCluster s c { x with pstate := .idle }) ∧
    (s.now = some (.smooredEntry c) → quiet → x.pstate = .idle → x.gated = false → x.khold = false → anyReserved s c = false →
      Gives (exec .smooredEntry s) fun u => (getCluster u c).moving = true ∧ (getCluster u c).target = some .smoored ∧
        ∀ k ∈ coresOf c, (getCore u k).storeBuf = [] ∧ (∀ l ∈ (getCore u k).l1, l.zero = true) ∧ (getCore u k).acc = (getCore s k).acc ∧
          (getCore u k).latch = (getCore s k).latch) ∧
    (s.now = some (.coldEntry c) → quiet → x.pstate = .smoored → Gives (exec .coldEntry s) fun u =>
      (getCluster u c).moving = true ∧ (getCluster u c).target = some .cold ∧
        ∀ k ∈ coresOf c, (getCore u k).l1 = [] ∧ (getCore u k).latch = none ∧ (getCore u k).acc = (getCore s k).acc) ∧
    (s.now = some (.clusterStateChangeFinished c) → x.moving = true → x.target = some t → t ≠ .run →
      Gives (exec .clusterStateChangeFinished s) fun u => (getCluster u c).pstate = t ∧
        ((getCluster u c).moving = true ↔ x.waking.isSome = true ∨ clusterQuiet s c = false) ∧ u.mem = s.mem) ∧
    (s.now = some (.firmwarePowerCommand .packageOff) → s.hub.packageOff = false → Gives (exec .firmwarePowerCommand s) fun u =>
      u.hub.packageOff = true ∧ u.hub.apertureUp = false ∧ u.hub.aperture = s.hub.aperture ∧ u.hub.wakeLatch = s.hub.wakeLatch ∧
      u.hub.wakeReg = s.hub.wakeReg ∧ u.hub.wakeQueue = s.hub.wakeQueue ∧ u.hub.wakeLost = s.hub.wakeLost ∧ u.launches = [] ∧ u.ctxs = []) ∧
    (s.now = some (.firmwarePowerCommand .boot) → s.hub.packageOff = true → Gives (exec .firmwarePowerCommand s) fun u =>
      u.hub.packageOff = false ∧ u.mem = s.mem) ∧
    (s.now = some (.firmwarePowerCommand (.coldCluster c)) → quiet → (x.pstate = .idle ∨ x.pstate = .smoored) → x.gated = false →
      Gives (exec .firmwarePowerCommand s) fun u => (getCluster u c).moving = true ∧ (getCluster u c).target = some .cold) ∧
    (let l := (wakeOrder s q.req).take q.left
     s.now = some .kindleDeferredChoice → s.hub.kindles = [q] → Gives (exec .kindleDeferredChoice s) fun u =>
      u.hub.kindles = (if q.left ≤ l.length then [] else [{ q with left := q.left - l.length }]) ∧
      ∀ d ∈ l, (getCluster u d).khold = true ∧ (getCluster u d).kctx = some q.req.ctx ∧ (getCluster u d).waking = some q.req ∧
        (getCluster u d).moving = true) ∧
    (s.now = some (.clusterWakeComplete c) → x.moving = true → x.target = some .run → Gives (exec .clusterWakeComplete s) fun u =>
      getCluster u c = { x with pstate := .run, moving := false, target := none, waking := none } ∧
      ((∀ r, x.waking = some r → ∀ k off, r.word = some (k, off) → (getCore s k).owner ≠ some r.ctx) → u.mem = s.mem)) ∧
    (s.now = some (.kholdTimeout c) → x.khold = true → x.waking = none → x.moving = false → Gives (exec .kholdTimeout s) fun u =>
      u = setCluster s c { x with khold := false }) ∧
    (s.now = some (.channelWakeComplete ch) → ch ∈ s.hub.wanted → Gives (exec .channelWakeComplete s) fun u =>
      ch ∈ u.hub.awake ∧ ch ∉ u.hub.wanted ∧ u.mem = s.mem) ∧
    (s.now = some (.channelSelfRefreshEntry ch) → packageSleeps s = true → anyWaking s = false → Gives (exec .channelSelfRefreshEntry s) fun u =>
      ch ∉ u.hub.awake ∧ u.mem = s.mem)

/-- RAIL_SWITCH, RAIL_SWITCH_GATE_END, GENERATOR_HANDOVER, CURRENT_SAMPLE, PACKAGE_POWER_WINDOW and DROOP_DETECT (R13, R65, R146, R359 to R361):
a switch waits for a handover down to what the new rail supports (a free value, log 85), gates the clock and then takes the new rail; a handover takes the locked step and the other generator; at the limit every cluster of the
rail stretches and steps down, after 20 calm samples it steps up; the ceiling follows the window; a droop stretches a cycle. -/
def Clocks : Prop :=
  ∀ (s : State) (c code limit watts : Nat) (r : Rail),
    let x := getCluster s c
    (s.now = some (.railSwitch c) → c < 128 → x.pend = true → x.gated = false → x.moving = false →
      (∀ k ∈ coresOf c, (getCore s k).task = none ∧ (getCore s k).bank = .user ∧ enginesBusy (getCore s k) = false) →
      let step := supportedStep s c
      let now_ := if x.locking then x.lockStep.toNat else x.fstep.toNat
      (step < now_ → Gives (exec .railSwitch s) fun t =>
        t = setCluster s c { x with locking := true, lockStep := BitVec.ofNat 8 step, limiter := BitVec.ofNat 8 step }) ∧
      (now_ ≤ step → x.locking = true → exec .railSwitch s = .next s) ∧
      (now_ ≤ step → x.locking = false → Gives (exec .railSwitch s) fun t => t = setCluster s c { x with gated := true })) ∧
    (s.now = some (.railSwitchGateEnd c) → c < 128 → x.pend = true → x.gated = true → Gives (exec .railSwitchGateEnd s) fun t =>
      (getCluster t c).gated = false ∧ (getCluster t c).pend = false ∧ (getCluster t c).rail = railOf x.newRail ∧ t.mem = s.mem) ∧
    (s.now = some (.generatorHandover c) → x.locking = true → Gives (exec .generatorHandover s) fun t =>
      (getCluster t c).fstep = x.lockStep ∧ (getCluster t c).gen = !x.gen ∧ (getCluster t c).stretch = false ∧ t.mem = s.mem) ∧
    (s.now = some (.currentSample r code) → railGet s.hub.railLimit r = some limit →
      (limit ≤ code → Gives (exec .currentSample s) fun t => railGet t.hub.railCalm r = some 0 ∧ ∀ d ∈ clustersOn s r,
        (getCluster t d).stretch = true ∧
        (getCluster t d).limiter = BitVec.ofNat 8 (if floorStep d < targetStep s d then targetStep s d - 1 else targetStep s d)) ∧
      (code < limit → 9 * limit ≤ 10 * code → Gives (exec .currentSample s) fun t => railGet t.hub.railCalm r = some 0 ∧ t.clusters = s.clusters) ∧
      (10 * code < 9 * limit → (railGet s.hub.railCalm r).getD 0 + 1 < 20 → Gives (exec .currentSample s) fun t =>
        railGet t.hub.railCalm r = some ((railGet s.hub.railCalm r).getD 0 + 1) ∧ t.clusters = s.clusters) ∧
      (10 * code < 9 * limit → code < limit → 20 ≤ (railGet s.hub.railCalm r).getD 0 + 1 → Gives (exec .currentSample s) fun t =>
        railGet t.hub.railCalm r = some 0 ∧ ∀ d ∈ clustersOn s r, (getCluster t d).limiter =
          let y := getCluster s d
          if y.limiter.toNat < grantedStep s d then (if grantedStep s d ≤ y.limiter.toNat + 1 then 255 else y.limiter + 1) else y.limiter)) ∧
    (let top := boostStep s.fuses
     let n := min s.hub.ceiling.toNat top
     s.now = some (.packagePowerWindow watts) →
      (520 < watts → 16 < n → Gives (exec .packagePowerWindow s) fun t => t.hub.ceiling = BitVec.ofNat 8 (n - 1)) ∧
      (watts < 500 → n < top → Gives (exec .packagePowerWindow s) fun t => t.hub.ceiling = BitVec.ofNat 8 (n + 1)) ∧
      (500 ≤ watts → watts ≤ 520 → exec .packagePowerWindow s = .next s)) ∧
    (s.now = some (.droopDetect r) → Gives (exec .droopDetect s) fun t => t.mem = s.mem ∧ ∀ d < 129,
      getCluster t d = if enabled s d = true ∧ (getCluster s d).rail = r then { getCluster s d with droop := true } else getCluster s d)

end Sys2Proof.Machine

/-- Cluster states (R350 to R355) and clocks (R359 to R361). -/
def Obligations.PowerAndClocks : Prop := PowerStates ∧ Clocks

/-! ### Device events: links, the host, the complexes, machine checks (spec/01, spec/06, spec/15, spec/17, spec/18) -/

namespace Sys2Proof.Machine

/-- LANE_GROUP_RETIRE, LINK_TURN_APPLY and TURN_DEAD_TIME_END (R16 to R18, R128, R364). The model's choice: TOWARD after a retirement (log 68,
DEDUCED). -/
def Links : Prop :=
  ∀ (s : State) (l : P) (g : BitVec 4) (t : BitVec 5) (r : List (BitVec 5)),
    let x := s.links[l.val]
    let only := fun (u : State) (y : Link) => u = { s with links := s.links.set l.val y, lgfail := u.lgfail }
    (s.now = some (.laneGroupRetire l g) → x.inService = true → x.good.getLsbD g.toNat = true → Gives (exec .laneGroupRetire s) fun u =>
      (3 ≤ x.count → u.lgfail = satAdd s.lgfail 1 ∧ only u { x with good := x.good &&& ~~~(BitVec.ofNat 16 (2 ^ g.toNat)), toward := towardAfter x g.toNat }) ∧
      (x.count < 3 → u.lgfail = satAdd s.lgfail x.count ∧ only u { x with good := 0, inService := false, toward := 0, turns := [], dead := none })) ∧
    (s.now = some (.linkTurnApply l) → x.dead = none → x.turns = t :: r → Gives (exec .linkTurnApply s) fun u =>
      let n := BitVec.ofNat 5 (max 2 (min t.toNat (x.count - 2)))
      (x.count < 4 ∨ n = x.toward → only u { x with turns := r }) ∧ (4 ≤ x.count → n ≠ x.toward → only u { x with turns := r, dead := some n })) ∧
    (s.now = some (.turnDeadTimeEnd l) → x.dead = some t → Gives (exec .turnDeadTimeEnd s) fun u =>
      only u { x with toward := if x.count < 4 then x.toward else BitVec.ofNat 5 (max 2 (min t.toNat (x.count - 2))), dead := none })

/-- HOST_WAKE_WRITE, APERTURE_UP, HOST_MEM_ACCESS, HEARTBEAT_TIMEOUT, LIVE_UPDATE, ATTESTATION_REQUEST, MACHINE_CHECK and CORE_RESTART (R130, R132,
R287, R304, R326, R362, R368, R370 to R372). A host access of a line that an overflow task holds waits (log 105, DEDUCED). The model's choice: reads of
the aperture and of the capability block are 8 bytes wide (log 69, DESIGN CHOICE). -/
def HostAndComplexes : Prop :=
  ∀ (s : State) (v : Word) (a : BitVec 48) (n : Nat) (bytes : List Byte) (ap : Fin 1024) (cap : Fin 4) (m : BitVec 512) (nonce : BitVec 256) (k : Nat) (src : BitVec 8) (bank : BitVec 16)
    (synd addr : Word) (ctx : CtxId), Sound s →
    (s.now = some (.hostWakeWrite v) →
      (s.hub.apertureUp = false → Gives (exec .hostWakeWrite s) fun t =>
        (s.hub.wakeLatch = none → t = { s with hub := { s.hub with wakeLatch := some v } }) ∧
        (s.hub.wakeLatch ≠ none → s.hub.wakeQueue.length < 16 → t = { s with hub := { s.hub with wakeQueue := s.hub.wakeQueue ++ [v] } }) ∧
        (s.hub.wakeLatch ≠ none → 16 ≤ s.hub.wakeQueue.length → t = { s with hub := { s.hub with wakeLost := satAdd s.hub.wakeLost 1 } })) ∧
      (s.hub.apertureUp = true → wakeRefusal s v = none → s.hub.kindles = [] → Gives (exec .hostWakeWrite s) fun t =>
        let q : WakeReq := ⟨v.extractLsb' 18 10, none, none, .pkg, wakeClassOf (v.extractLsb' 0 2), none⟩
        t.hub.awake = List.range 96 ∧ t.hub.wakeReg = v ∧ ∀ c ∈ (wakeOrder s q).take (v.extractLsb' 8 10).toNat, (getCluster t c).khold = true ∧
          (getCluster t c).kctx = some (v.extractLsb' 18 10)) ∧
      (∀ e, s.hub.apertureUp = true → wakeRefusal s v = some e → Gives (exec .hostWakeWrite s) fun t => t.clusters = s.clusters ∧
        t = journalEvent s (v.extractLsb' 18 10) e)) ∧
    (s.now = some .apertureUp → s.hub.apertureUp = false → s.hub.packageOff = false → Gives (exec .apertureUp s) fun t =>
      t.hub.apertureUp = true ∧ t.hub.wakeLatch = none ∧ t.hub.wakeQueue = []) ∧
    (s.now = some (.hostMemAccess (.read a n)) → hostWaits s a.toNat n = true → exec .hostMemAccess s = .next s) ∧
    (s.now = some (.hostMemAccess (.write a bytes)) → hostWaits s a.toNat bytes.length = true → exec .hostMemAccess s = .next s) ∧
    (s.now = some (.hostMemAccess (.read a n)) → hostWaits s a.toNat n = false → Gives (exec .hostMemAccess s) fun t =>
      (inHostRange s a.toNat n = true → t = { s with hub := { s.hub with
        hostRead := (List.range n).map fun i => memGet s.mem (a.toNat + i), hostPoison := false } }) ∧
      (inHostRange s a.toNat n = false → t = { s with hub := { s.hub with
        hostRead := List.replicate n 0xFF, hostPoison := true, hostRefused := satAdd s.hub.hostRefused 1 } })) ∧
    (s.now = some (.hostMemAccess (.write a bytes)) → hostWaits s a.toNat bytes.length = false → Gives (exec .hostMemAccess s) fun t =>
      (inHostRange s a.toNat bytes.length = true → (∀ i b, bytes[i]? = some b → memGet t.mem (a.toNat + i) = b) ∧
        (∀ j, j < a.toNat ∨ a.toNat + bytes.length ≤ j → memGet t.mem j = memGet s.mem j) ∧
        ∀ c, ∀ y ∈ (getCore t c).l1, y.addr = a.toNat / 128 → bytes ≠ [] → y.st.remote = false → y.zero = false) ∧
      (inHostRange s a.toNat bytes.length = false → t = { s with hub := { s.hub with hostRefused := satAdd s.hub.hostRefused 1 } })) ∧
    (s.now = some (.hostMemAccess (.own a bytes)) → 2 ^ 47 ≤ a.toNat → a.toNat + bytes.length ≤ 2 ^ 48 → Gives (exec .hostMemAccess s) fun t =>
      (∀ i b, bytes[i]? = some b → memGet t.mem (a.toNat + i) = b) ∧
      ∀ j, j < a.toNat ∨ a.toNat + bytes.length ≤ j → memGet t.mem j = memGet s.mem j) ∧
    (s.now = some (.hostMemAccess (.aperture ap)) → Gives (exec .hostMemAccess s) fun t => 
      let reg := if ap = 1023 then s.hub.wakeReg else ((s.hub.aperture.find? fun p => p.1.toNat == ap.val).map Prod.snd).getD 0
      t = { s with hub := { s.hub with hostPoison := false, hostRead := toBytes 8 reg.toNat } }) ∧
    (s.now = some (.hostMemAccess (.capability cap)) → Gives (exec .hostMemAccess s) fun t => ofBytes t.hub.hostRead =
      if cap.val < 2 then field s.fuses.clusEn.toNat (64 * cap.val) 64
      else (List.range 4).foldl (fun acc i => acc + (s.links[4 * (cap.val - 2) + i]?.map fun l => l.good.toNat).getD 0 * 2 ^ (16 * i)) 0) ∧
    (s.now = some .heartbeatTimeout → Gives (exec .heartbeatTimeout s) fun t => t = { s with hub := { s.hub with activeA := !s.hub.activeA } }) ∧
    (∀ ok, s.now = some (.liveUpdate false ok m) → Gives (exec .liveUpdate s) fun t => t = journalEvent s 0 0x0300) ∧
    (s.now = some (.liveUpdate true false m) → Gives (exec .liveUpdate s) fun t => t = journalEvent s 0 0x0301) ∧
    (s.now = some (.liveUpdate true true m) → Gives (exec .liveUpdate s) fun t => t.hub.measurement = extendMeasure s.hub.measurement m ∧
      t.hub.measureLog = s.hub.measureLog ++ [m] ∧ t.hub.activeA = !s.hub.activeA ∧ t.launches = s.launches ∧
      ∀ c, getCore t c = { getCore s c with l1 := (getCore t c).l1 }) ∧
    (s.now = some (.attestationRequest nonce) → Gives (exec .attestationRequest s) fun t => t = { s with hub := { s.hub with
      attest := some (mlDsaSign (toBytes 32 nonce.toNat ++ toBytes 64 s.hub.measurement.toNat)) } }) ∧
    (coreEnabled s k = true → s.now = some (.machineCheck k .corrected) → Gives (exec .machineCheck s) fun t =>
      getCore t k = { getCore s k with mcb := { (getCore s k).mcb with corr := satAdd (getCore s k).mcb.corr 1 } }) ∧
    (coreEnabled s k = true → s.now = some (.machineCheck k (.uncorrectable src bank synd addr)) → sramSource src = true →
      (getCore s k).owner = some ctx → Gives (exec .machineCheck s) fun t =>
        (getCore t k).halted = true ∧ (getCore t k).mcb.valid = true ∧ (getCore t k).mcb.src = src ∧ (getCore t k).mcb.bank = bank ∧
        (getCore t k).mcb.synd = synd ∧ (getCore t k).mcb.maddr = addr ∧ (∀ l ∈ t.launches, l.ctx ≠ ctx) ∧
        ∀ c, getCtx s ctx = some c → ∃ d, getCtx t ctx = some d ∧ d.guilt = c.guilt ∧ ∀ y ∈ d.queues, y.barred = true) ∧
    (s.now = some (.machineCheck k (.requester 7 bank ctx synd addr)) → Gives (exec .machineCheck s) fun t => (∀ l ∈ t.launches, l.ctx ≠ ctx) ∧
      (coreEnabled s k = true → (getCore t k).halted = true ∧ (getCore t k).mcb.src = 7 ∧ (getCore t k).mcb.bank = bank ∧
        (getCore t k).mcb.maddr = addr ∧ (getCore t k).mcb.fcode = (getCore s k).mcb.fcode)) ∧
    (s.now = some (.coreRestart k) → (getCore s k).halted = true → Gives (exec .coreRestart s) fun t =>
      getCore t k = { getCore s k with halted := false, mcb := { (getCore s k).mcb with valid := false } } ∧ t.mem = s.mem)

end Sys2Proof.Machine

/-- Die links (R16 to R18, R364), the host and the command complexes (R130, R368, R370 to R372), machine checks (R326). -/
def Obligations.LinksAndHost : Prop := Links ∧ HostAndComplexes

/-! ### Device events: trace, debug, firmware (spec/19; spec/06 to spec/08; spec/17) -/

namespace Sys2Proof.Machine

/-- TRACE_RECORD_WRITE, TRACE_SAMPLE_TIMER, CAPTURE_END, DEBUG_CORE_STOP and DEBUG_CORE_RESUME (R374 to R380): a record that fits is written at WR,
which moves on by its length; one for which not even a word is free is counted lost. The model's choice: when a debug stop is in force (log 57,
DEDUCED). -/
def TraceAndDebug : Prop :=
  ∀ (s : State) (r : TraceRec) (rest : List TraceRec) (b : SampleBuf) (k c : Nat) (u : Task), Sound s →
    let p := b.wr.toNat % b.size.toNat
    let free := b.size.toNat - (b.wr - b.rd).toNat
    (s.now = some .traceRecordWrite → s.traceQ = r :: rest → (s.buffers.find? fun y => y.n == r.buf) = some b → b.size ≠ 0 →
      (b.wr - b.rd).toNat ≤ b.size.toNat →
      (p + r.words.length ≤ b.size.toNat → r.words.length ≤ free → Gives (exec .traceRecordWrite s) fun t => t.traceQ = rest ∧
        (∀ i w, r.words[i]? = some w → memRead t.mem (b.base.toNat + 8 * (p + i)) 8 = w.toNat) ∧
        (∀ a, a < b.base.toNat + 8 * p ∨ b.base.toNat + 8 * (p + r.words.length) ≤ a → memGet t.mem a = memGet s.mem a) ∧
        (t.buffers.find? fun y => y.n == r.buf) = some { b with wr := b.wr + BitVec.ofNat 32 r.words.length }) ∧
      (free = 0 → r.words ≠ [] → Gives (exec .traceRecordWrite s) fun t => t.traceQ = rest ∧ t.mem = s.mem ∧
        (t.buffers.find? fun y => y.n == r.buf) = some { b with lostn := satAdd b.lostn 1 })) ∧
    (let x := getCluster s (clusterOf k)
     s.now = some (.traceSampleTimer k) → coreEnabled s k = true → traces x 1 true = true → x.sintv ≠ 0 → x.pstate = .run → x.gated = false →
      (getCore s k).task = some u → Gives (exec .traceSampleTimer s) fun t => t = { s with traceQ := s.traceQ ++ [⟨x.buf,
        [traceHeader x.cycle (BitVec.ofNat 11 k) 3 4, (vfstate x).zeroExtend 64, ((getCore s k).pc.extractLsb' 0 56).zeroExtend 64,
          u.actid ++ u.info.lid]⟩] }) ∧
    (let x := getCluster s (clusterOf k)
     s.now = some (.traceSampleTimer k) → coreEnabled s k = true → traces x 1 true = true → x.sintv ≠ 0 → x.pstate = .run → x.gated = false →
      (getCore s k).task = none → (getCore s k).bank = .service → Gives (exec .traceSampleTimer s) fun t => t = { s with traceQ := s.traceQ ++ [⟨x.buf,
        [traceHeader x.cycle (BitVec.ofNat 11 k) 3 4, (vfstate x).zeroExtend 64, ((getCore s k).pc.extractLsb' 0 56).zeroExtend 64, 0]⟩] }) ∧
    (s.now = some (.captureEnd c) → (getCluster s c).capt = true → Gives (exec .captureEnd s) fun t =>
      t = setCluster s c { getCluster s c with capt := false }) ∧
    (s.now = some (.debugCoreStop k) → coreEnabled s k = true → (getCore s k).debugStopped = false → Gives (exec .debugCoreStop s) fun t =>
      (getCore t k).debugStop = true ∧ (getCore t k).task = (getCore s k).task ∧ ((getCore t k).debugStopped = true ↔ mayStop s k = true) ∧
      t.mem = s.mem) ∧
    (s.now = some (.debugCoreResume k) → coreEnabled s k = true → Gives (exec .debugCoreResume s) fun t =>
      getCore t k = { getCore s k with debugStop := false, debugStopped := false } ∧ t.mem = s.mem)

/-- FIRMWARE_REGISTER_WRITE: each register, table or grant that firmware sets reads as written, and nothing else changes; a sample buffer described
again keeps RD, WR and LOSTN. The model's choices: a context beyond the 256th is not made (log 92, DESIGN CHOICE), a guilt limit bars at once and ARM
stands without CAPT (log 70, DEDUCED). -/
def FirmwareWrites : Prop :=
  ∀ (s : State) (ctx : CtxId) (root base : BitVec 48) (on : Bool) (watch : BitVec 56) (ls : BitVec 4) (c : Ctx) (n : BitVec 8) (q : BitVec 4)
    (lsize : BitVec 5) (prio : BitVec 6) (x : CmdQueue) (k i : Nat) (g : BitVec 9) (a : BitVec 10) (l : P) (rail : BitVec 2) (w : Word)
    (size : BitVec 32) (parts : BitVec 4) (r : Rail) (rd : BitVec 16) (slot : Fin 16) (hs : BitVec 48) (b : SampleBuf) (rp : BitVec 32)
    (sq cq bell : BitVec 48) (ns : BitVec 32),
    let wrote := fun (f : FwWrite) (p : State → Prop) => s.now = some (.firmwareRegisterWrite f) → Gives (exec .firmwareRegisterWrite s) p
    let hub := fun (f : FwWrite) (h : Hub) => wrote f fun t => t = { s with hub := h }
    let ctxIs := fun (f : FwWrite) (d : Ctx) => getCtx s ctx = some c → wrote f fun t =>
      getCtx t ctx = some d ∧ t = { s with ctxs := t.ctxs } ∧ ∀ y, y ≠ ctx → getCtx t y = getCtx s y
    (getCtx s ctx = none → s.ctxs.length < 256 → wrote (.contextCreate ctx root on watch base ls) fun t => ∃ d, getCtx t ctx = some d ∧ d.root = root ∧
      d.wakeGrant = on ∧ d.watch = watch ∧ d.faultBase = base ∧ d.faultLsize = ls ∧ d.guilt = 0 ∧ d.guiltLimit = 8 ∧ d.queues = []) ∧
    (256 ≤ s.ctxs.length → wrote (.contextCreate ctx root on watch base ls) fun t => t = s) ∧
    ctxIs (.contextRoot ctx root) { c with root := root } ∧ ctxIs (.wakeGrant ctx on) { c with wakeGrant := on } ∧
    ctxIs (.guiltLimit ctx n) { c with guiltLimit := n, queues := c.queues.map fun y => { y with barred := y.barred || decide (n.toNat < c.guilt.toNat) } } ∧
    ctxIs (.guiltClear ctx) { c with guilt := 0, queues := c.queues.map fun y => { y with barred := false } } ∧
    ctxIs (.faultRd ctx rd) { c with faultRd := rd } ∧ ctxIs (.faultDropClear ctx) { c with faultDrop := 0 } ∧
    (getCtx s ctx = some c → (∀ y ∈ c.queues, y.q ≠ q) → wrote (.queueCreate ctx q base lsize prio on) fun t =>
      getQueue t ctx q = some (newQueue q base lsize prio on)) ∧
    (getQueue s ctx q = some x → wrote (.queuePrio ctx q prio) (fun t => getQueue t ctx q = some { x with prio := prio }) ∧
      wrote (.errstatClear ctx q) fun t => getQueue t ctx q = some { x with errstat := 0 }) ∧
    wrote (.refusalClear i) (fun t => t = { s with refusals := s.refusals.setIfInBounds i 0 }) ∧
    (coreEnabled s k = true →
      wrote (.routeDropClear k) (fun t => getCore t k = { getCore s k with routeDrops := 0 }) ∧
      wrote (.correctedClear k) fun t => getCore t k = { getCore s k with mcb := { (getCore s k).mcb with corr := 0 } }) ∧
    hub .hubCorrectedClear { s.hub with corrected := 0 } ∧
    wrote (.emberGrant g ctx on) (fun t => (t.hub.emberGrants.contains (g, ctx) = on) ∧ ∀ y ≠ (g, ctx),
      t.hub.emberGrants.contains y = s.hub.emberGrants.contains y) ∧
    (a ≠ 1023 → wrote (.apertureGrant a (some ctx)) fun t => t.hub.apertureGrants.contains (a, ctx) = true ∧
      ∀ d, d ≠ ctx → t.hub.apertureGrants.contains (a, d) = false) ∧
    wrote (.lease l (some ctx)) (fun t => t = { s with links := s.links.set l.val { s.links[l.val] with lease := some ctx } }) ∧
    hub (.railParts rail parts) { s.hub with railParts := s.hub.railParts.setIfInBounds rail.toNat parts } ∧
    wrote (.railLimit r i) (fun t => railGet t.hub.railLimit r = some i) ∧
    hub (.dramPolicy on) { s.hub with dramHeld := on } ∧ hub (.smhold i) { s.hub with smhold := i } ∧ hub (.coldhold i) { s.hub with coldhold := i } ∧
    (enabled s i = true → wrote (.traceControl i w) fun t => getCluster t i = { getCluster s i with
      sintv := w.extractLsb' 32 32, caplen := w.extractLsb' 16 16, buf := w.extractLsb' 8 8, arm := (getCluster s i).arm || w.getLsbD 7,
      en := w.extractLsb' 0 6 }) ∧
    (16 ≤ size.toNat → size.toNat ≤ 2 ^ 28 → base.toNat % 64 = 0 → wrote (.sampleBuffer n base size) fun t =>
      (t.buffers.find? fun y => y.n == n) = match s.buffers.find? fun y => y.n == n with
        | some y => some { y with base := base, size := size }
        | none => some ⟨n, base, size, 0, 0, 0⟩) ∧
    ((s.buffers.find? fun y => y.n == n) = some b →
      wrote (.sampleRead n rp) (fun t => (t.buffers.find? fun y => y.n == n) = some { b with rd := rp }) ∧
      wrote (.sampleLostClear n) fun t => (t.buffers.find? fun y => y.n == n) = some { b with lostn := 0 }) ∧
    (s.hub.journal.events = [] → wrote (.journal base i) fun t => t.hub.journal = { s.hub.journal with base := base, entries := i } ∧
      ∀ j, memGet t.mem j = if base.toNat ≤ j ∧ j < base.toNat + 32 * i then 0 else memGet s.mem j) ∧
    (2 ≤ i → i ≤ 1024 → k = 512 ∨ k = 4096 → s.hub.moves = [] →
      hub (.nvmeGrant i k sq cq bell ns) { s.hub with nvme := some ⟨i, k, sq, cq, bell, ns, 0, 0, 0, true, 0⟩ }) ∧
    hub .nvmeRevoke { s.hub with nvme := none, moves := s.hub.moves.map fun m => { m with cid := none } } ∧
    (base.toNat % 65536 = 0 → hs.toNat % 65536 = 0 → wrote (.hostRange slot base hs) fun t => t.hub.hostRanges[slot.val]? = some (base, hs)) ∧
    hub .hostRefusalClear { s.hub with hostRefused := 0 }

end Sys2Proof.Machine

/-- Trace and debug (R374 to R380), and what firmware sets. -/
def Obligations.TraceDebugAndFirmware : Prop := TraceAndDebug ∧ FirmwareWrites

/-- The guard (R168): every instruction that is not a vector, a stream or a privileged one tests bit 0 of its guard, and when that bit is false it
changes nothing but the PC, whatever its operands hold. -/
def Obligations.FalseGuardsMoveOn : Prop :=
  ∀ (s : State) (h : Hdr) (off : BitVec 20) (d a b : WG) (x y : WGI) (t u : Ty) (l : WGIL) (n : BitVec 6) (k : CntKind) (p q r : P) (w : PWin) (c : Cond)
    (fc : FCond) (ow : Option WG) (o : Sys2Proof.Ord) (sc : Scope) (e : Ring) (ov : Option V) (dq : WGQ) (lv : Level) (wc : WakeClass) (v
    : V) (sr : SReg) (m : BitVec 14),
    s.core.bank = .user → guardBit s h = false →
    ∀ i ∈ [Instr.nop h, .br h off, .brz h off d, .brnz h off d, .brdec h off d, .jmp h d, .call h off, .callr h d, .ret h, .loop h off x,
           .lbrk h, .fork h off d a x, .join h d, .endTask h, .step h, .trap h x, .iadd h t d a l, .isub h t d a x, .iadds h t d a x,
           .isubs h t d a x, .ineg h t d a, .iabs h t d a, .imin h t d a x, .imax h t d a x, .iminn h t d a x, .imaxn h t d a x,
           .iand h t d a l, .ior h t d a l, .ixor h t d a l, .iandn h t d a x, .ishl h t d a x, .ishr h t d a x, .isar h t d a x,
           .irot h t d a x, .iext h n d a x, .iextn h n d a x, .iins h n d a x, .icnt h t k d a, .imov h t d l, .isel h t p d a x,
           .imul h t d a x, .imulh h t d a x, .imulhn h t d a x, .imad h t d a x, .idiv h t d a x, .idivn h t d a x, .irem h t d a x,
           .iremn h t d a x, .ilea h n d a x, .idxt h d w a, .icmp h t c p d l, .fcmp h fc p d a, .pand h p q r, .por h p q r,
           .pxor h p q r, .pnot h p q, .pget h d p, .pset h p x, .pfirst h d p, .pcnt h d p, .fadd h d a b, .fsub h d a b, .fmul h d a b,
           .ffma h d a b, .fdiv h d a b, .fsqrt h d a, .fmin h d a b, .fmax h d a b, .fabs h d a, .fneg h d a, .fcvtif h t d a,
           .fcvtfi h t d a, .fcvtfiz h t d a, .frcp h d a, .fexp2 h d a, .flog2 h d a, .ld h t d a x, .st h t d a x, .ldl h t d a x,
           .stl h t d a x, .ldpw h t d w ow, .pref h d x, .zline h d x, .wbline h d x, .invline h d x, .aadd h t o sc d a x,
           .amin h t o sc d a x, .amax h t o sc d a x, .aminn h t o sc d a x, .amaxn h t o sc d a x, .aand h t o sc d a x,
           .aor h t o sc d a x, .axor h t o sc d a x, .aswp h t o sc d a x, .acas h t o sc d a x, .ldacq h t sc d a x,
           .strel h t sc d a x, .fence h o sc, .waita h sc x d y, .gbar h, .radvc h e, .radvp h e, .rstat h d e, .send h o sc d ov,
           .sendl h o sc d a x, .mlda h t u d, .mgang h t u n x d ow, .mma h t u n x d ow, .mzero h n x, .mstf h n x d, .mstq h n x d a,
           .mstb h n x d, .mldc h n x d, .mwait h, .mstat h d, .cpy h sc dq d a, .cpy2 h sc dq d a, .cpyg h sc dq d a, .cpyz h sc dq d,
           .cpyb h sc d a b, .cwait h x, .cstat h d x, .ccancel h d x, .rkdecl h n d, .rksweep h n, .rkwake h n x y, .rkwait h n,
           .rkstat h n d, .spawn h d a x, .launch h d a, .glaunch h d a x, .cancel h lv d x, .bind h d a b, .unbind h d x,
           .compl h lv d x, .kindle h wc sc d x a, .migrate h d x, .tkcmt h n d x v, .tkwset h n d x a, .tkwclr h n d x, .notify h d x,
           .idle h, .srd h d sr, .seed h x, .rand h d, .lturn h d x y, .pwrreq h d x, .trmark h x, .bkpt h m, .dlyrd h d x, .dlyclr h x,
           .csync h],
      Gives (exec i s) (WroteNothing s)

/-! ### The machine as a whole -/

/-- A turn of a core that can run: it fetches the word at its PC, decodes it, and the step is exec of the instruction in the state after the fetch
(R163 to R173); a word that does not decode faults: one whose operand alone is bad with ILLEGAL_OPERAND, unless the instruction is none the task may
run. An instruction that names what a waiting vector command is to write, or that must follow it, waits for it (R183, R300; log 90, DEDUCED), and one
that performs stores whose line an overflow task holds waits for that task (R86; log 105, DEDUCED). The turn puts the core in focus and lets time pass
first (log 1, log 5, DESIGN CHOICES). -/
def Obligations.StepRunsTheDecodedInstruction : Prop :=
  ∀ (s s1 : State) (k : Nat) (r : List Happening) (w : BitVec 96) (i : Instr) (e : Event), s.agenda = .turn k :: r →
    let u := turnOf { s with agenda := r } k
    (canRun u = true → fetchWord u = .ok (w, s1) → decodeWord w = .ok i →
      (heldBack s1 i = true → step s = .next (standIn s1 .engineQueue)) ∧
      (heldBack s1 i = false → heldStores s1 i = true → step s = .next (standIn s1 .memory)) ∧
      (heldBack s1 i = false → heldStores s1 i = false → step s = exec i s1)) ∧
    (canRun u = true → fetchWord u = .ok (w, s1) → decodeWord w = .error .insn → step s = .next (illegal s1)) ∧
    (let f := fieldsOf w
     let barred := s1.core.bank = .user ∧ privileged s1 = false ∧ (privilegedOp f.op || swrPrivileged f) = true ∨
       s1.core.bank = .service ∧ serviceForbids f = true
     canRun u = true → fetchWord u = .ok (w, s1) → decodeWord w = .error .operand → s1.core.bank ≠ .coal →
      (barred → step s = .next (illegal s1)) ∧ (¬ barred → step s = .next (illegalOperand s1))) ∧
    (canRun u = false → step s = .next u) ∧
    (step { s with agenda := .happen e :: r } = exec e.instr (eventOf { s with agenda := r } e))

/-- The seven words of the listing of spec/09 decode to its seven lines, kelasm writes those words for the lines as they are printed, and the
altered words of its table of fates fault as the table says (R163 to R173, R176 to R181). -/
def Obligations.WordsOfTheSpecDecode : Prop :=
  let al : Hdr := ⟨false, 0, 0⟩
  let line := fun (t : String) (w2 w1 w0 : BitVec 32) =>
    assembleInsn ⟨fun _ => .error .undefined, .error .expression, fun _ => none⟩ [] 0 t.toList = .ok (w2 ++ w1 ++ w0, [])
  line "IADD.I64       w8, w0, #16" 0x10000040 0x08100020 0x01060000 ∧
  line "ICMP.I32.LT    p2, w3, #-5" 0x30000100 0x021000E3 0xFFB42000 ∧
  line "IADD.I64       w12, w12, #0x1_2345_6789" 0x10000040 0x0C100325 0x23456789 ∧
  line "(!p3) IADD.I32 w8, w8, #-1  hint:0x80" 0x102E0040 0x08100223 0xFFF40000 ∧
  line "ST.I64         [w0+64], w8" 0x50400040 0x08100020 0x04060000 ∧
  line "BR             .+1" 0x00800000 0 1 ∧
  line "END" 0x03800000 0 0 ∧
  let word := fun (w2 w1 w0 : BitVec 32) => decodeWord (w2 ++ w1 ++ w0)
  word 0x10000040 0x08100020 0x01060000 = .ok (.iadd al .i64 (.w 8) (.w 0) (.imm 16)) ∧
  word 0x30000100 0x021000E3 0xFFB42000 = .ok (.icmp al .i32 .lt 2 (.w 3) (.imm (-5))) ∧
  word 0x10000040 0x0C100325 0x23456789 = .ok (.iadd al .i64 (.w 12) (.w 12) (.long 0x123456789)) ∧
  word 0x102E0040 0x08100223 0xFFF40000 = .ok (.iadd ⟨true, 3, 0x80⟩ .i32 (.w 8) (.w 8) (.imm (-1))) ∧
  word 0x50400040 0x08100020 0x04060000 = .ok (.st al .i64 (.w 8) (.w 0) (.imm 64)) ∧
  word 0x00800000 0 1 = .ok (.br al 1) ∧
  word 0x03800000 0 0 = .ok (.endTask al) ∧
  word 0xF0000040 0x08100020 0x01060000 = .error .insn ∧
  word 0x16000040 0x08100020 0x01060000 = .error .insn ∧
  word 0x10200040 0x08100020 0x01060000 = .error .insn ∧
  word 0x10000040 0x08100020 0x01060200 = .error .insn ∧
  word 0x10000040 0x18100020 0x01060000 = .error .operand ∧
  word 0x10000040 0x0810002C 0x01060000 = .error .operand ∧
  word 0x16000040 0x18100020 0x01060000 = .error .insn ∧
  word 0x10003C40 0x08100020 0x01060000 = .ok (.iadd ⟨false, 0, 0x0F⟩ .i64 (.w 8) (.w 0) (.imm 16)) ∧
  word 0 0 0 = .ok (.illegal 0)

/-- Decoding and encoding agree (R166 to R173): a word decodes to an instruction exactly when the instruction is well formed and the encoder writes
that word for it. So whatever word kelasm writes for a line, wherever it stands and whatever its symbols are, is the encoding of a
well-formed instruction, if the line leaves no offset to kelink (R176 to R181; a relocation of KIND 3 is one). -/
def Obligations.DecodingInvertsEncoding : Prop :=
  (∀ (w : BitVec 96) (i : Instr), decodeWord w = .ok i ↔ Instr.wf i = true ∧ encode i = some w) ∧
  (∀ (env : AsmEnv) (sect : Text) (here : Nat) (t : Text) (w : BitVec 96) (l : List Reloc),
    assembleInsn env sect here t = .ok (w, l) → (∀ r ∈ l, r.kind ≠ 3) → ∃ i, Instr.wf i = true ∧ encode i = some w)

/-- The state after reset (R14, R16, R65, R113, R125, R141, R145, R146, R161, R350): no task, no launch, no table entry, every generator and count at
zero; the blaze clusters COLD on their rails and the ember cluster running; the links split by their good lane groups. The part is a full one of bin 0 (log 3), and memory
reads zero (log 4). -/
def Obligations.ResetLeavesTheSpecsValues : Prop :=
  let s := State.reset
  Sound s ∧ CoresNumbered s ∧ s.mem = [] ∧ s.launches = [] ∧ s.graphs = [] ∧ s.network = [] ∧ s.lgfail = 0 ∧
  (∀ st : Fin 5, s.stores[st] = [] ∧ s.refusals[st] = 0) ∧
  (∀ l : P, (s.links[l]).good = BitVec.allOnes 16 ∧ (s.links[l]).toward = 8 ∧ (s.links[l]).inService = true ∧ (s.links[l]).turns = []) ∧
  readSpecial s .caps = 0x0280820820000000 ∧ readSpecial s .msimg = 0x0000000100032100 ∧
  (∀ c < 128, (getCluster s c).pstate = .cold ∧ some (getCluster s c).rail = [Rail.a, .b, .c, .d][c / 32]? ∧ (getCluster s c).pend = false) ∧
  (getCluster s 128).pstate = .run ∧ (getCluster s 128).rail = .e ∧
  ∀ k < 1032, coreEnabled s k = true ∧ (getCore s k).task = none ∧ (getCore s k).genS = 0 ∧ (getCore s k).nextAct = 0 ∧
    (getCore s k).routes = [] ∧ (getCore s k).pins = Vector.replicate 8 none ∧ (∀ r : Fin 16, ((getCore s k).rings[r]).valid = false) ∧
    (∀ n < 110, account (getCore s k) n = (0, 0)) ∧ (getCore s k).mcb.valid = false ∧ (getCore s k).halted = false

/-- Memory keeps its canonical form, and every core stays listed once under its own number: no step of any kind breaks either, from any state that
has it. Both forms are the model's own (the list of bytes log 4, the list of cores log 1, DESIGN CHOICES): no rule of the spec states them. -/
def Obligations.MemoryAndCoresStayInForm : Prop :=
  ∀ s t : State, step s = .next t → (Sound s → Sound t) ∧ (CoresNumbered s → CoresNumbered t)
end

