-- ==== Sys2Proof/Laws/State.lean ====
section
/-!
SUPPORT. Sys2Proof/Laws/State.lean: what each named update of the state leaves alone, field by field, true by rfl, so that no later
proof unfolds a record update.
-/
namespace Sys2Proof.Machine

@[simp] theorem onCore_rest (s : State) (f : Core → Core) : (onCore s f).rest = s.rest := rfl
@[simp] theorem onCore_clusters (s : State) (f : Core → Core) : (onCore s f).clusters = s.clusters := rfl
@[simp] theorem onCore_mem (s : State) (f : Core → Core) : (onCore s f).mem = s.mem := rfl
@[simp] theorem onCore_ctxs (s : State) (f : Core → Core) : (onCore s f).ctxs = s.ctxs := rfl
@[simp] theorem onCore_launches (s : State) (f : Core → Core) : (onCore s f).launches = s.launches := rfl
@[simp] theorem onCore_graphs (s : State) (f : Core → Core) : (onCore s f).graphs = s.graphs := rfl
@[simp] theorem onCore_stores (s : State) (f : Core → Core) : (onCore s f).stores = s.stores := rfl
@[simp] theorem onCore_refusals (s : State) (f : Core → Core) : (onCore s f).refusals = s.refusals := rfl
@[simp] theorem onCore_network (s : State) (f : Core → Core) : (onCore s f).network = s.network := rfl
@[simp] theorem onCore_links (s : State) (f : Core → Core) : (onCore s f).links = s.links := rfl
@[simp] theorem onCore_dirs (s : State) (f : Core → Core) : (onCore s f).dirs = s.dirs := rfl
@[simp] theorem onCore_dirReqs (s : State) (f : Core → Core) : (onCore s f).dirReqs = s.dirReqs := rfl
@[simp] theorem onCore_caches (s : State) (f : Core → Core) : (onCore s f).caches = s.caches := rfl
@[simp] theorem onCore_walks (s : State) (f : Core → Core) : (onCore s f).walks = s.walks := rfl
@[simp] theorem onCore_cuts (s : State) (f : Core → Core) : (onCore s f).cuts = s.cuts := rfl
@[simp] theorem onCore_traceQ (s : State) (f : Core → Core) : (onCore s f).traceQ = s.traceQ := rfl
@[simp] theorem onCore_buffers (s : State) (f : Core → Core) : (onCore s f).buffers = s.buffers := rfl
@[simp] theorem onCore_hub (s : State) (f : Core → Core) : (onCore s f).hub = s.hub := rfl
@[simp] theorem onCore_fuses (s : State) (f : Core → Core) : (onCore s f).fuses = s.fuses := rfl
@[simp] theorem onCore_lgfail (s : State) (f : Core → Core) : (onCore s f).lgfail = s.lgfail := rfl
@[simp] theorem onCore_flash (s : State) (f : Core → Core) : (onCore s f).flash = s.flash := rfl
@[simp] theorem onCore_serial (s : State) (f : Core → Core) : (onCore s f).serial = s.serial := rfl
@[simp] theorem onCore_free (s : State) (f : Core → Core) : (onCore s f).free = s.free := rfl
@[simp] theorem onCore_agenda (s : State) (f : Core → Core) : (onCore s f).agenda = s.agenda := rfl
@[simp] theorem onCore_now (s : State) (f : Core → Core) : (onCore s f).now = s.now := rfl
@[simp] theorem mapCores_clusters (s : State) (f : Core → Core) : (mapCores s f).clusters = s.clusters := rfl
@[simp] theorem mapCores_mem (s : State) (f : Core → Core) : (mapCores s f).mem = s.mem := rfl
@[simp] theorem mapCores_ctxs (s : State) (f : Core → Core) : (mapCores s f).ctxs = s.ctxs := rfl
@[simp] theorem mapCores_launches (s : State) (f : Core → Core) : (mapCores s f).launches = s.launches := rfl
@[simp] theorem mapCores_graphs (s : State) (f : Core → Core) : (mapCores s f).graphs = s.graphs := rfl
@[simp] theorem mapCores_stores (s : State) (f : Core → Core) : (mapCores s f).stores = s.stores := rfl
@[simp] theorem mapCores_refusals (s : State) (f : Core → Core) : (mapCores s f).refusals = s.refusals := rfl
@[simp] theorem mapCores_network (s : State) (f : Core → Core) : (mapCores s f).network = s.network := rfl
@[simp] theorem mapCores_links (s : State) (f : Core → Core) : (mapCores s f).links = s.links := rfl
@[simp] theorem mapCores_dirs (s : State) (f : Core → Core) : (mapCores s f).dirs = s.dirs := rfl
@[simp] theorem mapCores_dirReqs (s : State) (f : Core → Core) : (mapCores s f).dirReqs = s.dirReqs := rfl
@[simp] theorem mapCores_caches (s : State) (f : Core → Core) : (mapCores s f).caches = s.caches := rfl
@[simp] theorem mapCores_walks (s : State) (f : Core → Core) : (mapCores s f).walks = s.walks := rfl
@[simp] theorem mapCores_cuts (s : State) (f : Core → Core) : (mapCores s f).cuts = s.cuts := rfl
@[simp] theorem mapCores_traceQ (s : State) (f : Core → Core) : (mapCores s f).traceQ = s.traceQ := rfl
@[simp] theorem mapCores_buffers (s : State) (f : Core → Core) : (mapCores s f).buffers = s.buffers := rfl
@[simp] theorem mapCores_hub (s : State) (f : Core → Core) : (mapCores s f).hub = s.hub := rfl
@[simp] theorem mapCores_fuses (s : State) (f : Core → Core) : (mapCores s f).fuses = s.fuses := rfl
@[simp] theorem mapCores_lgfail (s : State) (f : Core → Core) : (mapCores s f).lgfail = s.lgfail := rfl
@[simp] theorem mapCores_flash (s : State) (f : Core → Core) : (mapCores s f).flash = s.flash := rfl
@[simp] theorem mapCores_serial (s : State) (f : Core → Core) : (mapCores s f).serial = s.serial := rfl
@[simp] theorem mapCores_free (s : State) (f : Core → Core) : (mapCores s f).free = s.free := rfl
@[simp] theorem mapCores_agenda (s : State) (f : Core → Core) : (mapCores s f).agenda = s.agenda := rfl
@[simp] theorem mapCores_now (s : State) (f : Core → Core) : (mapCores s f).now = s.now := rfl
@[simp] theorem setCluster_core (s : State) (c : Nat) (x : Cluster) : (setCluster s c x).core = s.core := rfl
@[simp] theorem setCluster_rest (s : State) (c : Nat) (x : Cluster) : (setCluster s c x).rest = s.rest := rfl
@[simp] theorem setCluster_mem (s : State) (c : Nat) (x : Cluster) : (setCluster s c x).mem = s.mem := rfl
@[simp] theorem setCluster_ctxs (s : State) (c : Nat) (x : Cluster) : (setCluster s c x).ctxs = s.ctxs := rfl
@[simp] theorem setCluster_launches (s : State) (c : Nat) (x : Cluster) : (setCluster s c x).launches = s.launches := rfl
@[simp] theorem setCluster_graphs (s : State) (c : Nat) (x : Cluster) : (setCluster s c x).graphs = s.graphs := rfl
@[simp] theorem setCluster_stores (s : State) (c : Nat) (x : Cluster) : (setCluster s c x).stores = s.stores := rfl
@[simp] theorem setCluster_refusals (s : State) (c : Nat) (x : Cluster) : (setCluster s c x).refusals = s.refusals := rfl
@[simp] theorem setCluster_network (s : State) (c : Nat) (x : Cluster) : (setCluster s c x).network = s.network := rfl
@[simp] theorem setCluster_links (s : State) (c : Nat) (x : Cluster) : (setCluster s c x).links = s.links := rfl
@[simp] theorem setCluster_dirs (s : State) (c : Nat) (x : Cluster) : (setCluster s c x).dirs = s.dirs := rfl
@[simp] theorem setCluster_dirReqs (s : State) (c : Nat) (x : Cluster) : (setCluster s c x).dirReqs = s.dirReqs := rfl
@[simp] theorem setCluster_caches (s : State) (c : Nat) (x : Cluster) : (setCluster s c x).caches = s.caches := rfl
@[simp] theorem setCluster_walks (s : State) (c : Nat) (x : Cluster) : (setCluster s c x).walks = s.walks := rfl
@[simp] theorem setCluster_cuts (s : State) (c : Nat) (x : Cluster) : (setCluster s c x).cuts = s.cuts := rfl
@[simp] theorem setCluster_traceQ (s : State) (c : Nat) (x : Cluster) : (setCluster s c x).traceQ = s.traceQ := rfl
@[simp] theorem setCluster_buffers (s : State) (c : Nat) (x : Cluster) : (setCluster s c x).buffers = s.buffers := rfl
@[simp] theorem setCluster_hub (s : State) (c : Nat) (x : Cluster) : (setCluster s c x).hub = s.hub := rfl
@[simp] theorem setCluster_fuses (s : State) (c : Nat) (x : Cluster) : (setCluster s c x).fuses = s.fuses := rfl
@[simp] theorem setCluster_lgfail (s : State) (c : Nat) (x : Cluster) : (setCluster s c x).lgfail = s.lgfail := rfl
@[simp] theorem setCluster_flash (s : State) (c : Nat) (x : Cluster) : (setCluster s c x).flash = s.flash := rfl
@[simp] theorem setCluster_serial (s : State) (c : Nat) (x : Cluster) : (setCluster s c x).serial = s.serial := rfl
@[simp] theorem setCluster_free (s : State) (c : Nat) (x : Cluster) : (setCluster s c x).free = s.free := rfl
@[simp] theorem setCluster_agenda (s : State) (c : Nat) (x : Cluster) : (setCluster s c x).agenda = s.agenda := rfl
@[simp] theorem setCluster_now (s : State) (c : Nat) (x : Cluster) : (setCluster s c x).now = s.now := rfl
@[simp] theorem modCluster_core (s : State) (c : Nat) (f : Cluster → Cluster) : (modCluster s c f).core = s.core := rfl
@[simp] theorem modCluster_rest (s : State) (c : Nat) (f : Cluster → Cluster) : (modCluster s c f).rest = s.rest := rfl
@[simp] theorem modCluster_mem (s : State) (c : Nat) (f : Cluster → Cluster) : (modCluster s c f).mem = s.mem := rfl
@[simp] theorem modCluster_ctxs (s : State) (c : Nat) (f : Cluster → Cluster) : (modCluster s c f).ctxs = s.ctxs := rfl
@[simp] theorem modCluster_launches (s : State) (c : Nat) (f : Cluster → Cluster) : (modCluster s c f).launches = s.launches := rfl
@[simp] theorem modCluster_graphs (s : State) (c : Nat) (f : Cluster → Cluster) : (modCluster s c f).graphs = s.graphs := rfl
@[simp] theorem modCluster_stores (s : State) (c : Nat) (f : Cluster → Cluster) : (modCluster s c f).stores = s.stores := rfl
@[simp] theorem modCluster_refusals (s : State) (c : Nat) (f : Cluster → Cluster) : (modCluster s c f).refusals = s.refusals := rfl
@[simp] theorem modCluster_network (s : State) (c : Nat) (f : Cluster → Cluster) : (modCluster s c f).network = s.network := rfl
@[simp] theorem modCluster_links (s : State) (c : Nat) (f : Cluster → Cluster) : (modCluster s c f).links = s.links := rfl
@[simp] theorem modCluster_dirs (s : State) (c : Nat) (f : Cluster → Cluster) : (modCluster s c f).dirs = s.dirs := rfl
@[simp] theorem modCluster_dirReqs (s : State) (c : Nat) (f : Cluster → Cluster) : (modCluster s c f).dirReqs = s.dirReqs := rfl
@[simp] theorem modCluster_caches (s : State) (c : Nat) (f : Cluster → Cluster) : (modCluster s c f).caches = s.caches := rfl
@[simp] theorem modCluster_walks (s : State) (c : Nat) (f : Cluster → Cluster) : (modCluster s c f).walks = s.walks := rfl
@[simp] theorem modCluster_cuts (s : State) (c : Nat) (f : Cluster → Cluster) : (modCluster s c f).cuts = s.cuts := rfl
@[simp] theorem modCluster_traceQ (s : State) (c : Nat) (f : Cluster → Cluster) : (modCluster s c f).traceQ = s.traceQ := rfl
@[simp] theorem modCluster_buffers (s : State) (c : Nat) (f : Cluster → Cluster) : (modCluster s c f).buffers = s.buffers := rfl
@[simp] theorem modCluster_hub (s : State) (c : Nat) (f : Cluster → Cluster) : (modCluster s c f).hub = s.hub := rfl
@[simp] theorem modCluster_fuses (s : State) (c : Nat) (f : Cluster → Cluster) : (modCluster s c f).fuses = s.fuses := rfl
@[simp] theorem modCluster_lgfail (s : State) (c : Nat) (f : Cluster → Cluster) : (modCluster s c f).lgfail = s.lgfail := rfl
@[simp] theorem modCluster_flash (s : State) (c : Nat) (f : Cluster → Cluster) : (modCluster s c f).flash = s.flash := rfl
@[simp] theorem modCluster_serial (s : State) (c : Nat) (f : Cluster → Cluster) : (modCluster s c f).serial = s.serial := rfl
@[simp] theorem modCluster_free (s : State) (c : Nat) (f : Cluster → Cluster) : (modCluster s c f).free = s.free := rfl
@[simp] theorem modCluster_agenda (s : State) (c : Nat) (f : Cluster → Cluster) : (modCluster s c f).agenda = s.agenda := rfl
@[simp] theorem modCluster_now (s : State) (c : Nat) (f : Cluster → Cluster) : (modCluster s c f).now = s.now := rfl
@[simp] theorem modCtx_core (s : State) (i : CtxId) (f : Ctx → Ctx) : (modCtx s i f).core = s.core := rfl
@[simp] theorem modCtx_rest (s : State) (i : CtxId) (f : Ctx → Ctx) : (modCtx s i f).rest = s.rest := rfl
@[simp] theorem modCtx_clusters (s : State) (i : CtxId) (f : Ctx → Ctx) : (modCtx s i f).clusters = s.clusters := rfl
@[simp] theorem modCtx_mem (s : State) (i : CtxId) (f : Ctx → Ctx) : (modCtx s i f).mem = s.mem := rfl
@[simp] theorem modCtx_launches (s : State) (i : CtxId) (f : Ctx → Ctx) : (modCtx s i f).launches = s.launches := rfl
@[simp] theorem modCtx_graphs (s : State) (i : CtxId) (f : Ctx → Ctx) : (modCtx s i f).graphs = s.graphs := rfl
@[simp] theorem modCtx_stores (s : State) (i : CtxId) (f : Ctx → Ctx) : (modCtx s i f).stores = s.stores := rfl
@[simp] theorem modCtx_refusals (s : State) (i : CtxId) (f : Ctx → Ctx) : (modCtx s i f).refusals = s.refusals := rfl
@[simp] theorem modCtx_network (s : State) (i : CtxId) (f : Ctx → Ctx) : (modCtx s i f).network = s.network := rfl
@[simp] theorem modCtx_links (s : State) (i : CtxId) (f : Ctx → Ctx) : (modCtx s i f).links = s.links := rfl
@[simp] theorem modCtx_dirs (s : State) (i : CtxId) (f : Ctx → Ctx) : (modCtx s i f).dirs = s.dirs := rfl
@[simp] theorem modCtx_dirReqs (s : State) (i : CtxId) (f : Ctx → Ctx) : (modCtx s i f).dirReqs = s.dirReqs := rfl
@[simp] theorem modCtx_caches (s : State) (i : CtxId) (f : Ctx → Ctx) : (modCtx s i f).caches = s.caches := rfl
@[simp] theorem modCtx_walks (s : State) (i : CtxId) (f : Ctx → Ctx) : (modCtx s i f).walks = s.walks := rfl
@[simp] theorem modCtx_cuts (s : State) (i : CtxId) (f : Ctx → Ctx) : (modCtx s i f).cuts = s.cuts := rfl
@[simp] theorem modCtx_traceQ (s : State) (i : CtxId) (f : Ctx → Ctx) : (modCtx s i f).traceQ = s.traceQ := rfl
@[simp] theorem modCtx_buffers (s : State) (i : CtxId) (f : Ctx → Ctx) : (modCtx s i f).buffers = s.buffers := rfl
@[simp] theorem modCtx_hub (s : State) (i : CtxId) (f : Ctx → Ctx) : (modCtx s i f).hub = s.hub := rfl
@[simp] theorem modCtx_fuses (s : State) (i : CtxId) (f : Ctx → Ctx) : (modCtx s i f).fuses = s.fuses := rfl
@[simp] theorem modCtx_lgfail (s : State) (i : CtxId) (f : Ctx → Ctx) : (modCtx s i f).lgfail = s.lgfail := rfl
@[simp] theorem modCtx_flash (s : State) (i : CtxId) (f : Ctx → Ctx) : (modCtx s i f).flash = s.flash := rfl
@[simp] theorem modCtx_serial (s : State) (i : CtxId) (f : Ctx → Ctx) : (modCtx s i f).serial = s.serial := rfl
@[simp] theorem modCtx_free (s : State) (i : CtxId) (f : Ctx → Ctx) : (modCtx s i f).free = s.free := rfl
@[simp] theorem modCtx_agenda (s : State) (i : CtxId) (f : Ctx → Ctx) : (modCtx s i f).agenda = s.agenda := rfl
@[simp] theorem modCtx_now (s : State) (i : CtxId) (f : Ctx → Ctx) : (modCtx s i f).now = s.now := rfl
@[simp] theorem modQueue_core (s : State) (i : CtxId) (q : BitVec 4) (f : CmdQueue → CmdQueue) : (modQueue s i q f).core = s.core := rfl
@[simp] theorem modQueue_rest (s : State) (i : CtxId) (q : BitVec 4) (f : CmdQueue → CmdQueue) : (modQueue s i q f).rest = s.rest := rfl
@[simp] theorem modQueue_clusters (s : State) (i : CtxId) (q : BitVec 4) (f : CmdQueue → CmdQueue) : (modQueue s i q f).clusters = s.clusters := rfl
@[simp] theorem modQueue_mem (s : State) (i : CtxId) (q : BitVec 4) (f : CmdQueue → CmdQueue) : (modQueue s i q f).mem = s.mem := rfl
@[simp] theorem modQueue_launches (s : State) (i : CtxId) (q : BitVec 4) (f : CmdQueue → CmdQueue) : (modQueue s i q f).launches = s.launches := rfl
@[simp] theorem modQueue_graphs (s : State) (i : CtxId) (q : BitVec 4) (f : CmdQueue → CmdQueue) : (modQueue s i q f).graphs = s.graphs := rfl
@[simp] theorem modQueue_stores (s : State) (i : CtxId) (q : BitVec 4) (f : CmdQueue → CmdQueue) : (modQueue s i q f).stores = s.stores := rfl
@[simp] theorem modQueue_refusals (s : State) (i : CtxId) (q : BitVec 4) (f : CmdQueue → CmdQueue) : (modQueue s i q f).refusals = s.refusals := rfl
@[simp] theorem modQueue_network (s : State) (i : CtxId) (q : BitVec 4) (f : CmdQueue → CmdQueue) : (modQueue s i q f).network = s.network := rfl
@[simp] theorem modQueue_links (s : State) (i : CtxId) (q : BitVec 4) (f : CmdQueue → CmdQueue) : (modQueue s i q f).links = s.links := rfl
@[simp] theorem modQueue_dirs (s : State) (i : CtxId) (q : BitVec 4) (f : CmdQueue → CmdQueue) : (modQueue s i q f).dirs = s.dirs := rfl
@[simp] theorem modQueue_dirReqs (s : State) (i : CtxId) (q : BitVec 4) (f : CmdQueue → CmdQueue) : (modQueue s i q f).dirReqs = s.dirReqs := rfl
@[simp] theorem modQueue_caches (s : State) (i : CtxId) (q : BitVec 4) (f : CmdQueue → CmdQueue) : (modQueue s i q f).caches = s.caches := rfl
@[simp] theorem modQueue_walks (s : State) (i : CtxId) (q : BitVec 4) (f : CmdQueue → CmdQueue) : (modQueue s i q f).walks = s.walks := rfl
@[simp] theorem modQueue_cuts (s : State) (i : CtxId) (q : BitVec 4) (f : CmdQueue → CmdQueue) : (modQueue s i q f).cuts = s.cuts := rfl
@[simp] theorem modQueue_traceQ (s : State) (i : CtxId) (q : BitVec 4) (f : CmdQueue → CmdQueue) : (modQueue s i q f).traceQ = s.traceQ := rfl
@[simp] theorem modQueue_buffers (s : State) (i : CtxId) (q : BitVec 4) (f : CmdQueue → CmdQueue) : (modQueue s i q f).buffers = s.buffers := rfl
@[simp] theorem modQueue_hub (s : State) (i : CtxId) (q : BitVec 4) (f : CmdQueue → CmdQueue) : (modQueue s i q f).hub = s.hub := rfl
@[simp] theorem modQueue_fuses (s : State) (i : CtxId) (q : BitVec 4) (f : CmdQueue → CmdQueue) : (modQueue s i q f).fuses = s.fuses := rfl
@[simp] theorem modQueue_lgfail (s : State) (i : CtxId) (q : BitVec 4) (f : CmdQueue → CmdQueue) : (modQueue s i q f).lgfail = s.lgfail := rfl
@[simp] theorem modQueue_flash (s : State) (i : CtxId) (q : BitVec 4) (f : CmdQueue → CmdQueue) : (modQueue s i q f).flash = s.flash := rfl
@[simp] theorem modQueue_serial (s : State) (i : CtxId) (q : BitVec 4) (f : CmdQueue → CmdQueue) : (modQueue s i q f).serial = s.serial := rfl
@[simp] theorem modQueue_free (s : State) (i : CtxId) (q : BitVec 4) (f : CmdQueue → CmdQueue) : (modQueue s i q f).free = s.free := rfl
@[simp] theorem modQueue_agenda (s : State) (i : CtxId) (q : BitVec 4) (f : CmdQueue → CmdQueue) : (modQueue s i q f).agenda = s.agenda := rfl
@[simp] theorem modQueue_now (s : State) (i : CtxId) (q : BitVec 4) (f : CmdQueue → CmdQueue) : (modQueue s i q f).now = s.now := rfl
@[simp] theorem modLaunch_core (s : State) (i : CtxId) (l : Lid) (f : Launch → Launch) : (modLaunch s i l f).core = s.core := rfl
@[simp] theorem modLaunch_rest (s : State) (i : CtxId) (l : Lid) (f : Launch → Launch) : (modLaunch s i l f).rest = s.rest := rfl
@[simp] theorem modLaunch_clusters (s : State) (i : CtxId) (l : Lid) (f : Launch → Launch) : (modLaunch s i l f).clusters = s.clusters := rfl
@[simp] theorem modLaunch_mem (s : State) (i : CtxId) (l : Lid) (f : Launch → Launch) : (modLaunch s i l f).mem = s.mem := rfl
@[simp] theorem modLaunch_ctxs (s : State) (i : CtxId) (l : Lid) (f : Launch → Launch) : (modLaunch s i l f).ctxs = s.ctxs := rfl
@[simp] theorem modLaunch_graphs (s : State) (i : CtxId) (l : Lid) (f : Launch → Launch) : (modLaunch s i l f).graphs = s.graphs := rfl
@[simp] theorem modLaunch_stores (s : State) (i : CtxId) (l : Lid) (f : Launch → Launch) : (modLaunch s i l f).stores = s.stores := rfl
@[simp] theorem modLaunch_refusals (s : State) (i : CtxId) (l : Lid) (f : Launch → Launch) : (modLaunch s i l f).refusals = s.refusals := rfl
@[simp] theorem modLaunch_network (s : State) (i : CtxId) (l : Lid) (f : Launch → Launch) : (modLaunch s i l f).network = s.network := rfl
@[simp] theorem modLaunch_links (s : State) (i : CtxId) (l : Lid) (f : Launch → Launch) : (modLaunch s i l f).links = s.links := rfl
@[simp] theorem modLaunch_dirs (s : State) (i : CtxId) (l : Lid) (f : Launch → Launch) : (modLaunch s i l f).dirs = s.dirs := rfl
@[simp] theorem modLaunch_dirReqs (s : State) (i : CtxId) (l : Lid) (f : Launch → Launch) : (modLaunch s i l f).dirReqs = s.dirReqs := rfl
@[simp] theorem modLaunch_caches (s : State) (i : CtxId) (l : Lid) (f : Launch → Launch) : (modLaunch s i l f).caches = s.caches := rfl
@[simp] theorem modLaunch_walks (s : State) (i : CtxId) (l : Lid) (f : Launch → Launch) : (modLaunch s i l f).walks = s.walks := rfl
@[simp] theorem modLaunch_cuts (s : State) (i : CtxId) (l : Lid) (f : Launch → Launch) : (modLaunch s i l f).cuts = s.cuts := rfl
@[simp] theorem modLaunch_traceQ (s : State) (i : CtxId) (l : Lid) (f : Launch → Launch) : (modLaunch s i l f).traceQ = s.traceQ := rfl
@[simp] theorem modLaunch_buffers (s : State) (i : CtxId) (l : Lid) (f : Launch → Launch) : (modLaunch s i l f).buffers = s.buffers := rfl
@[simp] theorem modLaunch_hub (s : State) (i : CtxId) (l : Lid) (f : Launch → Launch) : (modLaunch s i l f).hub = s.hub := rfl
@[simp] theorem modLaunch_fuses (s : State) (i : CtxId) (l : Lid) (f : Launch → Launch) : (modLaunch s i l f).fuses = s.fuses := rfl
@[simp] theorem modLaunch_lgfail (s : State) (i : CtxId) (l : Lid) (f : Launch → Launch) : (modLaunch s i l f).lgfail = s.lgfail := rfl
@[simp] theorem modLaunch_flash (s : State) (i : CtxId) (l : Lid) (f : Launch → Launch) : (modLaunch s i l f).flash = s.flash := rfl
@[simp] theorem modLaunch_serial (s : State) (i : CtxId) (l : Lid) (f : Launch → Launch) : (modLaunch s i l f).serial = s.serial := rfl
@[simp] theorem modLaunch_free (s : State) (i : CtxId) (l : Lid) (f : Launch → Launch) : (modLaunch s i l f).free = s.free := rfl
@[simp] theorem modLaunch_agenda (s : State) (i : CtxId) (l : Lid) (f : Launch → Launch) : (modLaunch s i l f).agenda = s.agenda := rfl
@[simp] theorem modLaunch_now (s : State) (i : CtxId) (l : Lid) (f : Launch → Launch) : (modLaunch s i l f).now = s.now := rfl
@[simp] theorem modGraph_core (s : State) (i : CtxId) (g : BitVec 32) (f : Graph → Graph) : (modGraph s i g f).core = s.core := rfl
@[simp] theorem modGraph_rest (s : State) (i : CtxId) (g : BitVec 32) (f : Graph → Graph) : (modGraph s i g f).rest = s.rest := rfl
@[simp] theorem modGraph_clusters (s : State) (i : CtxId) (g : BitVec 32) (f : Graph → Graph) : (modGraph s i g f).clusters = s.clusters := rfl
@[simp] theorem modGraph_mem (s : State) (i : CtxId) (g : BitVec 32) (f : Graph → Graph) : (modGraph s i g f).mem = s.mem := rfl
@[simp] theorem modGraph_ctxs (s : State) (i : CtxId) (g : BitVec 32) (f : Graph → Graph) : (modGraph s i g f).ctxs = s.ctxs := rfl
@[simp] theorem modGraph_launches (s : State) (i : CtxId) (g : BitVec 32) (f : Graph → Graph) : (modGraph s i g f).launches = s.launches := rfl
@[simp] theorem modGraph_stores (s : State) (i : CtxId) (g : BitVec 32) (f : Graph → Graph) : (modGraph s i g f).stores = s.stores := rfl
@[simp] theorem modGraph_refusals (s : State) (i : CtxId) (g : BitVec 32) (f : Graph → Graph) : (modGraph s i g f).refusals = s.refusals := rfl
@[simp] theorem modGraph_network (s : State) (i : CtxId) (g : BitVec 32) (f : Graph → Graph) : (modGraph s i g f).network = s.network := rfl
@[simp] theorem modGraph_links (s : State) (i : CtxId) (g : BitVec 32) (f : Graph → Graph) : (modGraph s i g f).links = s.links := rfl
@[simp] theorem modGraph_dirs (s : State) (i : CtxId) (g : BitVec 32) (f : Graph → Graph) : (modGraph s i g f).dirs = s.dirs := rfl
@[simp] theorem modGraph_dirReqs (s : State) (i : CtxId) (g : BitVec 32) (f : Graph → Graph) : (modGraph s i g f).dirReqs = s.dirReqs := rfl
@[simp] theorem modGraph_caches (s : State) (i : CtxId) (g : BitVec 32) (f : Graph → Graph) : (modGraph s i g f).caches = s.caches := rfl
@[simp] theorem modGraph_walks (s : State) (i : CtxId) (g : BitVec 32) (f : Graph → Graph) : (modGraph s i g f).walks = s.walks := rfl
@[simp] theorem modGraph_cuts (s : State) (i : CtxId) (g : BitVec 32) (f : Graph → Graph) : (modGraph s i g f).cuts = s.cuts := rfl
@[simp] theorem modGraph_traceQ (s : State) (i : CtxId) (g : BitVec 32) (f : Graph → Graph) : (modGraph s i g f).traceQ = s.traceQ := rfl
@[simp] theorem modGraph_buffers (s : State) (i : CtxId) (g : BitVec 32) (f : Graph → Graph) : (modGraph s i g f).buffers = s.buffers := rfl
@[simp] theorem modGraph_hub (s : State) (i : CtxId) (g : BitVec 32) (f : Graph → Graph) : (modGraph s i g f).hub = s.hub := rfl
@[simp] theorem modGraph_fuses (s : State) (i : CtxId) (g : BitVec 32) (f : Graph → Graph) : (modGraph s i g f).fuses = s.fuses := rfl
@[simp] theorem modGraph_lgfail (s : State) (i : CtxId) (g : BitVec 32) (f : Graph → Graph) : (modGraph s i g f).lgfail = s.lgfail := rfl
@[simp] theorem modGraph_flash (s : State) (i : CtxId) (g : BitVec 32) (f : Graph → Graph) : (modGraph s i g f).flash = s.flash := rfl
@[simp] theorem modGraph_serial (s : State) (i : CtxId) (g : BitVec 32) (f : Graph → Graph) : (modGraph s i g f).serial = s.serial := rfl
@[simp] theorem modGraph_free (s : State) (i : CtxId) (g : BitVec 32) (f : Graph → Graph) : (modGraph s i g f).free = s.free := rfl
@[simp] theorem modGraph_agenda (s : State) (i : CtxId) (g : BitVec 32) (f : Graph → Graph) : (modGraph s i g f).agenda = s.agenda := rfl
@[simp] theorem modGraph_now (s : State) (i : CtxId) (g : BitVec 32) (f : Graph → Graph) : (modGraph s i g f).now = s.now := rfl
@[simp] theorem countUp_core (s : State) (i : CtxId) (l : Lid) (n : Nat) : (countUp s i l n).core = s.core := rfl
@[simp] theorem countUp_rest (s : State) (i : CtxId) (l : Lid) (n : Nat) : (countUp s i l n).rest = s.rest := rfl
@[simp] theorem countUp_clusters (s : State) (i : CtxId) (l : Lid) (n : Nat) : (countUp s i l n).clusters = s.clusters := rfl
@[simp] theorem countUp_mem (s : State) (i : CtxId) (l : Lid) (n : Nat) : (countUp s i l n).mem = s.mem := rfl
@[simp] theorem countUp_ctxs (s : State) (i : CtxId) (l : Lid) (n : Nat) : (countUp s i l n).ctxs = s.ctxs := rfl
@[simp] theorem countUp_graphs (s : State) (i : CtxId) (l : Lid) (n : Nat) : (countUp s i l n).graphs = s.graphs := rfl
@[simp] theorem countUp_stores (s : State) (i : CtxId) (l : Lid) (n : Nat) : (countUp s i l n).stores = s.stores := rfl
@[simp] theorem countUp_refusals (s : State) (i : CtxId) (l : Lid) (n : Nat) : (countUp s i l n).refusals = s.refusals := rfl
@[simp] theorem countUp_network (s : State) (i : CtxId) (l : Lid) (n : Nat) : (countUp s i l n).network = s.network := rfl
@[simp] theorem countUp_links (s : State) (i : CtxId) (l : Lid) (n : Nat) : (countUp s i l n).links = s.links := rfl
@[simp] theorem countUp_dirs (s : State) (i : CtxId) (l : Lid) (n : Nat) : (countUp s i l n).dirs = s.dirs := rfl
@[simp] theorem countUp_dirReqs (s : State) (i : CtxId) (l : Lid) (n : Nat) : (countUp s i l n).dirReqs = s.dirReqs := rfl
@[simp] theorem countUp_caches (s : State) (i : CtxId) (l : Lid) (n : Nat) : (countUp s i l n).caches = s.caches := rfl
@[simp] theorem countUp_walks (s : State) (i : CtxId) (l : Lid) (n : Nat) : (countUp s i l n).walks = s.walks := rfl
@[simp] theorem countUp_cuts (s : State) (i : CtxId) (l : Lid) (n : Nat) : (countUp s i l n).cuts = s.cuts := rfl
@[simp] theorem countUp_traceQ (s : State) (i : CtxId) (l : Lid) (n : Nat) : (countUp s i l n).traceQ = s.traceQ := rfl
@[simp] theorem countUp_buffers (s : State) (i : CtxId) (l : Lid) (n : Nat) : (countUp s i l n).buffers = s.buffers := rfl
@[simp] theorem countUp_hub (s : State) (i : CtxId) (l : Lid) (n : Nat) : (countUp s i l n).hub = s.hub := rfl
@[simp] theorem countUp_fuses (s : State) (i : CtxId) (l : Lid) (n : Nat) : (countUp s i l n).fuses = s.fuses := rfl
@[simp] theorem countUp_lgfail (s : State) (i : CtxId) (l : Lid) (n : Nat) : (countUp s i l n).lgfail = s.lgfail := rfl
@[simp] theorem countUp_flash (s : State) (i : CtxId) (l : Lid) (n : Nat) : (countUp s i l n).flash = s.flash := rfl
@[simp] theorem countUp_serial (s : State) (i : CtxId) (l : Lid) (n : Nat) : (countUp s i l n).serial = s.serial := rfl
@[simp] theorem countUp_free (s : State) (i : CtxId) (l : Lid) (n : Nat) : (countUp s i l n).free = s.free := rfl
@[simp] theorem countUp_agenda (s : State) (i : CtxId) (l : Lid) (n : Nat) : (countUp s i l n).agenda = s.agenda := rfl
@[simp] theorem countUp_now (s : State) (i : CtxId) (l : Lid) (n : Nat) : (countUp s i l n).now = s.now := rfl
@[simp] theorem countDown_core (s : State) (i : CtxId) (l : Lid) (n : Nat) : (countDown s i l n).core = s.core := rfl
@[simp] theorem countDown_rest (s : State) (i : CtxId) (l : Lid) (n : Nat) : (countDown s i l n).rest = s.rest := rfl
@[simp] theorem countDown_clusters (s : State) (i : CtxId) (l : Lid) (n : Nat) : (countDown s i l n).clusters = s.clusters := rfl
@[simp] theorem countDown_mem (s : State) (i : CtxId) (l : Lid) (n : Nat) : (countDown s i l n).mem = s.mem := rfl
@[simp] theorem countDown_ctxs (s : State) (i : CtxId) (l : Lid) (n : Nat) : (countDown s i l n).ctxs = s.ctxs := rfl
@[simp] theorem countDown_graphs (s : State) (i : CtxId) (l : Lid) (n : Nat) : (countDown s i l n).graphs = s.graphs := rfl
@[simp] theorem countDown_stores (s : State) (i : CtxId) (l : Lid) (n : Nat) : (countDown s i l n).stores = s.stores := rfl
@[simp] theorem countDown_refusals (s : State) (i : CtxId) (l : Lid) (n : Nat) : (countDown s i l n).refusals = s.refusals := rfl
@[simp] theorem countDown_network (s : State) (i : CtxId) (l : Lid) (n : Nat) : (countDown s i l n).network = s.network := rfl
@[simp] theorem countDown_links (s : State) (i : CtxId) (l : Lid) (n : Nat) : (countDown s i l n).links = s.links := rfl
@[simp] theorem countDown_dirs (s : State) (i : CtxId) (l : Lid) (n : Nat) : (countDown s i l n).dirs = s.dirs := rfl
@[simp] theorem countDown_dirReqs (s : State) (i : CtxId) (l : Lid) (n : Nat) : (countDown s i l n).dirReqs = s.dirReqs := rfl
@[simp] theorem countDown_caches (s : State) (i : CtxId) (l : Lid) (n : Nat) : (countDown s i l n).caches = s.caches := rfl
@[simp] theorem countDown_walks (s : State) (i : CtxId) (l : Lid) (n : Nat) : (countDown s i l n).walks = s.walks := rfl
@[simp] theorem countDown_cuts (s : State) (i : CtxId) (l : Lid) (n : Nat) : (countDown s i l n).cuts = s.cuts := rfl
@[simp] theorem countDown_traceQ (s : State) (i : CtxId) (l : Lid) (n : Nat) : (countDown s i l n).traceQ = s.traceQ := rfl
@[simp] theorem countDown_buffers (s : State) (i : CtxId) (l : Lid) (n : Nat) : (countDown s i l n).buffers = s.buffers := rfl
@[simp] theorem countDown_hub (s : State) (i : CtxId) (l : Lid) (n : Nat) : (countDown s i l n).hub = s.hub := rfl
@[simp] theorem countDown_fuses (s : State) (i : CtxId) (l : Lid) (n : Nat) : (countDown s i l n).fuses = s.fuses := rfl
@[simp] theorem countDown_lgfail (s : State) (i : CtxId) (l : Lid) (n : Nat) : (countDown s i l n).lgfail = s.lgfail := rfl
@[simp] theorem countDown_flash (s : State) (i : CtxId) (l : Lid) (n : Nat) : (countDown s i l n).flash = s.flash := rfl
@[simp] theorem countDown_serial (s : State) (i : CtxId) (l : Lid) (n : Nat) : (countDown s i l n).serial = s.serial := rfl
@[simp] theorem countDown_free (s : State) (i : CtxId) (l : Lid) (n : Nat) : (countDown s i l n).free = s.free := rfl
@[simp] theorem countDown_agenda (s : State) (i : CtxId) (l : Lid) (n : Nat) : (countDown s i l n).agenda = s.agenda := rfl
@[simp] theorem countDown_now (s : State) (i : CtxId) (l : Lid) (n : Nat) : (countDown s i l n).now = s.now := rfl
@[simp] theorem countOps_core (s : State) (n : Nat) : (countOps s n).core = s.core := rfl
@[simp] theorem countOps_rest (s : State) (n : Nat) : (countOps s n).rest = s.rest := rfl
@[simp] theorem countOps_clusters (s : State) (n : Nat) : (countOps s n).clusters = s.clusters := rfl
@[simp] theorem countOps_mem (s : State) (n : Nat) : (countOps s n).mem = s.mem := rfl
@[simp] theorem countOps_ctxs (s : State) (n : Nat) : (countOps s n).ctxs = s.ctxs := rfl
@[simp] theorem countOps_graphs (s : State) (n : Nat) : (countOps s n).graphs = s.graphs := rfl
@[simp] theorem countOps_stores (s : State) (n : Nat) : (countOps s n).stores = s.stores := rfl
@[simp] theorem countOps_refusals (s : State) (n : Nat) : (countOps s n).refusals = s.refusals := rfl
@[simp] theorem countOps_network (s : State) (n : Nat) : (countOps s n).network = s.network := rfl
@[simp] theorem countOps_links (s : State) (n : Nat) : (countOps s n).links = s.links := rfl
@[simp] theorem countOps_dirs (s : State) (n : Nat) : (countOps s n).dirs = s.dirs := rfl
@[simp] theorem countOps_dirReqs (s : State) (n : Nat) : (countOps s n).dirReqs = s.dirReqs := rfl
@[simp] theorem countOps_caches (s : State) (n : Nat) : (countOps s n).caches = s.caches := rfl
@[simp] theorem countOps_walks (s : State) (n : Nat) : (countOps s n).walks = s.walks := rfl
@[simp] theorem countOps_cuts (s : State) (n : Nat) : (countOps s n).cuts = s.cuts := rfl
@[simp] theorem countOps_traceQ (s : State) (n : Nat) : (countOps s n).traceQ = s.traceQ := rfl
@[simp] theorem countOps_buffers (s : State) (n : Nat) : (countOps s n).buffers = s.buffers := rfl
@[simp] theorem countOps_hub (s : State) (n : Nat) : (countOps s n).hub = s.hub := rfl
@[simp] theorem countOps_fuses (s : State) (n : Nat) : (countOps s n).fuses = s.fuses := rfl
@[simp] theorem countOps_lgfail (s : State) (n : Nat) : (countOps s n).lgfail = s.lgfail := rfl
@[simp] theorem countOps_flash (s : State) (n : Nat) : (countOps s n).flash = s.flash := rfl
@[simp] theorem countOps_serial (s : State) (n : Nat) : (countOps s n).serial = s.serial := rfl
@[simp] theorem countOps_free (s : State) (n : Nat) : (countOps s n).free = s.free := rfl
@[simp] theorem countOps_agenda (s : State) (n : Nat) : (countOps s n).agenda = s.agenda := rfl
@[simp] theorem countOps_now (s : State) (n : Nat) : (countOps s n).now = s.now := rfl
@[simp] theorem countBytes_core (s : State) (n : Nat) : (countBytes s n).core = s.core := rfl
@[simp] theorem countBytes_rest (s : State) (n : Nat) : (countBytes s n).rest = s.rest := rfl
@[simp] theorem countBytes_clusters (s : State) (n : Nat) : (countBytes s n).clusters = s.clusters := rfl
@[simp] theorem countBytes_mem (s : State) (n : Nat) : (countBytes s n).mem = s.mem := rfl
@[simp] theorem countBytes_ctxs (s : State) (n : Nat) : (countBytes s n).ctxs = s.ctxs := rfl
@[simp] theorem countBytes_graphs (s : State) (n : Nat) : (countBytes s n).graphs = s.graphs := rfl
@[simp] theorem countBytes_stores (s : State) (n : Nat) : (countBytes s n).stores = s.stores := rfl
@[simp] theorem countBytes_refusals (s : State) (n : Nat) : (countBytes s n).refusals = s.refusals := rfl
@[simp] theorem countBytes_network (s : State) (n : Nat) : (countBytes s n).network = s.network := rfl
@[simp] theorem countBytes_links (s : State) (n : Nat) : (countBytes s n).links = s.links := rfl
@[simp] theorem countBytes_dirs (s : State) (n : Nat) : (countBytes s n).dirs = s.dirs := rfl
@[simp] theorem countBytes_dirReqs (s : State) (n : Nat) : (countBytes s n).dirReqs = s.dirReqs := rfl
@[simp] theorem countBytes_caches (s : State) (n : Nat) : (countBytes s n).caches = s.caches := rfl
@[simp] theorem countBytes_walks (s : State) (n : Nat) : (countBytes s n).walks = s.walks := rfl
@[simp] theorem countBytes_cuts (s : State) (n : Nat) : (countBytes s n).cuts = s.cuts := rfl
@[simp] theorem countBytes_traceQ (s : State) (n : Nat) : (countBytes s n).traceQ = s.traceQ := rfl
@[simp] theorem countBytes_buffers (s : State) (n : Nat) : (countBytes s n).buffers = s.buffers := rfl
@[simp] theorem countBytes_hub (s : State) (n : Nat) : (countBytes s n).hub = s.hub := rfl
@[simp] theorem countBytes_fuses (s : State) (n : Nat) : (countBytes s n).fuses = s.fuses := rfl
@[simp] theorem countBytes_lgfail (s : State) (n : Nat) : (countBytes s n).lgfail = s.lgfail := rfl
@[simp] theorem countBytes_flash (s : State) (n : Nat) : (countBytes s n).flash = s.flash := rfl
@[simp] theorem countBytes_serial (s : State) (n : Nat) : (countBytes s n).serial = s.serial := rfl
@[simp] theorem countBytes_free (s : State) (n : Nat) : (countBytes s n).free = s.free := rfl
@[simp] theorem countBytes_agenda (s : State) (n : Nat) : (countBytes s n).agenda = s.agenda := rfl
@[simp] theorem countBytes_now (s : State) (n : Nat) : (countBytes s n).now = s.now := rfl
@[simp] theorem toPc_rest (s : State) (p : Word) : (toPc s p).rest = s.rest := rfl
@[simp] theorem toPc_clusters (s : State) (p : Word) : (toPc s p).clusters = s.clusters := rfl
@[simp] theorem toPc_mem (s : State) (p : Word) : (toPc s p).mem = s.mem := rfl
@[simp] theorem toPc_ctxs (s : State) (p : Word) : (toPc s p).ctxs = s.ctxs := rfl
@[simp] theorem toPc_launches (s : State) (p : Word) : (toPc s p).launches = s.launches := rfl
@[simp] theorem toPc_graphs (s : State) (p : Word) : (toPc s p).graphs = s.graphs := rfl
@[simp] theorem toPc_stores (s : State) (p : Word) : (toPc s p).stores = s.stores := rfl
@[simp] theorem toPc_refusals (s : State) (p : Word) : (toPc s p).refusals = s.refusals := rfl
@[simp] theorem toPc_network (s : State) (p : Word) : (toPc s p).network = s.network := rfl
@[simp] theorem toPc_links (s : State) (p : Word) : (toPc s p).links = s.links := rfl
@[simp] theorem toPc_dirs (s : State) (p : Word) : (toPc s p).dirs = s.dirs := rfl
@[simp] theorem toPc_dirReqs (s : State) (p : Word) : (toPc s p).dirReqs = s.dirReqs := rfl
@[simp] theorem toPc_caches (s : State) (p : Word) : (toPc s p).caches = s.caches := rfl
@[simp] theorem toPc_walks (s : State) (p : Word) : (toPc s p).walks = s.walks := rfl
@[simp] theorem toPc_cuts (s : State) (p : Word) : (toPc s p).cuts = s.cuts := rfl
@[simp] theorem toPc_traceQ (s : State) (p : Word) : (toPc s p).traceQ = s.traceQ := rfl
@[simp] theorem toPc_buffers (s : State) (p : Word) : (toPc s p).buffers = s.buffers := rfl
@[simp] theorem toPc_hub (s : State) (p : Word) : (toPc s p).hub = s.hub := rfl
@[simp] theorem toPc_fuses (s : State) (p : Word) : (toPc s p).fuses = s.fuses := rfl
@[simp] theorem toPc_lgfail (s : State) (p : Word) : (toPc s p).lgfail = s.lgfail := rfl
@[simp] theorem toPc_flash (s : State) (p : Word) : (toPc s p).flash = s.flash := rfl
@[simp] theorem toPc_serial (s : State) (p : Word) : (toPc s p).serial = s.serial := rfl
@[simp] theorem toPc_free (s : State) (p : Word) : (toPc s p).free = s.free := rfl
@[simp] theorem toPc_agenda (s : State) (p : Word) : (toPc s p).agenda = s.agenda := rfl
@[simp] theorem toPc_now (s : State) (p : Word) : (toPc s p).now = s.now := rfl
@[simp] theorem standIn_rest (s : State) (w : Wait) : (standIn s w).rest = s.rest := rfl
@[simp] theorem standIn_clusters (s : State) (w : Wait) : (standIn s w).clusters = s.clusters := rfl
@[simp] theorem standIn_mem (s : State) (w : Wait) : (standIn s w).mem = s.mem := rfl
@[simp] theorem standIn_ctxs (s : State) (w : Wait) : (standIn s w).ctxs = s.ctxs := rfl
@[simp] theorem standIn_launches (s : State) (w : Wait) : (standIn s w).launches = s.launches := rfl
@[simp] theorem standIn_graphs (s : State) (w : Wait) : (standIn s w).graphs = s.graphs := rfl
@[simp] theorem standIn_stores (s : State) (w : Wait) : (standIn s w).stores = s.stores := rfl
@[simp] theorem standIn_refusals (s : State) (w : Wait) : (standIn s w).refusals = s.refusals := rfl
@[simp] theorem standIn_network (s : State) (w : Wait) : (standIn s w).network = s.network := rfl
@[simp] theorem standIn_links (s : State) (w : Wait) : (standIn s w).links = s.links := rfl
@[simp] theorem standIn_dirs (s : State) (w : Wait) : (standIn s w).dirs = s.dirs := rfl
@[simp] theorem standIn_dirReqs (s : State) (w : Wait) : (standIn s w).dirReqs = s.dirReqs := rfl
@[simp] theorem standIn_caches (s : State) (w : Wait) : (standIn s w).caches = s.caches := rfl
@[simp] theorem standIn_walks (s : State) (w : Wait) : (standIn s w).walks = s.walks := rfl
@[simp] theorem standIn_cuts (s : State) (w : Wait) : (standIn s w).cuts = s.cuts := rfl
@[simp] theorem standIn_traceQ (s : State) (w : Wait) : (standIn s w).traceQ = s.traceQ := rfl
@[simp] theorem standIn_buffers (s : State) (w : Wait) : (standIn s w).buffers = s.buffers := rfl
@[simp] theorem standIn_hub (s : State) (w : Wait) : (standIn s w).hub = s.hub := rfl
@[simp] theorem standIn_fuses (s : State) (w : Wait) : (standIn s w).fuses = s.fuses := rfl
@[simp] theorem standIn_lgfail (s : State) (w : Wait) : (standIn s w).lgfail = s.lgfail := rfl
@[simp] theorem standIn_flash (s : State) (w : Wait) : (standIn s w).flash = s.flash := rfl
@[simp] theorem standIn_serial (s : State) (w : Wait) : (standIn s w).serial = s.serial := rfl
@[simp] theorem standIn_free (s : State) (w : Wait) : (standIn s w).free = s.free := rfl
@[simp] theorem standIn_agenda (s : State) (w : Wait) : (standIn s w).agenda = s.agenda := rfl
@[simp] theorem standIn_now (s : State) (w : Wait) : (standIn s w).now = s.now := rfl
@[simp] theorem traceRec_core (s : State) (k : Nat) (kd : BitVec 4) (ws : List Word) : (traceRec s k kd ws).core = s.core := rfl
@[simp] theorem traceRec_rest (s : State) (k : Nat) (kd : BitVec 4) (ws : List Word) : (traceRec s k kd ws).rest = s.rest := rfl
@[simp] theorem traceRec_clusters (s : State) (k : Nat) (kd : BitVec 4) (ws : List Word) : (traceRec s k kd ws).clusters = s.clusters := rfl
@[simp] theorem traceRec_mem (s : State) (k : Nat) (kd : BitVec 4) (ws : List Word) : (traceRec s k kd ws).mem = s.mem := rfl
@[simp] theorem traceRec_ctxs (s : State) (k : Nat) (kd : BitVec 4) (ws : List Word) : (traceRec s k kd ws).ctxs = s.ctxs := rfl
@[simp] theorem traceRec_launches (s : State) (k : Nat) (kd : BitVec 4) (ws : List Word) : (traceRec s k kd ws).launches = s.launches := rfl
@[simp] theorem traceRec_graphs (s : State) (k : Nat) (kd : BitVec 4) (ws : List Word) : (traceRec s k kd ws).graphs = s.graphs := rfl
@[simp] theorem traceRec_stores (s : State) (k : Nat) (kd : BitVec 4) (ws : List Word) : (traceRec s k kd ws).stores = s.stores := rfl
@[simp] theorem traceRec_refusals (s : State) (k : Nat) (kd : BitVec 4) (ws : List Word) : (traceRec s k kd ws).refusals = s.refusals := rfl
@[simp] theorem traceRec_network (s : State) (k : Nat) (kd : BitVec 4) (ws : List Word) : (traceRec s k kd ws).network = s.network := rfl
@[simp] theorem traceRec_links (s : State) (k : Nat) (kd : BitVec 4) (ws : List Word) : (traceRec s k kd ws).links = s.links := rfl
@[simp] theorem traceRec_dirs (s : State) (k : Nat) (kd : BitVec 4) (ws : List Word) : (traceRec s k kd ws).dirs = s.dirs := rfl
@[simp] theorem traceRec_dirReqs (s : State) (k : Nat) (kd : BitVec 4) (ws : List Word) : (traceRec s k kd ws).dirReqs = s.dirReqs := rfl
@[simp] theorem traceRec_caches (s : State) (k : Nat) (kd : BitVec 4) (ws : List Word) : (traceRec s k kd ws).caches = s.caches := rfl
@[simp] theorem traceRec_walks (s : State) (k : Nat) (kd : BitVec 4) (ws : List Word) : (traceRec s k kd ws).walks = s.walks := rfl
@[simp] theorem traceRec_cuts (s : State) (k : Nat) (kd : BitVec 4) (ws : List Word) : (traceRec s k kd ws).cuts = s.cuts := rfl
@[simp] theorem traceRec_buffers (s : State) (k : Nat) (kd : BitVec 4) (ws : List Word) : (traceRec s k kd ws).buffers = s.buffers := rfl
@[simp] theorem traceRec_hub (s : State) (k : Nat) (kd : BitVec 4) (ws : List Word) : (traceRec s k kd ws).hub = s.hub := rfl
@[simp] theorem traceRec_fuses (s : State) (k : Nat) (kd : BitVec 4) (ws : List Word) : (traceRec s k kd ws).fuses = s.fuses := rfl
@[simp] theorem traceRec_lgfail (s : State) (k : Nat) (kd : BitVec 4) (ws : List Word) : (traceRec s k kd ws).lgfail = s.lgfail := rfl
@[simp] theorem traceRec_flash (s : State) (k : Nat) (kd : BitVec 4) (ws : List Word) : (traceRec s k kd ws).flash = s.flash := rfl
@[simp] theorem traceRec_serial (s : State) (k : Nat) (kd : BitVec 4) (ws : List Word) : (traceRec s k kd ws).serial = s.serial := rfl
@[simp] theorem traceRec_free (s : State) (k : Nat) (kd : BitVec 4) (ws : List Word) : (traceRec s k kd ws).free = s.free := rfl
@[simp] theorem traceRec_agenda (s : State) (k : Nat) (kd : BitVec 4) (ws : List Word) : (traceRec s k kd ws).agenda = s.agenda := rfl
@[simp] theorem traceRec_now (s : State) (k : Nat) (kd : BitVec 4) (ws : List Word) : (traceRec s k kd ws).now = s.now := rfl
@[simp] theorem dropPending_core (s : State) (i : CtxId) (n : BitVec 32) (b : Bool) : (dropPending s i n b).core = s.core := rfl
@[simp] theorem dropPending_rest (s : State) (i : CtxId) (n : BitVec 32) (b : Bool) : (dropPending s i n b).rest = s.rest := rfl
@[simp] theorem dropPending_clusters (s : State) (i : CtxId) (n : BitVec 32) (b : Bool) : (dropPending s i n b).clusters = s.clusters := rfl
@[simp] theorem dropPending_mem (s : State) (i : CtxId) (n : BitVec 32) (b : Bool) : (dropPending s i n b).mem = s.mem := rfl
@[simp] theorem dropPending_ctxs (s : State) (i : CtxId) (n : BitVec 32) (b : Bool) : (dropPending s i n b).ctxs = s.ctxs := rfl
@[simp] theorem dropPending_launches (s : State) (i : CtxId) (n : BitVec 32) (b : Bool) : (dropPending s i n b).launches = s.launches := rfl
@[simp] theorem dropPending_graphs (s : State) (i : CtxId) (n : BitVec 32) (b : Bool) : (dropPending s i n b).graphs = s.graphs := rfl
@[simp] theorem dropPending_refusals (s : State) (i : CtxId) (n : BitVec 32) (b : Bool) : (dropPending s i n b).refusals = s.refusals := rfl
@[simp] theorem dropPending_network (s : State) (i : CtxId) (n : BitVec 32) (b : Bool) : (dropPending s i n b).network = s.network := rfl
@[simp] theorem dropPending_links (s : State) (i : CtxId) (n : BitVec 32) (b : Bool) : (dropPending s i n b).links = s.links := rfl
@[simp] theorem dropPending_dirs (s : State) (i : CtxId) (n : BitVec 32) (b : Bool) : (dropPending s i n b).dirs = s.dirs := rfl
@[simp] theorem dropPending_dirReqs (s : State) (i : CtxId) (n : BitVec 32) (b : Bool) : (dropPending s i n b).dirReqs = s.dirReqs := rfl
@[simp] theorem dropPending_caches (s : State) (i : CtxId) (n : BitVec 32) (b : Bool) : (dropPending s i n b).caches = s.caches := rfl
@[simp] theorem dropPending_walks (s : State) (i : CtxId) (n : BitVec 32) (b : Bool) : (dropPending s i n b).walks = s.walks := rfl
@[simp] theorem dropPending_cuts (s : State) (i : CtxId) (n : BitVec 32) (b : Bool) : (dropPending s i n b).cuts = s.cuts := rfl
@[simp] theorem dropPending_traceQ (s : State) (i : CtxId) (n : BitVec 32) (b : Bool) : (dropPending s i n b).traceQ = s.traceQ := rfl
@[simp] theorem dropPending_buffers (s : State) (i : CtxId) (n : BitVec 32) (b : Bool) : (dropPending s i n b).buffers = s.buffers := rfl
@[simp] theorem dropPending_hub (s : State) (i : CtxId) (n : BitVec 32) (b : Bool) : (dropPending s i n b).hub = s.hub := rfl
@[simp] theorem dropPending_fuses (s : State) (i : CtxId) (n : BitVec 32) (b : Bool) : (dropPending s i n b).fuses = s.fuses := rfl
@[simp] theorem dropPending_lgfail (s : State) (i : CtxId) (n : BitVec 32) (b : Bool) : (dropPending s i n b).lgfail = s.lgfail := rfl
@[simp] theorem dropPending_flash (s : State) (i : CtxId) (n : BitVec 32) (b : Bool) : (dropPending s i n b).flash = s.flash := rfl
@[simp] theorem dropPending_serial (s : State) (i : CtxId) (n : BitVec 32) (b : Bool) : (dropPending s i n b).serial = s.serial := rfl
@[simp] theorem dropPending_free (s : State) (i : CtxId) (n : BitVec 32) (b : Bool) : (dropPending s i n b).free = s.free := rfl
@[simp] theorem dropPending_agenda (s : State) (i : CtxId) (n : BitVec 32) (b : Bool) : (dropPending s i n b).agenda = s.agenda := rfl
@[simp] theorem dropPending_now (s : State) (i : CtxId) (n : BitVec 32) (b : Bool) : (dropPending s i n b).now = s.now := rfl
@[simp] theorem addGuilt_core (s : State) (i : CtxId) : (addGuilt s i).core = s.core := rfl
@[simp] theorem addGuilt_rest (s : State) (i : CtxId) : (addGuilt s i).rest = s.rest := rfl
@[simp] theorem addGuilt_clusters (s : State) (i : CtxId) : (addGuilt s i).clusters = s.clusters := rfl
@[simp] theorem addGuilt_mem (s : State) (i : CtxId) : (addGuilt s i).mem = s.mem := rfl
@[simp] theorem addGuilt_launches (s : State) (i : CtxId) : (addGuilt s i).launches = s.launches := rfl
@[simp] theorem addGuilt_graphs (s : State) (i : CtxId) : (addGuilt s i).graphs = s.graphs := rfl
@[simp] theorem addGuilt_stores (s : State) (i : CtxId) : (addGuilt s i).stores = s.stores := rfl
@[simp] theorem addGuilt_refusals (s : State) (i : CtxId) : (addGuilt s i).refusals = s.refusals := rfl
@[simp] theorem addGuilt_network (s : State) (i : CtxId) : (addGuilt s i).network = s.network := rfl
@[simp] theorem addGuilt_links (s : State) (i : CtxId) : (addGuilt s i).links = s.links := rfl
@[simp] theorem addGuilt_dirs (s : State) (i : CtxId) : (addGuilt s i).dirs = s.dirs := rfl
@[simp] theorem addGuilt_dirReqs (s : State) (i : CtxId) : (addGuilt s i).dirReqs = s.dirReqs := rfl
@[simp] theorem addGuilt_caches (s : State) (i : CtxId) : (addGuilt s i).caches = s.caches := rfl
@[simp] theorem addGuilt_walks (s : State) (i : CtxId) : (addGuilt s i).walks = s.walks := rfl
@[simp] theorem addGuilt_cuts (s : State) (i : CtxId) : (addGuilt s i).cuts = s.cuts := rfl
@[simp] theorem addGuilt_traceQ (s : State) (i : CtxId) : (addGuilt s i).traceQ = s.traceQ := rfl
@[simp] theorem addGuilt_buffers (s : State) (i : CtxId) : (addGuilt s i).buffers = s.buffers := rfl
@[simp] theorem addGuilt_hub (s : State) (i : CtxId) : (addGuilt s i).hub = s.hub := rfl
@[simp] theorem addGuilt_fuses (s : State) (i : CtxId) : (addGuilt s i).fuses = s.fuses := rfl
@[simp] theorem addGuilt_lgfail (s : State) (i : CtxId) : (addGuilt s i).lgfail = s.lgfail := rfl
@[simp] theorem addGuilt_flash (s : State) (i : CtxId) : (addGuilt s i).flash = s.flash := rfl
@[simp] theorem addGuilt_serial (s : State) (i : CtxId) : (addGuilt s i).serial = s.serial := rfl
@[simp] theorem addGuilt_free (s : State) (i : CtxId) : (addGuilt s i).free = s.free := rfl
@[simp] theorem addGuilt_agenda (s : State) (i : CtxId) : (addGuilt s i).agenda = s.agenda := rfl
@[simp] theorem addGuilt_now (s : State) (i : CtxId) : (addGuilt s i).now = s.now := rfl
@[simp] theorem setErr_core (s : State) (i : CtxId) (q : BitVec 4) (e : BitVec 16) : (setErr s i q e).core = s.core := rfl
@[simp] theorem setErr_rest (s : State) (i : CtxId) (q : BitVec 4) (e : BitVec 16) : (setErr s i q e).rest = s.rest := rfl
@[simp] theorem setErr_clusters (s : State) (i : CtxId) (q : BitVec 4) (e : BitVec 16) : (setErr s i q e).clusters = s.clusters := rfl
@[simp] theorem setErr_mem (s : State) (i : CtxId) (q : BitVec 4) (e : BitVec 16) : (setErr s i q e).mem = s.mem := rfl
@[simp] theorem setErr_launches (s : State) (i : CtxId) (q : BitVec 4) (e : BitVec 16) : (setErr s i q e).launches = s.launches := rfl
@[simp] theorem setErr_graphs (s : State) (i : CtxId) (q : BitVec 4) (e : BitVec 16) : (setErr s i q e).graphs = s.graphs := rfl
@[simp] theorem setErr_stores (s : State) (i : CtxId) (q : BitVec 4) (e : BitVec 16) : (setErr s i q e).stores = s.stores := rfl
@[simp] theorem setErr_refusals (s : State) (i : CtxId) (q : BitVec 4) (e : BitVec 16) : (setErr s i q e).refusals = s.refusals := rfl
@[simp] theorem setErr_network (s : State) (i : CtxId) (q : BitVec 4) (e : BitVec 16) : (setErr s i q e).network = s.network := rfl
@[simp] theorem setErr_links (s : State) (i : CtxId) (q : BitVec 4) (e : BitVec 16) : (setErr s i q e).links = s.links := rfl
@[simp] theorem setErr_dirs (s : State) (i : CtxId) (q : BitVec 4) (e : BitVec 16) : (setErr s i q e).dirs = s.dirs := rfl
@[simp] theorem setErr_dirReqs (s : State) (i : CtxId) (q : BitVec 4) (e : BitVec 16) : (setErr s i q e).dirReqs = s.dirReqs := rfl
@[simp] theorem setErr_caches (s : State) (i : CtxId) (q : BitVec 4) (e : BitVec 16) : (setErr s i q e).caches = s.caches := rfl
@[simp] theorem setErr_walks (s : State) (i : CtxId) (q : BitVec 4) (e : BitVec 16) : (setErr s i q e).walks = s.walks := rfl
@[simp] theorem setErr_cuts (s : State) (i : CtxId) (q : BitVec 4) (e : BitVec 16) : (setErr s i q e).cuts = s.cuts := rfl
@[simp] theorem setErr_traceQ (s : State) (i : CtxId) (q : BitVec 4) (e : BitVec 16) : (setErr s i q e).traceQ = s.traceQ := rfl
@[simp] theorem setErr_buffers (s : State) (i : CtxId) (q : BitVec 4) (e : BitVec 16) : (setErr s i q e).buffers = s.buffers := rfl
@[simp] theorem setErr_hub (s : State) (i : CtxId) (q : BitVec 4) (e : BitVec 16) : (setErr s i q e).hub = s.hub := rfl
@[simp] theorem setErr_fuses (s : State) (i : CtxId) (q : BitVec 4) (e : BitVec 16) : (setErr s i q e).fuses = s.fuses := rfl
@[simp] theorem setErr_lgfail (s : State) (i : CtxId) (q : BitVec 4) (e : BitVec 16) : (setErr s i q e).lgfail = s.lgfail := rfl
@[simp] theorem setErr_flash (s : State) (i : CtxId) (q : BitVec 4) (e : BitVec 16) : (setErr s i q e).flash = s.flash := rfl
@[simp] theorem setErr_serial (s : State) (i : CtxId) (q : BitVec 4) (e : BitVec 16) : (setErr s i q e).serial = s.serial := rfl
@[simp] theorem setErr_free (s : State) (i : CtxId) (q : BitVec 4) (e : BitVec 16) : (setErr s i q e).free = s.free := rfl
@[simp] theorem setErr_agenda (s : State) (i : CtxId) (q : BitVec 4) (e : BitVec 16) : (setErr s i q e).agenda = s.agenda := rfl
@[simp] theorem setErr_now (s : State) (i : CtxId) (q : BitVec 4) (e : BitVec 16) : (setErr s i q e).now = s.now := rfl

@[simp] theorem onCore_core (s : State) (f : Core → Core) : (onCore s f).core = f s.core := rfl
@[simp] theorem mapCores_core (s : State) (f : Core → Core) : (mapCores s f).core = f s.core := rfl
@[simp] theorem toPc_core (s : State) (p : Word) :
    (toPc s p).core = { s.core with srcPc := s.core.pc, pc := p, blocked := none, early := [] } := rfl
@[simp] theorem standIn_core (s : State) (w : Wait) : (standIn s w).core = { s.core with blocked := some w } := rfl
@[simp] theorem countUp_launches (s : State) (i : CtxId) (l : Lid) (n : Nat) :
    (countUp s i l n).launches = s.launches.map fun x => if x.ctx = i ∧ x.lid = l then { x with count := x.count + n } else x := rfl

@[simp] theorem setCore_clusters (s : State) (c : Core) : (setCore s c).clusters = s.clusters := by
  unfold setCore
  split <;> rfl
@[simp] theorem setCore_mem (s : State) (c : Core) : (setCore s c).mem = s.mem := by
  unfold setCore
  split <;> rfl
@[simp] theorem setCore_ctxs (s : State) (c : Core) : (setCore s c).ctxs = s.ctxs := by
  unfold setCore
  split <;> rfl
@[simp] theorem setCore_launches (s : State) (c : Core) : (setCore s c).launches = s.launches := by
  unfold setCore
  split <;> rfl
@[simp] theorem setCore_graphs (s : State) (c : Core) : (setCore s c).graphs = s.graphs := by
  unfold setCore
  split <;> rfl
@[simp] theorem setCore_stores (s : State) (c : Core) : (setCore s c).stores = s.stores := by
  unfold setCore
  split <;> rfl
@[simp] theorem setCore_refusals (s : State) (c : Core) : (setCore s c).refusals = s.refusals := by
  unfold setCore
  split <;> rfl
@[simp] theorem setCore_network (s : State) (c : Core) : (setCore s c).network = s.network := by
  unfold setCore
  split <;> rfl
@[simp] theorem setCore_links (s : State) (c : Core) : (setCore s c).links = s.links := by
  unfold setCore
  split <;> rfl
@[simp] theorem setCore_dirs (s : State) (c : Core) : (setCore s c).dirs = s.dirs := by
  unfold setCore
  split <;> rfl
@[simp] theorem setCore_dirReqs (s : State) (c : Core) : (setCore s c).dirReqs = s.dirReqs := by
  unfold setCore
  split <;> rfl
@[simp] theorem setCore_caches (s : State) (c : Core) : (setCore s c).caches = s.caches := by
  unfold setCore
  split <;> rfl
@[simp] theorem setCore_walks (s : State) (c : Core) : (setCore s c).walks = s.walks := by
  unfold setCore
  split <;> rfl
@[simp] theorem setCore_cuts (s : State) (c : Core) : (setCore s c).cuts = s.cuts := by
  unfold setCore
  split <;> rfl
@[simp] theorem setCore_traceQ (s : State) (c : Core) : (setCore s c).traceQ = s.traceQ := by
  unfold setCore
  split <;> rfl
@[simp] theorem setCore_buffers (s : State) (c : Core) : (setCore s c).buffers = s.buffers := by
  unfold setCore
  split <;> rfl
@[simp] theorem setCore_hub (s : State) (c : Core) : (setCore s c).hub = s.hub := by
  unfold setCore
  split <;> rfl
@[simp] theorem setCore_fuses (s : State) (c : Core) : (setCore s c).fuses = s.fuses := by
  unfold setCore
  split <;> rfl
@[simp] theorem setCore_lgfail (s : State) (c : Core) : (setCore s c).lgfail = s.lgfail := by
  unfold setCore
  split <;> rfl
@[simp] theorem setCore_flash (s : State) (c : Core) : (setCore s c).flash = s.flash := by
  unfold setCore
  split <;> rfl
@[simp] theorem setCore_serial (s : State) (c : Core) : (setCore s c).serial = s.serial := by
  unfold setCore
  split <;> rfl
@[simp] theorem setCore_free (s : State) (c : Core) : (setCore s c).free = s.free := by
  unfold setCore
  split <;> rfl
@[simp] theorem setCore_agenda (s : State) (c : Core) : (setCore s c).agenda = s.agenda := by
  unfold setCore
  split <;> rfl
@[simp] theorem setCore_now (s : State) (c : Core) : (setCore s c).now = s.now := by
  unfold setCore
  split <;> rfl
@[simp] theorem modCore_clusters (s : State) (k : Nat) (f : Core → Core) : (modCore s k f).clusters = s.clusters := setCore_clusters s _
@[simp] theorem modCore_mem (s : State) (k : Nat) (f : Core → Core) : (modCore s k f).mem = s.mem := setCore_mem s _
@[simp] theorem modCore_ctxs (s : State) (k : Nat) (f : Core → Core) : (modCore s k f).ctxs = s.ctxs := setCore_ctxs s _
@[simp] theorem modCore_launches (s : State) (k : Nat) (f : Core → Core) : (modCore s k f).launches = s.launches := setCore_launches s _
@[simp] theorem modCore_graphs (s : State) (k : Nat) (f : Core → Core) : (modCore s k f).graphs = s.graphs := setCore_graphs s _
@[simp] theorem modCore_stores (s : State) (k : Nat) (f : Core → Core) : (modCore s k f).stores = s.stores := setCore_stores s _
@[simp] theorem modCore_refusals (s : State) (k : Nat) (f : Core → Core) : (modCore s k f).refusals = s.refusals := setCore_refusals s _
@[simp] theorem modCore_network (s : State) (k : Nat) (f : Core → Core) : (modCore s k f).network = s.network := setCore_network s _
@[simp] theorem modCore_links (s : State) (k : Nat) (f : Core → Core) : (modCore s k f).links = s.links := setCore_links s _
@[simp] theorem modCore_dirs (s : State) (k : Nat) (f : Core → Core) : (modCore s k f).dirs = s.dirs := setCore_dirs s _
@[simp] theorem modCore_dirReqs (s : State) (k : Nat) (f : Core → Core) : (modCore s k f).dirReqs = s.dirReqs := setCore_dirReqs s _
@[simp] theorem modCore_caches (s : State) (k : Nat) (f : Core → Core) : (modCore s k f).caches = s.caches := setCore_caches s _
@[simp] theorem modCore_walks (s : State) (k : Nat) (f : Core → Core) : (modCore s k f).walks = s.walks := setCore_walks s _
@[simp] theorem modCore_cuts (s : State) (k : Nat) (f : Core → Core) : (modCore s k f).cuts = s.cuts := setCore_cuts s _
@[simp] theorem modCore_traceQ (s : State) (k : Nat) (f : Core → Core) : (modCore s k f).traceQ = s.traceQ := setCore_traceQ s _
@[simp] theorem modCore_buffers (s : State) (k : Nat) (f : Core → Core) : (modCore s k f).buffers = s.buffers := setCore_buffers s _
@[simp] theorem modCore_hub (s : State) (k : Nat) (f : Core → Core) : (modCore s k f).hub = s.hub := setCore_hub s _
@[simp] theorem modCore_fuses (s : State) (k : Nat) (f : Core → Core) : (modCore s k f).fuses = s.fuses := setCore_fuses s _
@[simp] theorem modCore_lgfail (s : State) (k : Nat) (f : Core → Core) : (modCore s k f).lgfail = s.lgfail := setCore_lgfail s _
@[simp] theorem modCore_flash (s : State) (k : Nat) (f : Core → Core) : (modCore s k f).flash = s.flash := setCore_flash s _
@[simp] theorem modCore_serial (s : State) (k : Nat) (f : Core → Core) : (modCore s k f).serial = s.serial := setCore_serial s _
@[simp] theorem modCore_free (s : State) (k : Nat) (f : Core → Core) : (modCore s k f).free = s.free := setCore_free s _
@[simp] theorem modCore_agenda (s : State) (k : Nat) (f : Core → Core) : (modCore s k f).agenda = s.agenda := setCore_agenda s _
@[simp] theorem modCore_now (s : State) (k : Nat) (f : Core → Core) : (modCore s k f).now = s.now := setCore_now s _
@[simp] theorem focus_clusters (s : State) (k : Nat) : (focus s k).clusters = s.clusters := by
  unfold focus
  split <;> rfl
@[simp] theorem focus_mem (s : State) (k : Nat) : (focus s k).mem = s.mem := by
  unfold focus
  split <;> rfl
@[simp] theorem focus_ctxs (s : State) (k : Nat) : (focus s k).ctxs = s.ctxs := by
  unfold focus
  split <;> rfl
@[simp] theorem focus_launches (s : State) (k : Nat) : (focus s k).launches = s.launches := by
  unfold focus
  split <;> rfl
@[simp] theorem focus_graphs (s : State) (k : Nat) : (focus s k).graphs = s.graphs := by
  unfold focus
  split <;> rfl
@[simp] theorem focus_stores (s : State) (k : Nat) : (focus s k).stores = s.stores := by
  unfold focus
  split <;> rfl
@[simp] theorem focus_refusals (s : State) (k : Nat) : (focus s k).refusals = s.refusals := by
  unfold focus
  split <;> rfl
@[simp] theorem focus_network (s : State) (k : Nat) : (focus s k).network = s.network := by
  unfold focus
  split <;> rfl
@[simp] theorem focus_links (s : State) (k : Nat) : (focus s k).links = s.links := by
  unfold focus
  split <;> rfl
@[simp] theorem focus_dirs (s : State) (k : Nat) : (focus s k).dirs = s.dirs := by
  unfold focus
  split <;> rfl
@[simp] theorem focus_dirReqs (s : State) (k : Nat) : (focus s k).dirReqs = s.dirReqs := by
  unfold focus
  split <;> rfl
@[simp] theorem focus_caches (s : State) (k : Nat) : (focus s k).caches = s.caches := by
  unfold focus
  split <;> rfl
@[simp] theorem focus_walks (s : State) (k : Nat) : (focus s k).walks = s.walks := by
  unfold focus
  split <;> rfl
@[simp] theorem focus_cuts (s : State) (k : Nat) : (focus s k).cuts = s.cuts := by
  unfold focus
  split <;> rfl
@[simp] theorem focus_traceQ (s : State) (k : Nat) : (focus s k).traceQ = s.traceQ := by
  unfold focus
  split <;> rfl
@[simp] theorem focus_buffers (s : State) (k : Nat) : (focus s k).buffers = s.buffers := by
  unfold focus
  split <;> rfl
@[simp] theorem focus_hub (s : State) (k : Nat) : (focus s k).hub = s.hub := by
  unfold focus
  split <;> rfl
@[simp] theorem focus_fuses (s : State) (k : Nat) : (focus s k).fuses = s.fuses := by
  unfold focus
  split <;> rfl
@[simp] theorem focus_lgfail (s : State) (k : Nat) : (focus s k).lgfail = s.lgfail := by
  unfold focus
  split <;> rfl
@[simp] theorem focus_flash (s : State) (k : Nat) : (focus s k).flash = s.flash := by
  unfold focus
  split <;> rfl
@[simp] theorem focus_serial (s : State) (k : Nat) : (focus s k).serial = s.serial := by
  unfold focus
  split <;> rfl
@[simp] theorem focus_free (s : State) (k : Nat) : (focus s k).free = s.free := by
  unfold focus
  split <;> rfl
@[simp] theorem focus_agenda (s : State) (k : Nat) : (focus s k).agenda = s.agenda := by
  unfold focus
  split <;> rfl
@[simp] theorem focus_now (s : State) (k : Nat) : (focus s k).now = s.now := by
  unfold focus
  split <;> rfl

@[simp] theorem keeping_ok {α : Type} (s : State) (x : α) : keeping s (.ok x) = .ok x := rfl
@[simp] theorem keeping_error {α : Type} (s : State) (e : Stop) : keeping s (.error e : Eff α) = .error (.after s e) := rfl
@[simp] theorem bareStop_ok {α : Type} (x : α) : bareStop (.ok x) = .ok x := rfl
@[simp] theorem bareStop_error {α : Type} (e : Stop) : bareStop (.error e : Eff α) = .error e.bare := rfl
@[simp] theorem Stop.bare_after (s : State) (e : Stop) : (Stop.after s e).bare = e.bare := rfl
@[simp] theorem Stop.state_after (s t : State) (e : Stop) : (Stop.after t e).state s = e.state t := rfl

end Sys2Proof.Machine
end

