-- ==== Sys2Proof/Laws/Cores.lean ====
section
/-!
SUPPORT. Sys2Proof/Laws/Cores.lean: reading a core, a cluster, a context or a launch after one of them was changed.
-/
namespace Sys2Proof.Machine

theorem assocGet_assocSet {α : Type} (l : List (Nat × α)) (k j : Nat) (x : α) :
    assocGet (assocSet l k x) j = if j = k then some x else assocGet l j := by
  fun_induction assocSet l k x <;> grind [assocGet]

/-- A core stands under its own number. -/
@[simp] theorem getCore_id (s : State) (k : Nat) : (getCore s k).id = k := by
  unfold getCore
  split
  · assumption
  · rfl

/-- The focus core is the core of its number. -/
@[simp] theorem getCore_focus (s : State) : getCore s s.core.id = s.core := by simp [getCore]

/-- A core after another one, or itself, was replaced. -/
theorem getCore_setCore (s : State) (c : Core) (j : Nat) : getCore (setCore s c) j = if j = c.id then c else getCore s j := by
  unfold setCore
  split
  · grind [getCore]
  · by_cases e : j = c.id <;> simp_all [getCore, assocGet_assocSet]

/-- A core after a core was changed: every other one is as it was. -/
theorem getCore_modCore (s : State) (k j : Nat) (f : Core → Core) :
    getCore (modCore s k f) j = if j = k then { f (getCore s k) with id := k } else getCore s j :=
  getCore_setCore s _ j

@[simp] theorem setCore_focus_id (s : State) (c : Core) : (setCore s c).core.id = s.core.id := by
  unfold setCore
  split
  · exact (‹s.core.id = c.id›).symm
  · rfl
@[simp] theorem modCore_focus_id (s : State) (k : Nat) (f : Core → Core) : (modCore s k f).core.id = s.core.id :=
  setCore_focus_id s _

/-- Changing the focus core by its number changes it in place. -/
theorem modCore_focus (s : State) (f : Core → Core) :
    modCore s s.core.id f = { s with core := { f s.core with id := s.core.id } } := by
  simp [modCore, setCore]

/-- Bringing a core into focus changes no core. -/
theorem focus_core (s : State) (k : Nat) : (focus s k).core = getCore s k := by
  unfold focus
  split
  · simp [getCore, *]
  · rfl

/-- A cluster after one was replaced. -/
theorem getCluster_setCluster (s : State) (c d : Nat) (x : Cluster) :
    getCluster (setCluster s c x) d = if d = c then x else getCluster s d := by
  unfold getCluster setCluster
  simp only [assocGet_assocSet]
  split <;> rfl

/-- A cluster after one was changed. -/
theorem getCluster_modCluster (s : State) (c d : Nat) (f : Cluster → Cluster) :
    getCluster (modCluster s c f) d = if d = c then f (getCluster s c) else getCluster s d :=
  getCluster_setCluster s c d _

/-- A context after one was changed by a function that keeps numbers. -/
theorem getCtx_modCtx (s : State) (i j : CtxId) (f : Ctx → Ctx) (hf : ∀ c, (f c).id = c.id) :
    getCtx (modCtx s i f) j = (getCtx s j).map fun c => if c.id = i then f c else c := by
  have e : ((fun c : Ctx => c.id == j) ∘ fun c => if c.id = i then f c else c) = fun c => c.id == j := by
    funext c
    grind
  simp only [getCtx, modCtx, List.find?_map, e]

/-- A launch after one was changed by a function that keeps its names. -/
theorem getLaunch_modLaunch (s : State) (i j : CtxId) (l m : Lid) (f : Launch → Launch)
    (hf : ∀ x, (f x).ctx = x.ctx ∧ (f x).lid = x.lid) :
    getLaunch (modLaunch s i l f) j m = (getLaunch s j m).map fun x => if x.ctx = i ∧ x.lid = l then f x else x := by
  have e : ((fun x : Launch => x.ctx == j && x.lid == m) ∘ fun x => if x.ctx = i ∧ x.lid = l then f x else x) =
      fun x => x.ctx == j && x.lid == m := by
    funext x
    grind
  simp only [getLaunch, modLaunch, List.find?_map, e]

end Sys2Proof.Machine
end

