-- ==== Sys2Proof/Laws/Memory.lean ====
section
/-!
SUPPORT. Sys2Proof/Laws/Memory.lean: the lists of memory: a read after a write, and the canonical form that every write keeps.
-/
namespace Sys2Proof.Machine

/-- A list of cells whose keys all lie above a key, strictly rising, with no zero byte. -/
def Memory.above (lo : Nat) : List Host.Cell → Prop
  | [] => True
  | (a, b) :: r => lo < a ∧ b ≠ 0 ∧ Memory.above a r

/-- The canonical form without a lower bound. -/
def Memory.rising : List Host.Cell → Prop
  | [] => True
  | (a, b) :: r => b ≠ 0 ∧ Memory.above a r

theorem Memory.above_iff {lo : Nat} {m : List Host.Cell} : Memory.above lo m ↔ Memory.rising m ∧ ∀ x ∈ m.head?, lo < x.1 := by
  cases m <;> grind [Memory.above, Memory.rising]

theorem Memory.wf_iff_rising (m : List Host.Cell) : Memory.wf m = true ↔ Memory.rising m := by
  fun_induction Memory.wf m <;> grind [Memory.above, Memory.rising]

theorem Memory.above_mono {lo lo' : Nat} {m : List Host.Cell} (hm : Memory.above lo m) (h : lo' ≤ lo) : Memory.above lo' m := by
  cases m <;> grind [Memory.above]

theorem memSet_above {lo k : Nat} {m : List Host.Cell} (hm : Memory.above lo m) (hk : lo < k) (b : Byte) :
    Memory.above lo (memSet m k b) := by
  fun_induction memSet m k b generalizing lo <;> grind [putCell, Memory.above_iff, Memory.above]

/-- A byte written keeps the canonical form. -/
theorem memSet_wf {m : List Host.Cell} (h : Memory.wf m = true) (k : Nat) (b : Byte) : Memory.wf (memSet m k b) = true := by
  rw [Memory.wf_iff_rising] at *
  cases m <;> grind [memSet, putCell, Memory.rising, Memory.above, Memory.above_iff, memSet_above]

/-- Several bytes written keep the canonical form. -/
theorem memSetAll_wf {m : List Host.Cell} (h : Memory.wf m = true) (l : List (Nat × Byte)) : Memory.wf (memSetAll m l) = true := by
  induction l generalizing m with
  | nil => exact h
  | cons x r ih => exact ih (memSet_wf h x.1 x.2)

/-- A number written keeps the canonical form. -/
theorem memWrite_wf {m : List Host.Cell} (h : Memory.wf m = true) (k n x : Nat) : Memory.wf (memWrite m k n x) = true :=
  memSetAll_wf h _

theorem Memory.above_filter {lo : Nat} {m : List Host.Cell} (h : Memory.above lo m) (p : Host.Cell → Bool) :
    Memory.above lo (m.filter p) := by
  induction m generalizing lo <;> grind [Memory.above, Memory.above_mono]

/-- Cells taken out keep the canonical form. -/
theorem filter_wf {m : List Host.Cell} (h : Memory.wf m = true) (p : Host.Cell → Bool) : Memory.wf (m.filter p) = true := by
  rw [Memory.wf_iff_rising] at *
  cases m with
  | nil => exact h
  | cons x r =>
    have hr := Memory.above_filter h.2 p
    rw [List.filter_cons]
    split
    · exact ⟨h.1, hr⟩
    · exact (Memory.above_iff.1 hr).1

/-- A range of keys zeroed keeps the canonical form. -/
theorem memClear_wf {m : List Host.Cell} (h : Memory.wf m = true) (lo hi : Nat) : Memory.wf (memClear m lo hi) = true :=
  filter_wf h _

/-! ### A read after a write -/

theorem memGet_of_above {lo : Nat} {m : List Host.Cell} (h : Memory.above lo m) {k : Nat} (hk : k ≤ lo) : memGet m k = 0 := by
  fun_induction memGet m k generalizing lo <;> grind [Memory.above]

/-- A byte reads as it was last written, and every other byte as before. -/
theorem memGet_memSet {m : List Host.Cell} (h : Memory.wf m = true) (k j : Nat) (b : Byte) :
    memGet (memSet m k b) j = if j = k then b else memGet m j := by
  rw [Memory.wf_iff_rising] at h
  fun_induction memSet m k b <;> grind [putCell, Memory.rising, Memory.above_iff, memGet, memGet_of_above]

/-- A byte outside the written ones reads as before. -/
theorem memGet_memSetAll_other {m : List Host.Cell} (h : Memory.wf m = true) (l : List (Nat × Byte)) {j : Nat}
    (hj : j ∉ l.map Prod.fst) : memGet (memSetAll m l) j = memGet m j := by
  induction l generalizing m <;> grind [memSetAll, memSet_wf, memGet_memSet]

/-- A byte outside the range of a written number reads as before. -/
theorem memGet_memWrite_other {m : List Host.Cell} (h : Memory.wf m = true) {k n x j : Nat} (hj : j < k ∨ k + n ≤ j) :
    memGet (memWrite m k n x) j = memGet m j :=
  memGet_memSetAll_other h _ fun hm => by
    obtain ⟨c, hc, rfl⟩ := List.mem_map.1 hm
    obtain ⟨⟨i, b⟩, hp, rfl⟩ := List.mem_map.1 hc
    have hi := List.mem_range.1 (List.of_mem_zip hp).1
    grind

end Sys2Proof.Machine
end

