-- ==== Sys2Proof/Laws/Registers.lean ====
section
/-!
SUPPORT. Sys2Proof/Laws/Registers.lean: reading a register after writing one, and what moving the PC on does.
-/
namespace Sys2Proof.Machine

/-! ### General registers -/

theorem writeWG_outside (s : State) (d : WG) (x : Word) : writeWG s d x = { s with core := (writeWG s d x).core } := by
  unfold writeWG
  repeat' split
  all_goals rfl

@[simp] theorem writeWG_bank (s : State) (d : WG) (x : Word) : (writeWG s d x).core.bank = s.core.bank := by
  unfold writeWG
  repeat' split
  all_goals simp_all

@[simp] theorem writeWG_id (s : State) (d : WG) (x : Word) : (writeWG s d x).core.id = s.core.id := by
  unfold writeWG
  repeat' split
  all_goals simp_all

/-- In the bank of a task, a register reads as it was last written, and every other one as before; g0 takes no value. -/
theorem readWG_writeWG (s : State) (d r : WG) (x : Word) (hb : s.core.bank ≠ .coal) :
    readWG (writeWG s d x) r = if r = d ∧ d ≠ .g 0 then x else readWG s r := by
  cases d <;> cases r <;> cases hbk : s.core.bank <;> grind [readWG, writeWG, onCore_core]

/-- g0 reads as zero in every bank (R50). -/
@[simp] theorem readWG_g0 (s : State) : readWG s (.g 0) = 0 := by
  unfold readWG
  split <;> simp_all

/-- A register reads by what stands in the bank's own registers, and by nothing else of the state. -/
theorem readWG_congr {s t : State} (r : WG) (hb : t.core.bank = s.core.bank) (hw : t.core.win.w = s.core.win.w)
    (ho : t.core.out = s.core.out) (hg : t.core.g = s.core.g) (hs : t.core.svc = s.core.svc) : readWG t r = readWG s r := by
  unfold readWG
  rw [hb]
  split <;> simp [hw, ho, hg, hs]

/-! ### Vector registers and predicates -/

@[simp] theorem writeV_bank (s : State) (n : V) (x : VReg) : (writeV s n x).core.bank = s.core.bank := by
  unfold writeV
  split <;> simp_all
@[simp] theorem writeP_bank (s : State) (n : P) (x : Word) : (writeP s n x).core.bank = s.core.bank := by
  unfold writeP
  repeat' split
  all_goals simp_all

/-- A vector register reads as it was last written, and every other one as before. -/
theorem readV_writeV (s : State) (d r : V) (x : VReg) :
    readV (writeV s d x) r = if r = d then x else readV s r := by
  cases hbk : s.core.bank <;> grind [readV, writeV, onCore_core]

/-- In the bank of a task, a predicate reads as it was last written, and every other one as before; p0 reads as all ones. -/
theorem readP_writeP (s : State) (d r : P) (x : Word) (hb : s.core.bank ≠ .coal) :
    readP (writeP s d x) r = if r = d ∧ d ≠ 0 then x else readP s r := by
  cases hbk : s.core.bank <;> grind [readP, writeP, onCore_core]

/-! ### The PC -/

theorem advance_service (s : State) (h : s.core.bank = .service) : advance s = toPc s (s.core.pc + 12) := by
  simp only [advance, h]

/-- A user task's PC moves to the next word; at the end of a loop's body the loop goes round, or ends (R188). -/
theorem advance_user (s : State) (h : s.core.bank = .user) : advance s =
    if s.core.loop.on = true ∧ s.core.pc + 12 = s.core.loop.stop then
      (if s.core.loop.rem = 1 then
        onCore (toPc s (s.core.pc + 12)) fun c => { c with loop := { c.loop with rem := 0, on := false }, loopBuf := [] }
      else onCore (toPc s s.core.loop.start) fun c => { c with loop := { c.loop with rem := c.loop.rem - 1 } })
    else toPc s (s.core.pc + 12) := by
  simp only [advance, h]

/-- A coal handler's own PC and count change (R42). -/
theorem advance_coal (s : State) (h : s.core.bank = .coal) :
    advance s = onCore s fun c => { c with coal := { c.coal with pc := c.coal.pc + 12, ran := c.coal.ran + 1 } } := by
  simp only [advance, h]

/-- What moving on leaves of a core that runs a task: the PC, its producer, the wait, the loop state and the loop buffer may
change, and nothing else. -/
theorem advance_core (s : State) (hb : s.core.bank ≠ .coal) :
    (advance s).core = { s.core with srcPc := s.core.pc, pc := (advance s).core.pc, blocked := none, early := [],
                                     loop := (advance s).core.loop, loopBuf := (advance s).core.loopBuf } := by
  have h : s.core.bank = .service ∨ s.core.bank = .user := by
    cases h : s.core.bank <;> simp_all
  rcases h with h | h
  · rw [advance_service s h]
    rfl
  · rw [advance_user s h]
    split_ifs <;> rfl

/-- Moving on touches the focus core alone. -/
theorem advance_outside (s : State) : advance s = { s with core := (advance s).core } := by
  have h : s.core.bank = .service ∨ s.core.bank = .user ∨ s.core.bank = .coal := by
    cases h : s.core.bank <;> simp
  rcases h with h | h | h
  · rw [advance_service s h]
    rfl
  · rw [advance_user s h]
    split_ifs <;> rfl
  · rw [advance_coal s h]
    rfl

@[simp] theorem advance_mem (s : State) : (advance s).mem = s.mem := by rw [advance_outside]
@[simp] theorem advance_bank (s : State) : (advance s).core.bank = s.core.bank := by
  by_cases h : s.core.bank = .coal
  · rw [advance_coal s h]
    rfl
  · rw [advance_core s h]

/-- Moving on changes no register. -/
@[simp] theorem readWG_advance (s : State) (r : WG) : readWG (advance s) r = readWG s r := by
  by_cases h : s.core.bank = .coal
  · exact readWG_congr r (by simp) (by rw [advance_coal s h]; rfl) (by rw [advance_coal s h]; rfl)
      (by rw [advance_coal s h]; rfl) (by rw [advance_coal s h]; rfl)
  · exact readWG_congr r (by simp) (by rw [advance_core s h]) (by rw [advance_core s h]) (by rw [advance_core s h])
      (by rw [advance_core s h])

@[simp] theorem jumpTo_mem (s : State) (p : Word) : (jumpTo s p).mem = s.mem := by
  simp only [jumpTo]
  split <;> rfl

end Sys2Proof.Machine
end

