-- ==== Sys2Proof/Machine/AsmLines.lean ====
section
/-!
DEFINITION. Sys2Proof/Machine/AsmLines.lean: kelasm's walk over the lines of a source (spec/16 R331, R333 to R342): the sections with their
counters, the symbols, and what each line is to write. The sizes depend on no address, so the bytes are formed after the walk.
-/
namespace Sys2Proof.Machine

/-- The section kinds by their codes (R333). -/
def sectionKinds : List (String × Nat) :=
  [("CODE", 1), ("RODATA", 2), ("DATA", 3), ("ZERO", 4), ("LOCAL", 5), ("EMBER", 6), ("PACKET", 7), ("GRAPH", 8)]
/-- The kinds that hold data, blocks and images, those that hold bytes in the file, and those that take `.zero` and `.align`. -/
def dataKinds : List Nat := [2, 3, 6]
def fileKinds : List Nat := [1, 2, 3, 6, 7, 8]

/-- A section of a source. -/
structure AsmSect where
  name : Text
  kind : Nat
  align : Nat
  flags : Nat
  size : Nat
deriving DecidableEq, Repr

/-- What a symbol of a source stands for: a place in a section, an `.equ` or route, or a name of another file. -/
inductive SymBody where
  | at (sect : Text) (off : Nat)
  | equ
  | extern
deriving DecidableEq, Repr
/-- A symbol of a source: KIND and SIZE are those of R345. -/
structure AsmSym where
  name : Text
  kind : Nat
  size : Nat
  body : SymBody
deriving DecidableEq, Repr
/-- An `.equ` or a route: the expression it stands for, and where its own `.` points. -/
structure AsmEqu where
  name : Text
  expr : Expr
  dot : Option (Text × Nat)
deriving DecidableEq, Repr

/-- A packet of a launch declaration as written (R339): the directives not given are absent. -/
structure PacketText where
  entry : Text
  units : Option Text
  arg : Option Text
  astep : Option Text
  gang : Option Text
  target : Option Text
  dlen : Option Text
  wdog : Option Text
  wstack : Option (Text × Text)
  pw : List (Text × Text × Text)
  glob : List (Text × Text)
  ring : List (Text × Text × Text × Text)
deriving DecidableEq, Repr
/-- A packet with an entry and nothing else. -/
def PacketText.start (entry : Text) : PacketText := ⟨entry, none, none, none, none, none, none, none, none, [], [], []⟩
/-- A route as written (R340). -/
structure RouteText where
  name : Text
  tag : Text
  target : Text
  chan : Text
deriving DecidableEq, Repr
/-- A launch declaration: the head packet, the packets of its bundle, its routes. -/
structure LaunchText where
  name : Text
  done : List PacketText
  packet : PacketText
  routes : List RouteText
deriving DecidableEq, Repr
/-- A node line (R342): its operands before the successors, and these. -/
structure NodeText where
  kind : Nat
  args : List Text
  next : Option Text
  taken : Option Text
deriving DecidableEq, Repr
/-- A graph: its nodes in order, and the labels of its nodes. -/
structure GraphText where
  name : Text
  walker : Text
  sect : Text
  nodes : List NodeText
  labels : List (Text × Nat)
deriving DecidableEq, Repr

/-- What a line writes. -/
inductive Chunk where
  | insn (t : Text)
  | raw (l : List Byte)
  | skip (n : Nat)
  | ints (w : Nat) (l : List Text)
  | blk4 (l : List Text)
  | blk8 (l : List Text)
  | clamp (l : List Text)
  | pin (l : List Text)
  | launch (l : LaunchText)
  | graph (g : GraphText)
deriving DecidableEq, Repr
/-- A chunk where it stands. -/
structure Item where
  sect : Text
  off : Nat
  chunk : Chunk
deriving DecidableEq, Repr

/-- What kelasm knows while it reads a source: the sections in the order of their first appearance, the section under way, the chunks, the
symbols with the order of their first appearance (R345), and the declarations. -/
structure Pass where
  isa : Bool
  sects : List AsmSect
  cur : Option Text
  items : List Item
  syms : List AsmSym
  order : List Text
  equs : List AsmEqu
  globals : List Text
  externs : List Text
  launch : Option LaunchText
  graph : Option GraphText
  launches : List (LaunchText × Nat)
  graphs : List GraphText
  /-- The index of each pin image, with the section and the offset of the image. -/
  pins : List (Text × Text × Nat)
deriving DecidableEq, Repr
/-- Before the first line. -/
def Pass.start : Pass := ⟨false, [], none, [], [], [], [], [], [], none, none, [], [], []⟩

/-! ### Lines in their parts (R176) -/

/-- A line's label, and what follows it. -/
def labelOf (t : Text) : Option Text × Text :=
  match takeName (skipBlanks t) with
  | some (n, r) => match skipBlanks r with | ':' :: u => (some n, trim u) | _ => (none, trim t)
  | none => (none, trim t)
/-- A directive's word, and its operands. -/
def directiveOf (t : Text) : Text × List Text :=
  (t.takeWhile fun c => !isBlank c, operandsOf (t.dropWhile fun c => !isBlank c))
/-- The lines of a source in their parts, without comments. -/
def partsOf (src : Text) : List (Option Text × Text) := (splitLines src []).map fun l => labelOf (stripComment l)
/-- The operand of a key= operand. -/
def keyOf (k : String) (t : Text) : Option Text :=
  match after k.toList t with
  | some r => match skipBlanks r with | '=' :: v => some (trim v) | _ => none
  | none => none

/-! ### Absolute symbols (R338, R340) -/

/-- The expression that a route stands for: the B word of BIND. -/
def routeExpr (l : List Text) : Option (Text × Expr) :=
  match l with
  | [n, tag, target, chan] =>
    match exprOf tag, exprOf chan, keyOf "clamp" target with
    | .ok t, .ok c, none => some (n, .bin .add t (.bin .shl c (.lit 16)))
    | .ok t, .ok c, some k =>
      match exprOf k with
      | .ok k => some (n, .bin .add (.bin .add t (.bin .shl c (.lit 16))) (.bin .add (.lit (2 ^ 19)) (.bin .shl k (.lit 20))))
      | .error _ => none
    | _, _, _ => none
  | _ => none
/-- The `.equ` or route of a line, before the walk: its `.` points nowhere yet. -/
def equOf (p : Option Text × Text) : Option AsmEqu :=
  let (d, l) := directiveOf p.2
  if isWord d ".equ" then
    match l with
    | [n, e] => match exprOf e with | .ok x => some ⟨n, x, none⟩ | .error _ => none
    | _ => none
  else if isWord d ".route" then (routeExpr l).map fun x => ⟨x.1, x.2, none⟩
  else none
/-- A value of `.`: a section and an offset. -/
def dotVal (d : Option (Text × Nat)) : Asm Val :=
  match d with
  | some (s, o) => .ok ⟨some (.sect s), o⟩
  | none => .error .expression
/-- What a name stands for: an `.equ` stands for its expression, to a depth; every other name for its symbol, if `known` has it. -/
def lookIn (equs : List AsmEqu) (known : Text → Bool) : Nat → Text → Asm Val
  | 0, _ => .error .expression
  | f + 1, n =>
    match equs.find? fun e => e.name == n with
    | some e => evalExpr (lookIn equs known f) (dotVal e.dot) e.expr
    | none => if known n then .ok ⟨some (.sym n), 0⟩ else .error .undefined
/-- The values that sizes depend on: only absolute ones, so no place matters. -/
def sizeEnv (equs : List AsmEqu) : AsmEnv := ⟨lookIn equs (fun _ => true) (equs.length + 1), .error .expression, fun _ => none⟩

/-! ### Sections and symbols -/

/-- A section by its name. -/
def Pass.sectOf (w : Pass) (n : Text) : Option AsmSect := w.sects.find? fun s => s.name == n
/-- The section under way, if its kind is one of these. -/
def Pass.inKind (w : Pass) (l : List Nat) : Asm AsmSect :=
  match w.cur.bind w.sectOf with
  | some s => if l.contains s.kind then .ok s else .error .place
  | none => .error .place
/-- Where `.` points. -/
def Pass.here (w : Pass) : Option (Text × Nat) := (w.cur.bind w.sectOf).map fun s => (s.name, s.size)
/-- A chunk of n bytes at the counter of a section. -/
def Pass.put (w : Pass) (name : Text) (n : Nat) (c : Chunk) : Pass :=
  match w.sectOf name with
  | some s =>
    { w with
      sects := w.sects.map fun x => if x.name == name then { x with size := x.size + n } else x
      items := ⟨name, s.size, c⟩ :: w.items }
  | none => w
/-- The bytes from a counter to the next multiple of n. -/
def padTo (x n : Nat) : Nat := (n - x % n) % n
/-- The NOP that pads CODE (R334). -/
def nopBytes : List Byte := toBytes 12 (wordOf { op := 0x001, gn := 0, gp := 0, hint := 0, d := 0, a := 0, b := 0, m := 0 }).toNat
/-- A counter padded to a multiple of n (R334). -/
def Pass.pad (w : Pass) (name : Text) (n : Nat) : Pass :=
  match w.sectOf name with
  | some s =>
    if s.kind = 1 then
      let k := padTo s.size (Nat.lcm n 12)
      w.put name k (.raw ((List.replicate (k / 12) nopBytes).flatten))
    else
      let k := padTo s.size n
      w.put name k (if fileKinds.contains s.kind then .raw (List.replicate k 0) else .skip k)
  | none => w
/-- A name's first appearance noted. -/
def Pass.appear (w : Pass) (n : Text) : Pass := if w.order.contains n then w else { w with order := w.order ++ [n] }
/-- A symbol defined once (R338): a label under no register's name (R177); an `.equ`, a launch, a graph and a route may bear one (log 78). -/
def Pass.define (w : Pass) (n : Text) (kind size : Nat) (body : SymBody) : Asm Pass := do
  insist (wholeName n == some n && ([1, 7, 8, 9].contains kind || !reservedName n)) .name
  insist (!(w.syms.any fun s => s.name == n) && !w.externs.contains n) .name
  .ok (({ w with syms := w.syms ++ [⟨n, kind, size, body⟩] } : Pass).appear n)
/-- A label, if there is one, defined at the counter of the section under way. -/
def Pass.label (w : Pass) (l : Option Text) (kind size : Nat) : Asm Pass :=
  match l with
  | none => .ok w
  | some n =>
    match w.here with
    | some (s, o) => w.define n kind size (.at s o)
    | none => .error .place
/-- A nameless symbol at the counter of the section under way, for an image whose line has no label (log 78): no name of a source begins with a
full stop. -/
def Pass.nameless (w : Pass) (size : Nat) : Asm Pass :=
  match w.here with
  | some (s, o) =>
    let n := '.' :: (toString w.order.length).toList
    .ok (({ w with syms := w.syms ++ [⟨n, 0, size, .at s o⟩] } : Pass).appear n)
  | none => .error .place
/-- Whether a symbol of the source, or the section's own, stands at the counter of the section under way. -/
def Pass.marked (w : Pass) : Bool :=
  match w.here with
  | some (s, o) => o == 0 || w.syms.any fun x => x.body == .at s o
  | none => true
/-- A section opened, or returned to with the kind and alignment it has (R333): a line sets the flags that it names (log 78). -/
def Pass.enter (w : Pass) (name : Text) (kind align flags : Nat) : Asm Pass :=
  match w.sectOf name with
  | some s =>
    if s.kind = kind ∧ s.align = align then
      .ok { w with cur := some name, sects := w.sects.map fun x => if x.name == name then { x with flags := x.flags ||| flags } else x }
    else .error .place
  | none => .ok { w with cur := some name, sects := w.sects ++ [⟨name, kind, align, flags, 0⟩] }
/-- The flags of a `.section` line. -/
def flagsOf (kind : Nat) : List Text → Asm Nat
  | [] => .ok 0
  | t :: r => do
    insist (kind != 5 && kind != 7 && kind != 8) .place
    let k ← flagsOf kind r
    if isWord t "PINNED" then .ok (k ||| 1) else if isWord t "HS" then .ok (k ||| 2) else .error .directive
/-- `.section name, kind, align` and its flags (R333). -/
def Pass.openSection (w : Pass) (env : AsmEnv) (l : List Text) : Asm Pass :=
  match l with
  | name :: kind :: align :: flags =>
    match sectionKinds.find? fun p => isWord kind p.1 with
    | some (_, k) => do
      insist (wholeName name == some name) .name
      let a ← numberIn env 1 65536 align
      insist (2 ^ Nat.log2 a == a && (k != 1 || a % 4 == 0)) .place
      let f ← flagsOf k flags
      w.enter name k a f
    | none => .error .place
  | _ => .error .directive

/-- A PACKET or GRAPH section counts from its first `.launch` or `.graph` (R345): while it is empty, it moves behind the others. -/
def Pass.count (w : Pass) (name : Text) : Pass :=
  match w.sectOf name with
  | some s => if s.size = 0 then { w with sects := (w.sects.filter fun x => x.name != name) ++ [s] } else w
  | none => w

/-! ### Cells and data (R335 to R337) -/

/-- A cell of a LOCAL section: its bytes, its alignment and its symbol's kind (R337). -/
def cellOf (env : AsmEnv) (d : Text) (l : List Text) : Option (Asm (Nat × Nat × Nat)) :=
  if isWord d ".arrive" then some (if l = [] then .ok (8, 8, 3) else .error .directive)
  else if isWord d ".joinw" then some (if l = [] then .ok (16, 16, 4) else .error .directive)
  else if isWord d ".lacc" then some (if l = [] then .ok (80, 16, 5) else .error .directive)
  else if isWord d ".ringbuf" then some (match l with
    | [s, c] => do
      let s ← numberIn env 1 1023 s
      let c ← numberIn env 1 64 c
      .ok (64 * s * c, 64, 6)
    | _ => .error .directive)
  else if isWord d ".coals" then some (match l with
    | [n] => (numberIn env 1 65536 n).map fun n => (8 * n, 8, 10)
    | _ => .error .directive)
  else if isWord d ".skipmap" then some (match l with
    | [n] => do
      let k ← absoluteOf env n
      insist (decide (0 ≤ k)) .range
      .ok ((k.toNat + 7) / 8, 1, 11)
    | _ => .error .directive)
  else none
/-- The bytes of real numbers in a format: rnes for the 8-bit formats, rne for the others (R335). -/
def realBytes (f : Fmt) (w : Nat) : List Text → Asm (List Byte)
  | [] => .ok []
  | t :: r =>
    match realOf t with
    | some v => (realBytes f w r).map fun l => toBytes w (fround f (w == 1) v) ++ l
    | none => .error .form
/-- The chunk of a data directive, and its size (R335, R336, R341). -/
def dataOf (d : Text) (l : List Text) : Option (Asm (Nat × Nat × Chunk)) :=
  let ints := fun w => some (if l = [] then .error .directive else .ok (1, w * l.length, Chunk.ints w l))
  let reals := fun f w => some (if l = [] then .error .directive else (realBytes f w l).map fun b => (1, b.length, Chunk.raw b))
  if isWord d ".byte" then ints 1
  else if isWord d ".half" then ints 2
  else if isWord d ".word" then ints 4
  else if isWord d ".dword" then ints 8
  else if isWord d ".f32" then reals .f32 4
  else if isWord d ".b16" then reals .b16 2
  else if isWord d ".h16" then reals .h16 2
  else if isWord d ".e4" then reals .e4 1
  else if isWord d ".e5" then reals .e5 1
  else if isWord d ".zblk" then some (if l = [] then .ok (64, 64, .raw (List.replicate 64 0)) else .error .directive)
  else if isWord d ".blk4" then some (.ok (64, 64, .blk4 l))
  else if isWord d ".blk8" then some (.ok (64, 64, .blk8 l))
  else none

/-! ### Launches (R339, R340) -/

/-- The bytes of a packet's own blocks: bindings, then the extension block at a multiple of 64. -/
def PacketText.hasExt (p : PacketText) : Bool := p.glob != [] || p.ring != []
/-- Where a packet's blocks lie, from an offset on: the binding block, the extension block, and the end. -/
def PacketText.blocks (p : PacketText) (x : Nat) : Nat × Nat × Nat :=
  let b := x + padTo x 16
  let y := if p.pw = [] then x else b + 128
  let e := y + padTo y 64
  (b, e, if p.hasExt then e + 64 + 16 * p.ring.length else y)
/-- The packets of a launch, the head first. -/
def LaunchText.packets (l : LaunchText) : List PacketText := l.done ++ [l.packet]
/-- The end of a launch's blocks, which begin at an offset. -/
def blocksEnd : List PacketText → Nat → Nat
  | [], x => x
  | p :: r, x => blocksEnd r (p.blocks x).2.2
/-- The bytes of a launch: its packets, then their blocks. -/
def LaunchText.bytes (l : LaunchText) : Nat := blocksEnd l.packets (64 * l.packets.length)

/-- A line inside a launch declaration, but `.endl`. -/
def LaunchText.line (x : LaunchText) (d : Text) (l : List Text) : Asm LaunchText :=
  let p := x.packet
  if isWord d ".units" then match l with | [a] => .ok { x with packet := { p with units := some a } } | _ => .error .directive
  else if isWord d ".arg" then match l with | [a] => .ok { x with packet := { p with arg := some a } } | _ => .error .directive
  else if isWord d ".astep" then match l with | [a] => .ok { x with packet := { p with astep := some a } } | _ => .error .directive
  else if isWord d ".gang" then match l with | [a] => .ok { x with packet := { p with gang := some a } } | _ => .error .directive
  else if isWord d ".target" then match l with | [a] => .ok { x with packet := { p with target := some a } } | _ => .error .directive
  else if isWord d ".dlen" then match l with | [a] => .ok { x with packet := { p with dlen := some a } } | _ => .error .directive
  else if isWord d ".wdog" then match l with | [a] => .ok { x with packet := { p with wdog := some a } } | _ => .error .directive
  else if isWord d ".wstack" then match l with | [a, b] => .ok { x with packet := { p with wstack := some (a, b) } } | _ => .error .directive
  else if isWord d ".pw" then match l with | [a, b, c] => .ok { x with packet := { p with pw := p.pw ++ [(a, b, c)] } } | _ => .error .directive
  else if isWord d ".glob" then match l with | [a, b] => .ok { x with packet := { p with glob := p.glob ++ [(a, b)] } } | _ => .error .directive
  else if isWord d ".ring" then
    match l with | [a, b, c, e] => .ok { x with packet := { p with ring := p.ring ++ [(a, b, c, e)] } } | _ => .error .directive
  else if isWord d ".sub" then
    match l with
    | [a] => if x.done.length < 3 then .ok { x with done := x.done ++ [p], packet := .start a } else .error .launch
    | _ => .error .directive
  else .error .directive
/-- A route of a launch: an absolute symbol whose value is the B word of BIND. -/
def Pass.route (w : Pass) (x : LaunchText) (l : List Text) : Asm Pass :=
  match l, routeExpr l with
  | [n, tag, target, chan], some (_, e) => do
    let w ← w.define n 9 0 .equ
    .ok { w with equs := w.equs ++ [⟨n, e, w.here⟩], launch := some { x with routes := x.routes ++ [⟨n, tag, target, chan⟩] } }
  | _, _ => .error .directive
/-- A launch's name, defined at its `.launch` line, given its place and its bytes. -/
def Pass.place (w : Pass) (n : Text) (size : Nat) (sect : Text) (off : Nat) : Pass :=
  { w with syms := w.syms.map fun s => if s.name == n then ⟨s.name, s.kind, size, .at sect off⟩ else s }
/-- A launch declaration closed: its bytes go to `lpkt`, and its name is exported. -/
def Pass.closeLaunch (w : Pass) (x : LaunchText) : Asm Pass := do
  let back := w.cur
  let lpkt := "lpkt".toList
  let w ← w.enter lpkt 7 64 0
  let w := w.pad lpkt 64
  let o := ((w.sectOf lpkt).map AsmSect.size).getD 0
  let w := w.place x.name x.bytes lpkt o
  let w := w.put lpkt x.bytes (.launch x)
  .ok { w with cur := back, launch := none, launches := w.launches ++ [(x, o)] }

/-! ### Graphs (R342) -/

/-- The operands of a node line: those before the successors, and the successors. -/
def nodeOperands : List Text → NodeText → Asm NodeText
  | [], n => .ok n
  | t :: r, n =>
    match keyOf "next" t, keyOf "taken" t with
    | some v, _ => if n.next = none then nodeOperands r { n with next := some v } else .error .directive
    | none, some v => if n.taken = none then nodeOperands r { n with taken := some v } else .error .directive
    | none, none => if n.next = none ∧ n.taken = none then nodeOperands r { n with args := n.args ++ [t] } else .error .directive
/-- A node line. -/
def nodeOf (l : List Text) : Asm NodeText :=
  match l with
  | [] => .error .directive
  | k :: r => do
    let shape := fun (kind args : Nat) (next taken : Bool) => do
      let n ← nodeOperands r ⟨kind, [], none, none⟩
      insist (n.args.length == args && (next || n.next == none) && n.taken.isSome == taken) .directive
      .ok n
    if isWord k "LAUNCH" then shape 1 2 true false
    else if isWord k "COND" then shape 2 1 true true
    else if isWord k "WHILE" then shape 3 2 true true
    else if isWord k "JOINALL" then shape 4 0 true false
    else if isWord k "END" then shape 5 0 false false
    else .error .directive
/-- The GRAPH section under way, or a section `graph` of its own opened. -/
def Pass.graphSection (w : Pass) : Asm Pass :=
  match w.inKind [8] with
  | .ok _ => .ok w
  | .error _ => w.enter "graph".toList 8 32 0
/-- A graph opened in the GRAPH section under way, or in a section `graph` of its own. -/
def Pass.openGraph (w : Pass) (l : List Text) : Asm Pass :=
  match l with
  | [n, walker] => do
    let back := w.cur
    let w ← w.graphSection
    let s : AsmSect ← w.inKind [8]
    insist (s.align % 32 == 0) .place
    let w := (w.count s.name).pad s.name 32
    let o := ((w.sectOf s.name).map AsmSect.size).getD 0
    let w ← w.define n 8 0 (.at s.name o)
    .ok { w with cur := back, globals := w.globals ++ [n], graph := some ⟨n, walker, s.name, [], []⟩ }
  | _ => .error .directive
/-- A line inside a graph. -/
def Pass.graphLine (w : Pass) (g : GraphText) (lab : Option Text) (d : Text) (l : List Text) : Asm Pass :=
  if isWord d ".node" then do
    let n ← nodeOf l
    let o := ((w.sectOf g.sect).map AsmSect.size).getD 0
    let w ← match lab with
      | some x => w.define x 0 0 (.at g.sect (o + 32 * g.nodes.length))
      | none => .ok w
    .ok { w with graph := some { g with nodes := g.nodes ++ [n], labels := g.labels ++ (lab.toList.map fun x => (x, g.nodes.length)) } }
  else if isWord d ".endg" then do
    insist (lab == none && l == [] && g.nodes != [] && decide (g.nodes.length ≤ 65536)) .graph
    let w := w.put g.sect (32 * g.nodes.length) (.graph g)
    .ok { w with graph := none, graphs := w.graphs ++ [g] }
  else if d = [] ∧ lab = none then .ok w
  else .error .graph

/-! ### One line -/

/-- A line that declares names. -/
def Pass.names (w : Pass) (isGlobal : Bool) : List Text → Asm Pass
  | [] => .ok w
  | n :: r => do
    insist (wholeName n == some n) .name
    if isGlobal then (({ w with globals := w.globals ++ [n] } : Pass).appear n).names true r
    else
      insist (!(w.syms.any fun s => s.name == n && s.body != .extern)) .name
      (if w.externs.contains n then w
        else ({ w with externs := w.externs ++ [n], syms := w.syms ++ [⟨n, 0, 0, .extern⟩] } : Pass).appear n).names false r
/-- A directive outside launches and graphs. -/
def Pass.directive (w : Pass) (env : AsmEnv) (lab : Option Text) (d : Text) (l : List Text) : Asm Pass :=
  if isWord d ".isa" then
    match l with
    | [v] => if takeNumber v = some (2, []) then w.label lab 0 0 else .error .isa
    | _ => .error .isa
  else if isWord d ".section" then do (← w.openSection env l).label lab 0 0
  else if isWord d ".equ" then
    match l with
    | [n, e] => do
      let x ← exprOf e
      let w ← w.label lab 0 0
      let w ← w.define n 1 0 .equ
      .ok { w with equs := w.equs ++ [⟨n, x, w.here⟩] }
    | _ => .error .directive
  else if isWord d ".global" then do
    insist (l != []) .directive
    (← w.label lab 0 0).names true l
  else if isWord d ".extern" then do
    insist (l != []) .directive
    (← w.label lab 0 0).names false l
  else if isWord d ".align" then
    match l with
    | [n] => do
      let s : AsmSect ← w.inKind [1, 2, 3, 4, 5, 6]
      let k ← absoluteOf env n
      insist (decide (1 ≤ k) && (s.kind != 1 || k % 4 == 0)) .range
      .ok ((← w.label lab 0 0).pad s.name k.toNat)
    | _ => .error .directive
  else if isWord d ".zero" then
    match l with
    | [n] => do
      let s ← w.inKind [2, 3, 4, 5, 6]
      let k ← absoluteOf env n
      insist (decide (0 ≤ k)) .range
      .ok ((← w.label lab 0 0).put s.name k.toNat (if fileKinds.contains s.kind then .raw (List.replicate k.toNat 0) else .skip k.toNat))
    | _ => .error .directive
  else if isWord d ".clamp" then do
    let s ← w.inKind dataKinds
    insist (s.size % 8 == 0) .counter
    let w ← if lab.isNone then w.nameless 32 else w.label lab 0 32
    .ok (w.put s.name 32 (.clamp l))
  else if isWord d ".pin" then do
    let s ← w.inKind [2, 3]
    insist (s.size % 32 == 0) .counter
    let w ← if lab.isNone && !w.marked then w.nameless 0 else w.label lab 0 0
    .ok { w.put s.name 32 (.pin l) with pins := w.pins ++ [(l.headD [], s.name, s.size)] }
  else if isWord d ".launch" then
    match l with
    | [n, e] => do
      let w ← w.label lab 0 0
      let back := w.cur
      -- lpkt counts from this line, though its bytes follow at .endl
      let w ← w.enter "lpkt".toList 7 64 0
      let w ← (w.count "lpkt".toList).define n 7 0 (.at "lpkt".toList 0)
      .ok { w with cur := back, globals := w.globals ++ [n], launch := some ⟨n, [], .start e, []⟩ }
    | _ => .error .directive
  else
    match cellOf env d l, dataOf d l with
    | some c, _ => do
      let (n, a, kind) ← c
      let s ← w.inKind [5]
      .ok ((← (w.pad s.name a).label lab kind n).put s.name n (.skip n))
    | none, some c => do
      let (a, n, chunk) ← c
      let s ← w.inKind dataKinds
      insist (s.size % a == 0) .counter
      .ok ((← w.label lab 0 (if a = 64 then 64 else 0)).put s.name n chunk)
    | none, none => .error .directive
/-- One line in its parts. -/
def Pass.line (w : Pass) (equs : List AsmEqu) (p : Option Text × Text) : Asm Pass :=
  if p.1 = none ∧ p.2 = [] then .ok w
  else
    let (d, l) := directiveOf p.2
    if w.isa = false then
      match l with
      | [v] => if p.1 = none ∧ isWord d ".isa" = true ∧ takeNumber v = some (2, []) then .ok { w with isa := true } else .error .isa
      | _ => .error .isa
    else
      match w.launch, w.graph with
      | some x, _ =>
        if p.1.isSome then .error .launch
        else if isWord d ".endl" then (if l = [] then w.closeLaunch x else .error .directive)
        else if isWord d ".route" then w.route x l
        else (x.line d l).map fun y => { w with launch := some y }
      | none, some g => w.graphLine g p.1 d l
      | none, none =>
        match p.2 with
        | [] => w.label p.1 0 0
        | '.' :: _ =>
          if isWord d ".graph" then do (← w.label p.1 0 0).openGraph l
          else w.directive (sizeEnv equs) p.1 d l
        | _ => do
          let s ← w.inKind [1]
          .ok ((← w.label p.1 0 0).put s.name 12 (.insn p.2))
/-- All lines, in order. -/
def Pass.lines (equs : List AsmEqu) : List (Option Text × Text) → Pass → Asm Pass
  | [], w => .ok w
  | p :: r, w => do lines equs r (← w.line equs p)
/-- A source walked: every line holds ASCII text of at most 1,023 characters, and every declaration is closed (R331). -/
def walkSource (src : Text) : Asm Pass := do
  insist ((splitLines src []).all lineOk) .text
  let l := partsOf src
  let w ← Pass.lines (l.filterMap equOf) l .start
  insist w.isa .isa
  insist (w.launch == none) .launch
  insist (w.graph == none) .graph
  .ok w

end Sys2Proof.Machine
end

