-- ==== Sys2Proof/Machine/AsmEmit.lean ====
section
/-!
DEFINITION. Sys2Proof/Machine/AsmEmit.lean: the bytes of kelasm's lines and the relocations they leave (spec/16 R335, R336, R339 to R342),
with every symbol known.
-/
namespace Sys2Proof.Machine

/-- What an item writes: its bytes, and its relocations. -/
abbrev Emitted := List Byte × List Reloc

/-- The values of a source after its walk; `.` stands at a place. -/
def Pass.env (w : Pass) (dot : Option (Text × Nat)) : AsmEnv :=
  ⟨lookIn w.equs (fun n => w.syms.any fun s => s.name == n) (w.equs.length + 1), dotVal dot, fun n =>
    match (w.syms.find? fun s => s.name == n).map AsmSym.body with
    | some (.at s o) => some (s, o)
    | _ => none⟩
/-- Where a value lies as far as kelasm knows it: absolute, or in a section of the file. -/
def knownPlace (env : AsmEnv) (v : Val) : Option (Option Text × Int) :=
  match v.base with
  | none => some (none, v.off)
  | some (.sect s) => some (some s, v.off)
  | some (.sym n) => (env.place n).map fun p => (some p.1, p.2 + v.off)
/-- Whether a value is known to be no multiple of n: absolute ones, and places of sections that are themselves aligned to n. -/
def Pass.offGrid (w : Pass) (env : AsmEnv) (n : Nat) (v : Val) : Bool :=
  match knownPlace env v with
  | some (none, x) => x % n != 0
  | some (some s, x) => (w.sectOf s).any fun q => q.align % n == 0 && x % n != 0
  | none => false

/-! ### Records of bit fields -/

/-- A record under way: its bits, and its relocations. -/
structure Draw where
  off : Nat
  bits : Nat
  relocs : List Reloc
deriving DecidableEq, Repr
/-- A value put into a field: an absolute one must fit, a relocatable one is left to kelink as FIELD (R346). -/
def Draw.put (r : Draw) (lo width : Nat) (v : Val) : Asm Draw :=
  match v.base with
  | some b => .ok { r with relocs := r.relocs ++ [⟨r.off, 1, width, lo, b, v.off⟩] }
  | none =>
    if width = 64 then .ok { r with bits := r.bits + 2 ^ lo * wrap 64 v.off }
    else if 0 ≤ v.off ∧ v.off < 2 ^ width then .ok { r with bits := r.bits + 2 ^ lo * v.off.toNat }
    else .error .range
/-- A written value put into a field. -/
def Draw.expr (r : Draw) (env : AsmEnv) (lo width : Nat) (t : Text) : Asm Draw := do r.put lo width (← valueOf env t)
/-- A written value that may be absent: 0. -/
def Draw.exprOr (r : Draw) (env : AsmEnv) (lo width : Nat) (t : Option Text) : Asm Draw :=
  match t with
  | some t => r.expr env lo width t
  | none => .ok r
/-- A record's bytes. -/
def Draw.done (r : Draw) (n : Nat) : Emitted := (toBytes n r.bits, r.relocs)
/-- Two pieces one after the other. -/
def joined (a b : Emitted) : Emitted := (a.1 ++ b.1, a.2 ++ b.2)

/-! ### Data (R335, R336) -/

/-- Integers of w bytes: a relocatable one only at 8 bytes. -/
def emitInts (env : AsmEnv) (w : Nat) : List Text → Nat → Asm Emitted
  | [], _ => .ok ([], [])
  | t :: r, off => do
    let v ← valueOf env t
    let rest ← emitInts env w r (off + w)
    match v.base with
    | some b => if w = 8 then .ok (joined (List.replicate 8 0, [⟨off, 1, 64, 0, b, v.off⟩]) rest) else .error .expression
    | none =>
      if -(2 ^ (8 * w - 1)) ≤ v.off ∧ v.off < 2 ^ (8 * w) then .ok (joined (toBytes w (wrap (8 * w) v.off), []) rest) else .error .range
/-- Numbers of a width, each in a range, from a bit on. -/
def packNumbers (env : AsmEnv) (lo hi : Int) (w : Nat) : List Text → Asm Nat
  | [] => .ok 0
  | t :: r => do
    let x ← absoluteOf env t
    insist (decide (lo ≤ x) && decide (x ≤ hi)) .range
    .ok (wrap w x + 2 ^ w * (← packNumbers env lo hi w r))
/-- Real numbers as bytes of an 8-bit format. -/
def packReals (f : Fmt) : List Text → Asm Nat
  | [] => .ok 0
  | t :: r =>
    match realOf t with
    | some v => do
      insist v.isReal .range
      .ok (fround f true v + 2 ^ 8 * (← packReals f r))
    | none => .error .form
/-- `.blk4` (R103, R336): the codes not written stand for zero. -/
def emitBlk4 (env : AsmEnv) (l : List Text) : Asm Emitted :=
  match l with
  | fmt :: scale :: r => do
    let q := isWord fmt "Q4"
    insist (q || isWord fmt "F4") .range
    insist (decide (5 ≤ r.length) && decide (r.length ≤ 125)) .range
    let s ← numberIn env 0 255 scale
    let a ← packNumbers env 0 7 3 (r.take 5)
    let codes := (r.drop 5) ++ List.replicate (125 - r.length) (if q then ['7'] else ['0'])
    let c ← packNumbers env 0 15 4 codes
    .ok (toBytes 64 ((if q then 0x10 else 0x11) + 2 ^ 8 * s + 2 ^ 16 * a + 2 ^ 32 * c), [])
  | _ => .error .directive
/-- `.blk8` (R104, R336). -/
def emitBlk8 (env : AsmEnv) (l : List Text) : Asm Emitted :=
  match l with
  | fmt :: scale :: r => do
    insist (decide (r.length ≤ 62)) .range
    let s ← numberIn env 0 255 scale
    let done := fun (code e : Nat) => (.ok (toBytes 64 (code + 2 ^ 8 * s + 2 ^ 16 * e), []) : Asm Emitted)
    if isWord fmt "E4" then done 0x20 (← packReals .e4 r)
    else if isWord fmt "E5" then done 0x21 (← packReals .e5 r)
    else if isWord fmt "I8" then done 0x22 (← packNumbers env (-128) 127 8 r)
    else .error .range
  | _ => .error .directive

/-! ### Images (R341) -/

/-- `.clamp`: the declaration block of R269. -/
def emitClamp (env : AsmEnv) (off : Nat) (l : List Text) : Asm Emitted :=
  match l with
  | [handler, count, esize, ebase, cbase, sbase, auto, rlimit] => do
    let n ← numberIn env 1 65536 count
    let e ← numberIn env 1 8 esize
    insist (2 ^ Nat.log2 e == e) .range
    let a ← numberIn env 0 1 auto
    let m ← numberIn env 0 255 rlimit
    let r : Draw := ⟨off, 2 ^ 128 * (n - 1) + 2 ^ 144 * Nat.log2 e + 2 ^ 146 * a + 2 ^ 147 * m, []⟩
    let r ← r.expr env 0 56 handler
    let r ← r.expr env 64 19 ebase
    let r ← r.expr env 83 19 cbase
    let r ← r.expr env 102 19 sbase
    .ok (r.done 32)
  | _ => .error .directive
/-- `.pin`: the image that PINSET reads (R141), with VALID 0. -/
def emitPin (env : AsmEnv) (off : Nat) (l : List Text) : Asm Emitted :=
  match l with
  | [idx, cbase, clen, dbase, dlen, rec, entry] => do
    let _ ← numberIn env 1 7 idx
    let r : Draw := ⟨off, 0, []⟩
    let r ← r.expr env 200 56 cbase
    let r ← r.expr env 176 24 clen
    let r ← r.expr env 157 19 dbase
    let r ← r.expr env 143 14 dlen
    let r ← r.expr env 124 19 rec
    let r ← r.expr env 68 56 entry
    .ok (r.done 32)
  | _ => .error .directive

/-! ### Launches (R307, R308, R339) -/

/-- A written number that may be absent. -/
def numberOr (env : AsmEnv) (lo hi : Int) (d : Nat) (t : Option Text) : Asm Nat :=
  match t with
  | some t => numberIn env lo hi t
  | none => .ok d
/-- TARGET: 0 to 4, or ANY. -/
def targetCode (env : AsmEnv) (t : Option Text) : Asm Nat :=
  match t with
  | none => .ok 7
  | some t =>
    if isWord t "ANY" then .ok 7
    else do
      let x ← numberIn env 0 7 t
      if x = 5 ∨ x = 6 then .error .launch else .ok x
/-- GANG from G. -/
def gangCode (env : AsmEnv) (t : Option Text) : Asm Nat :=
  match t with
  | none => .ok 0
  | some t => do
    let g ← numberIn env 2 8 t
    if g = 2 then .ok 1 else if g = 4 then .ok 2 else if g = 8 then .ok 3 else .error .launch
/-- The window stack area: base a multiple of 8 and end not below base, as far as they are known (R308). -/
def Pass.checkWstack (w : Pass) (env : AsmEnv) (s : Option (Text × Text)) : Asm Unit :=
  match s with
  | none => .ok ()
  | some (a, b) => do
    let x ← valueOf env a
    let y ← valueOf env b
    insist (!w.offGrid env 8 x) .launch
    match knownPlace env x, knownPlace env y with
    | some (p, i), some (q, j) => insist (p != q || decide (i ≤ j)) .launch
    | _, _ => .ok ()
/-- The 64 bytes of a packet (R307); its blocks lie at these offsets of `lpkt`. -/
def Pass.emitPacket (w : Pass) (env : AsmEnv) (p : PacketText) (off pwb xblk link target : Nat) : Asm Emitted := do
  let lpkt := Base.sect "lpkt".toList
  let units ← numberOr env 1 (2 ^ 24 - 1) 1 p.units
  let gang ← gangCode env p.gang
  insist (units % 2 ^ gang == 0) .launch
  let astep ← numberOr env 0 65535 0 p.astep
  let dlen ← numberOr env 0 65535 0 p.dlen
  let wdog ← numberOr env 10 32 0 p.wdog
  insist (decide (p.ring.length ≤ 16)) .launch
  w.checkWstack env p.wstack
  let r : Draw := ⟨off, 1 + 2 ^ 155 * link + 2 ^ 157 * target + 2 ^ 160 * gang + 2 ^ 163 * p.ring.length + 2 ^ 168 * wdog + 2 ^ 176 * dlen
    + 2 ^ 192 * units + 2 ^ 376 * astep, []⟩
  let r ← r.expr env 456 56 p.entry
  let r ← r.exprOr env 392 64 p.arg
  let r ← if p.pw = [] then .ok r else r.put 320 56 ⟨some lpkt, pwb⟩
  let r ← if p.hasExt then r.put 264 56 ⟨some lpkt, xblk⟩ else .ok r
  let r ← r.exprOr env 240 24 (p.wstack.map Prod.fst)
  let r ← r.exprOr env 216 24 (p.wstack.map Prod.snd)
  .ok (r.done 64)
/-- Whether an address lies in the global or the ember SRAM window (R135). -/
def bindable (x : Int) : Bool :=
  let v := windowOf (wrap 64 x)
  v == some .global || v == some .ember
/-- The binding of window i: the last line that names it (R135). -/
def Pass.emitBinding (w : Pass) (env : AsmEnv) (l : List (Nat × Text × Text)) (i off : Nat) : Asm Emitted :=
  match l.reverse.find? fun p => p.1 == i with
  | none => .ok (List.replicate 16 0, [])
  | some (_, base, size) => do
    let b ← valueOf env base
    insist (!w.offGrid env 8 b) .launch
    insist (b.base.isSome || bindable b.off) .launch
    let r : Draw := ⟨off, 1, []⟩
    let r ← r.put 64 64 b
    let r ← r.expr env 32 32 size
    .ok (r.done 16)
/-- Pieces of equal size at rising offsets, by number. -/
def emitSeries (n off step : Nat) (f : Nat → Nat → Asm Emitted) : Asm Emitted :=
  match n with
  | 0 => .ok ([], [])
  | k + 1 => do
    let a ← emitSeries k off step f
    .ok (joined a (← f k (off + step * k)))
/-- The words of the extension block before its rings: g1 to g7, the last line that names each. -/
def emitGlob (env : AsmEnv) (l : List (Text × Text)) (k off : Nat) : Asm Emitted :=
  match l.reverse.find? fun p => registerOperand p.1 == some (mkOp 0x2 (BitVec.ofNat 14 k)) with
  | some (_, e) => do
    let r : Draw := ⟨off, 0, []⟩
    let r ← r.expr env 0 64 e
    .ok (r.done 8)
  | none => .ok (List.replicate 8 0, [])
/-- A ring's entry (R133): its moving fields are written 0. -/
def emitRing (env : AsmEnv) (l : List (Nat × Text × Text × Text)) (i off : Nat) : Asm Emitted :=
  match l.filter fun p => p.1 == i with
  | [(_, base, ssize, count)] => do
    let s ← numberIn env 1 1023 ssize
    let c ← numberIn env 1 64 count
    let b ← valueOf env base
    insist (b.base.isSome || decide (b.off + 64 * s * c ≤ 0x80000)) .launch
    let r : Draw := ⟨off, 2 ^ 107 * s + 2 ^ 117 * c, []⟩
    let r ← r.put 88 19 b
    .ok (r.done 16)
  | _ => .error .launch
/-- Whether a `.glob` line names g1 to g7. -/
def globOk (p : Text × Text) : Bool :=
  match registerOperand p.1 with
  | some x => opKind x == 2 && opPay x != 0
  | none => false
/-- The blocks of a packet: bindings and extension, from an offset on. -/
def Pass.emitBlocks (w : Pass) (env : AsmEnv) (p : PacketText) (x : Nat) : Asm Emitted := do
  let (b, e, _) := p.blocks x
  let pw ← p.pw.mapM fun (i, base, size) => (numberIn env 0 7 i).map fun k => (k, base, size)
  let ring ← p.ring.mapM fun (i, base, s, c) => (numberIn env 0 15 i).map fun k => (k, base, s, c)
  insist (p.glob.all globOk) .launch
  let one ← if p.pw = [] then .ok ([], []) else (emitSeries 8 b 16 (w.emitBinding env pw)).map fun y => (List.replicate (b - x) 0 ++ y.1, y.2)
  let two ←
    if p.hasExt then do
      let g ← emitSeries 7 (e + 8) 8 fun k o => emitGlob env p.glob (k + 1) o
      let r ← emitSeries p.ring.length (e + 64) 16 (emitRing env ring)
      .ok (joined (joined (List.replicate (e - (x + one.1.length)) 0 ++ List.replicate 8 0, []) g) r)
    else .ok ([], [])
  .ok (joined one two)
/-- The packets of a launch: the head carries LINK. -/
def Pass.emitPackets (w : Pass) (env : AsmEnv) (target : Nat) : List PacketText → Nat → Nat → Nat → Asm Emitted
  | [], _, _, _ => .ok ([], [])
  | p :: r, off, x, link => do
    let (b, e, z) := p.blocks x
    insist (p.target.isNone || decide (targetCode env p.target = .ok target)) .launch
    let a ← w.emitPacket env p off b e link target
    .ok (joined a (← w.emitPackets env target r (off + 64) z 0))
/-- The blocks of the packets of a launch, in their order. -/
def Pass.emitAllBlocks (w : Pass) (env : AsmEnv) : List PacketText → Nat → Asm Emitted
  | [], _ => .ok ([], [])
  | p :: r, x => do
    let a ← w.emitBlocks env p x
    .ok (joined a (← w.emitAllBlocks env r (p.blocks x).2.2))
/-- The routes of a launch (R340): the ranges, a code symbol or a clamp as target, and no tag twice. -/
def Pass.checkRoutes (w : Pass) (env : AsmEnv) : List RouteText → List Nat → Asm Unit
  | [], _ => .ok ()
  | r :: rest, seen => do
    let tag ← numberIn env 0 65535 r.tag
    let _ ← numberIn env 0 7 r.chan
    insist (!seen.contains tag) .launch
    match keyOf "clamp" r.target with
    | some c => do let _ ← numberIn env 0 3 c
    | none => do
      let v ← valueOf env r.target
      match v.base with
      | some (.sym n) =>
        let code := match env.place n with
          | some (s, _) => (w.sectOf s).any fun q => q.kind == 1
          | none => true
        insist (v.off == 0 && code) .launch
      | _ => .error .launch
    w.checkRoutes env rest (tag :: seen)
/-- A launch at an offset of `lpkt`: the packets, contiguous, then their blocks; every packet takes the head's TARGET. -/
def Pass.emitLaunch (w : Pass) (env : AsmEnv) (l : LaunchText) (off : Nat) : Asm Emitted := do
  let ps := l.packets
  let x := off + 64 * ps.length
  let target ← targetCode env (ps.head?.bind PacketText.target)
  w.checkRoutes env l.routes []
  let a ← w.emitPackets env target ps off x (ps.length - 1)
  .ok (joined a (← w.emitAllBlocks env ps x))

/-! ### Graphs (R143, R342) -/

/-- The index of a successor: a label of the same graph, or the node that follows. -/
def GraphText.index (g : GraphText) (i : Nat) (t : Option Text) : Asm Nat :=
  match t with
  | some n =>
    match g.labels.find? fun p => p.1 == n with
    | some p => .ok p.2
    | none => .error .graph
  | none => if i + 1 < g.nodes.length then .ok (i + 1) else .error .graph
/-- The 32 bytes of node i. -/
def Pass.emitNode (w : Pass) (env : AsmEnv) (g : GraphText) (i : Nat) (n : NodeText) (off : Nat) : Asm Emitted := do
  let next ← if n.kind = 5 then .ok 0 else g.index i n.next
  let taken ← if n.taken.isSome then g.index i n.taken else .ok 0
  let die ← if n.kind = 1 then numberIn env 0 4 (n.args.getD 1 []) else .ok 0
  let cap ← if n.kind = 3 then numberIn env 0 (2 ^ 32 - 1) (n.args.getD 1 []) else .ok 0
  let r : Draw := ⟨off, n.kind + 2 ^ 8 * die + 2 ^ 16 * next + 2 ^ 32 * taken + 2 ^ 128 * cap, []⟩
  if n.kind ≤ 3 then do
    let v ← valueOf env (n.args.headD [])
    insist (n.kind == 1 || !w.offGrid env 4 v) .graph
    .ok ((← r.put 64 64 v).done 32)
  else .ok (r.done 32)
/-- The nodes of a graph. -/
def Pass.emitNodes (w : Pass) (g : GraphText) : List NodeText → Nat → Nat → Asm Emitted
  | [], _, _ => .ok ([], [])
  | n :: r, i, off => do
    let a ← w.emitNode (w.env (some (g.sect, off))) g i n off
    .ok (joined a (← w.emitNodes g r (i + 1) (off + 32)))

/-! ### Items -/

/-- What an item writes. -/
def Pass.emit (w : Pass) (i : Item) : Asm Emitted :=
  let env := w.env (some (i.sect, i.off))
  match i.chunk with
  | .insn t => do
    let (x, r) ← assembleInsn env i.sect i.off t
    .ok (toBytes 12 x.toNat, r)
  | .raw l => .ok (l, [])
  | .skip _ => .ok ([], [])
  | .ints n l => emitInts env n l i.off
  | .blk4 l => emitBlk4 env l
  | .blk8 l => emitBlk8 env l
  | .clamp l => emitClamp env i.off l
  | .pin l => emitPin env i.off l
  | .launch l => w.emitLaunch env l i.off
  | .graph g => do
    let _ ← numberIn env 0 4 g.walker
    w.emitNodes g g.nodes 0 i.off
/-- The bytes and relocations of a section, from its items in order. -/
def Pass.emitAll (w : Pass) (name : Text) : List Item → Asm Emitted
  | [] => .ok ([], [])
  | i :: r =>
    if i.sect == name then do
      let a ← w.emit i
      .ok (joined a (← w.emitAll name r))
    else w.emitAll name r

end Sys2Proof.Machine
end

