-- ==== Sys2Proof/Machine/Kof.lean ====
section
/-!
DEFINITION. Sys2Proof/Machine/Kof.lean: the Kelumel object format (spec/16 R343 to R347): its header, its entries and its tables, written to
bytes and read from bytes.
-/
namespace Sys2Proof.Machine

/-- A section of an object or image (R344); ALIGN is log2 of the alignment, and ZERO and LOCAL sections hold no bytes. -/
structure KofSect where
  name : Text
  kind : Nat
  flags : Nat
  align : Nat
  info : Nat
  addr : Nat
  size : Nat
  data : List Byte
deriving DecidableEq, Repr
/-- A symbol (R345). -/
structure KofSym where
  name : Text
  kind : Nat
  bind : Nat
  sect : Nat
  size : Nat
  value : Nat
deriving DecidableEq, Repr
/-- An object (FILEKIND 1) or a linked image (FILEKIND 2), with its null section and its null symbol left out. -/
structure Kof where
  fileKind : Nat
  level : Nat
  sects : List KofSect
  syms : List KofSym
deriving DecidableEq, Repr
/-- A relocation (R346). -/
structure KofReloc where
  off : Nat
  sym : Nat
  kind : Nat
  width : Nat
  lo : Nat
  addend : Int
deriving DecidableEq, Repr

/-- The kinds that hold no bytes in the file, and those whose bytes are padded to their alignment (R333, R344). -/
def bareKinds : List Nat := [4, 5]
def paddedKinds : List Nat := [1, 2, 3, 6, 7, 8]
/-- Section and symbol by number: 0 is the null one. -/
def Kof.sect (k : Kof) (i : Nat) : Option KofSect := if i = 0 then none else k.sects[i - 1]?
def Kof.sym (k : Kof) (i : Nat) : Option KofSym := if i = 0 then none else k.syms[i - 1]?

/-! ### Relocations and tables (R346, R347) -/

/-- A relocation as its 24 bytes. -/
def KofReloc.bytes (r : KofReloc) : List Byte :=
  toBytes 24 (r.off % 2 ^ 32 + 2 ^ 32 * (r.sym % 2 ^ 32) + 2 ^ 64 * (r.kind % 2 ^ 8) + 2 ^ 72 * (r.width % 2 ^ 8) + 2 ^ 80 * (r.lo % 2 ^ 16)
    + 2 ^ 128 * wrap 64 r.addend)
/-- The relocation that 24 bytes hold. -/
def relocOf (b : List Byte) : KofReloc :=
  let x := ofBytes b
  ⟨field x 0 32, field x 32 32, field x 64 8, field x 72 8, field x 80 16, signedOf 64 (field x 128 64)⟩
/-- Bytes cut into entries of n bytes, to a number of entries. -/
def entriesOf (n : Nat) : Nat → List Byte → List (List Byte)
  | 0, _ => []
  | k + 1, b => if b = [] then [] else b.take n :: entriesOf n k (b.drop n)
/-- The relocations of a RELOC section. -/
def KofSect.relocs (s : KofSect) : List KofReloc := (entriesOf 24 (s.data.length / 24) s.data).map relocOf
/-- The 16-byte entries of a table. -/
def KofSect.table (s : KofSect) : List Nat := (entriesOf 16 (s.data.length / 16) s.data).map ofBytes
/-- An entry of LTAB: launch symbol, offset of the head packet, packets. -/
def ltabEntry (sym off n : Nat) : List Byte := toBytes 16 (sym + 2 ^ 32 * off + 2 ^ 64 * n)
/-- An entry of RTAB: the B word of BIND in its low bits, launch symbol, handler symbol. -/
def rtabEntry (word launch handler : Nat) : List Byte := toBytes 16 (word + 2 ^ 32 * launch + 2 ^ 64 * handler)
/-- An entry of PTAB: the pin index, the image's symbol. -/
def ptabEntry (idx sym : Nat) : List Byte := toBytes 16 (idx + 2 ^ 32 * sym)
/-- An entry of GTAB: the graph's symbol, its nodes, its walker. -/
def gtabEntry (sym nodes walker : Nat) : List Byte := toBytes 16 (sym + 2 ^ 32 * nodes + 2 ^ 49 * walker)

/-! ### Writing a file (R343 to R345) -/

/-- Zero bytes up to the next multiple of n. -/
def zerosTo (x n : Nat) : List Byte := List.replicate ((n - x % n) % n) 0
/-- The sections' bytes from a file offset on, with the FOFF of each. -/
def layOut : List KofSect → Nat → List Nat × List Byte
  | [], _ => ([], [])
  | s :: r, x =>
    if bareKinds.contains s.kind then
      let (f, b) := layOut r x
      (0 :: f, b)
    else
      let n := if paddedKinds.contains s.kind then 2 ^ s.align else 8
      let p := zerosTo x n
      let y := x + p.length
      let q := zerosTo s.data.length n
      let (f, b) := layOut r (y + s.data.length + q.length)
      (y :: f, p ++ s.data ++ q ++ b)
/-- A string table: each name ended by a zero byte, with the offset of each from x on; the nameless take offset 0. -/
def stringsOf : List Text → Nat → List Nat × List Byte
  | [], _ => ([], [])
  | [] :: r, x =>
    let (o, b) := stringsOf r x
    (0 :: o, b)
  | t :: r, x =>
    let (o, b) := stringsOf r (x + t.length + 1)
    (x :: o, (t.map fun c => BitVec.ofNat 8 c.toNat) ++ 0 :: b)
/-- A section's entry. -/
def KofSect.entry (s : KofSect) (foff name : Nat) : List Byte :=
  toBytes 48 (s.kind + 2 ^ 8 * s.flags + 2 ^ 16 * s.align + 2 ^ 128 * s.info + 2 ^ 160 * name + 2 ^ 192 * foff + 2 ^ 256 * s.size
    + 2 ^ 320 * s.addr)
/-- A symbol's entry. -/
def KofSym.entry (s : KofSym) (name : Nat) : List Byte :=
  toBytes 24 (s.kind + 2 ^ 8 * s.bind + 2 ^ 32 * s.sect + 2 ^ 64 * name + 2 ^ 96 * (s.size % 2 ^ 32) + 2 ^ 128 * s.value)
/-- The bytes of a file: the header, the sections, the section table, the symbol table and the strings (log 75). -/
def Kof.bytes (k : Kof) : List Byte :=
  let (foff, body) := layOut k.sects 64
  let pad := zerosTo (64 + body.length) 8
  let so := 64 + body.length + pad.length
  let yo := so + 48 * (k.sects.length + 1)
  let tro := yo + 24 * (k.syms.length + 1)
  let (n1, b1) := stringsOf (k.sects.map KofSect.name) 1
  let (n2, b2) := stringsOf (k.syms.map KofSym.name) (1 + b1.length)
  let strings := (0 : Byte) :: b1 ++ b2
  toBytes 64 (0x30464F4B + 2 ^ 32 * 1 + 2 ^ 48 * k.level + 2 ^ 56 * k.fileKind + 2 ^ 64 * (k.sects.length + 1) + 2 ^ 96 * so
      + 2 ^ 128 * (k.syms.length + 1) + 2 ^ 160 * yo + 2 ^ 192 * tro + 2 ^ 224 * strings.length)
    ++ body ++ pad
    ++ List.replicate 48 0 ++ (List.zipWith (fun s (x : Nat × Nat) => s.entry x.1 x.2) k.sects (foff.zip n1)).flatten
    ++ List.replicate 24 0 ++ (List.zipWith KofSym.entry k.syms n2).flatten
    ++ strings

/-! ### Reading a file -/

/-- n bytes of a file at an offset. -/
def slice (b : List Byte) (off n : Nat) : Option (List Byte) := if off + n ≤ b.length then some ((b.drop off).take n) else none
/-- The name at an offset of the string table. -/
def nameAt (strings : List Byte) (off : Nat) : Text := ((strings.drop off).takeWhile (· != 0)).map fun x => Char.ofNat x.toNat
/-- The section of an entry. -/
def sectOfEntry (b strings : List Byte) (x : Nat) : Option KofSect :=
  let kind := field x 0 8
  let size := field x 256 64
  (if bareKinds.contains kind then some [] else slice b (field x 192 64) size).map fun d =>
    ⟨nameAt strings (field x 160 32), kind, field x 8 8, field x 16 8, field x 128 32, field x 320 64, size, d⟩
/-- The symbol of an entry. -/
def symOfEntry (strings : List Byte) (x : Nat) : KofSym :=
  ⟨nameAt strings (field x 64 32), field x 0 8, field x 8 8, field x 32 16, field x 96 32, field x 128 64⟩
/-- The object or image that a file holds; none where its header or a table runs past the file. -/
def kofOf (b : List Byte) : Option Kof := do
  let h := ofBytes (← slice b 0 64)
  if field h 0 32 = 0x30464F4B ∧ field h 32 16 = 1 ∧ 0 < field h 64 32 ∧ 0 < field h 128 32 then
    let st ← slice b (field h 192 32) (field h 224 32)
    let se ← slice b (field h 96 32) (48 * field h 64 32)
    let sy ← slice b (field h 160 32) (24 * field h 128 32)
    let sects ← ((entriesOf 48 (field h 64 32) se).drop 1).mapM fun e => sectOfEntry b st (ofBytes e)
    some ⟨field h 56 8, field h 48 8, sects, ((entriesOf 24 (field h 128 32) sy).drop 1).map fun e => symOfEntry st (ofBytes e)⟩
  else none

end Sys2Proof.Machine
end

