-- ==== Sys2Proof/Machine/Kelasm.lean ====
section
/-!
DEFINITION. Sys2Proof/Machine/Kelasm.lean: the object that kelasm makes of a source (spec/16 R331, R338, R345 to R347): the numbers of its
sections and symbols, its relocations and its tables.
-/
namespace Sys2Proof.Machine

/-- The sections of an object, before its tables: each with its bytes and relocations. -/
abbrev Sections := List (AsmSect × Emitted)

/-- The sections of a source that count: a PACKET or GRAPH section without a declaration does not (R345). -/
def Pass.counted (w : Pass) : List AsmSect := w.sects.filter fun s => (s.kind != 7 && s.kind != 8) || s.size != 0
/-- Every section's bytes. -/
def Pass.sections (w : Pass) : Asm Sections := w.counted.mapM fun s => (w.emitAll s.name w.items.reverse).map fun e => (s, e)
/-- The number of a section of the source: 0 where it has none. -/
def sectNumber (l : Sections) (n : Text) : Nat :=
  match l.findIdx? fun p => p.1.name == n with
  | some i => i + 1
  | none => 0
/-- The number of a symbol of the source, after `base` SECTION symbols. -/
def Pass.symNumber (w : Pass) (base : Nat) (n : Text) : Nat :=
  match w.order.findIdx? fun k => k == n with
  | some i => base + 1 + i
  | none => 0
/-- The number of a symbol that stands at a place of the source: a symbol of the file, else the section's own at its first byte. -/
def Pass.numberAt (w : Pass) (l : Sections) (base : Nat) (sect : Text) (off : Nat) : Nat :=
  match w.order.find? fun n => w.syms.any fun s => s.name == n && s.body == .at sect off with
  | some n => w.symNumber base n
  | none => if off = 0 then sectNumber l sect else 0
/-- The kinds of the tables that a source needs, in their order (R345). -/
def Pass.tables (w : Pass) : List Nat :=
  (if w.launches = [] then [] else [10]) ++ (if w.launches.any fun x => x.1.routes != [] then [11] else [])
    ++ (if w.pins = [] then [] else [12]) ++ (if w.graphs = [] then [] else [13])
/-- The sections of an object other than the null one: those of the source, the RELOC sections, the tables. -/
def Pass.total (w : Pass) (l : Sections) : Nat := l.length + (l.filter fun p => p.2.2 != []).length + w.tables.length
/-- A relocation with its symbol's number (R346). -/
def Pass.reloc (w : Pass) (l : Sections) (r : Reloc) : KofReloc :=
  ⟨r.off, match r.base with | .sect s => sectNumber l s | .sym n => w.symNumber (w.total l) n, r.kind, r.width, r.lo, r.addend⟩
/-- The entries of a table. -/
def Pass.tableBytes (w : Pass) (l : Sections) (k : Nat) : Asm (List Byte) :=
  let num := w.symNumber (w.total l)
  let env := w.env none
  if k = 10 then .ok (w.launches.flatMap fun x => ltabEntry (num x.1.name) x.2 x.1.packets.length)
  else if k = 11 then do
    let e ← w.launches.mapM fun x => x.1.routes.mapM fun r => do
      let v ← env.look r.name
      let h ← match keyOf "clamp" r.target with
        | some _ => .ok 0
        | none => do
          match (← valueOf env r.target).base with
          | some (.sym n) => .ok (num n)
          | some (.sect _) => .error .launch
          | none => .error .launch
      .ok (rtabEntry (wrap 22 v.off) (num x.1.name) h)
    .ok e.flatten.flatten
  else if k = 12 then do
    let e ← w.pins.mapM fun p => do
      let i ← numberIn env 1 7 p.1
      .ok (ptabEntry i (w.numberAt l (w.total l) p.2.1 p.2.2))
    .ok e.flatten
  else do
    let e ← w.graphs.mapM fun g => do
      let x ← numberIn env 0 4 g.walker
      .ok (gtabEntry (num g.name) g.nodes.length x)
    .ok e.flatten
/-- A symbol's place, for its entry: its section and its value (R345). -/
def Pass.symPlace (w : Pass) (l : Sections) (s : AsmSym) : Asm (Nat × Nat) :=
  match s.body with
  | .at q o => .ok (sectNumber l q, o)
  | .extern => .ok (0, 0)
  | .equ => do
    let v ← (w.env none).look s.name
    match v.base with
    | none => .ok (0xFFFF, wrap 64 v.off)
    | some (.sect q) => .ok (sectNumber l q, wrap 64 v.off)
    | some (.sym n) =>
      match (w.env none).place n with
      | some (q, o) => .ok (sectNumber l q, wrap 64 (o + v.off))
      | none => if w.globals.contains s.name then .error .name else .ok (0, wrap 64 v.off)
/-- A symbol's entry. -/
def Pass.symEntry (w : Pass) (l : Sections) (s : AsmSym) : Asm KofSym := do
  let (q, v) ← w.symPlace l s
  .ok ⟨if s.name.head? = some '.' then [] else s.name, s.kind, if s.body = .extern then 2 else if w.globals.contains s.name then 1 else 0, q,
    s.size, v⟩
/-- The symbols of a source in the order of their first appearance: a `.global` name that is not defined here is rejected (R338). -/
def Pass.symEntries (w : Pass) (l : Sections) : List Text → Asm (List KofSym)
  | [] => .ok []
  | n :: r =>
    match w.syms.find? fun s => s.name == n with
    | some s => do
      insist (s.body != .extern || !w.globals.contains n) .undefined
      let e ← w.symEntry l s
      .ok (e :: (← w.symEntries l r))
    | none => .error .undefined
/-- kelasm: the object of a source, or why the source is rejected. -/
def kelasm (src : Text) : Asm Kof := do
  let w ← walkSource src
  let l ← w.sections
  let own ← w.symEntries l w.order
  let tables ← w.tables.mapM fun k => (w.tableBytes l k).map fun b =>
    (⟨((["LTAB", "RTAB", "PTAB", "GTAB"].getD (k - 10) "").toList), k, 0, 3, 0, 0, b.length, b⟩ : KofSect)
  let source := l.map fun p => (⟨p.1.name, p.1.kind, p.1.flags, Nat.log2 p.1.align, 0, 0, p.1.size, p.2.1⟩ : KofSect)
  let relocs := (l.filter fun p => p.2.2 != []).map fun p =>
    let b := (p.2.2.map fun r => (w.reloc l r).bytes).flatten
    (⟨p.1.name, 9, 0, 3, sectNumber l p.1.name, 0, b.length, b⟩ : KofSect)
  let sects := source ++ relocs ++ tables
  let marks := (sects.zip (List.range sects.length)).map fun p => (⟨p.1.name, 2, 0, p.2 + 1, 0, 0⟩ : KofSym)
  .ok ⟨1, 2, sects, marks ++ own⟩

end Sys2Proof.Machine
end

