-- ==== Sys2Proof/Machine/Kelink.lean ====
section
/-!
DEFINITION. Sys2Proof/Machine/Kelink.lean: kelink (spec/16 R346, R348, R349): the places of the sections, the values of the symbols, the
relocations, and the checks of the image.
-/
namespace Sys2Proof.Machine

/-- Why kelink writes no image (R346, R348, R349). -/
inductive LinkErr where
  /-- `--base` is not a multiple of 64 KiB, or an input is no object. -/
  | input
  /-- The objects' ISALVL differ. -/
  | level
  /-- A global is defined in two objects, or an extern is bound to none. -/
  | bind
  /-- A relocation of an unknown KIND, or one that names no symbol or no bits of its section. -/
  | reloc
  /-- A relocation's value fails R346. -/
  | value
  /-- Two relocations write a bit in common. -/
  | overlap
  /-- A LOCAL layout, a window stack area or a ring passes 0x8_0000, or an area overlaps a LOCAL section. -/
  | localMemory
  /-- A pin image's range is not in a PINNED CODE section, or its entry is outside the range or off the grid. -/
  | pin
  /-- A clamp image's coal base is off the grid, or one of its ranges passes 0x7_FFFF. -/
  | clamp
deriving DecidableEq, Repr
/-- A result of kelink. -/
abbrev LinkRes (α : Type) := Except LinkErr α
/-- A condition on the link. -/
def demand (b : Bool) (e : LinkErr) : LinkRes Unit := if b then .ok () else .error e

/-- A section of the link: the number of its object, its number there, and itself. -/
structure LinkSect where
  obj : Nat
  idx : Nat
  sect : KofSect
deriving DecidableEq, Repr

/-! ### Placement (R348) -/

/-- All sections of the objects, in the order of the command line. -/
def linkSects (objs : List Kof) : List LinkSect :=
  (objs.zip (List.range objs.length)).flatMap fun p => (p.1.sects.zip (List.range p.1.sects.length)).map fun q => ⟨p.2, q.2 + 1, q.1⟩
/-- The names of a list in the order of their first appearance. -/
def firstNames : List LinkSect → List Text → List Text
  | [], seen => seen
  | x :: r, seen => firstNames r (if seen.contains x.sect.name then seen else seen ++ [x.sect.name])
/-- The sections of a kind: by name in order of first appearance, those of one name in the order of the objects. -/
def linkGroup (l : List LinkSect) (kind : Nat) : List LinkSect :=
  let g := l.filter fun x => x.sect.kind == kind
  (firstNames g []).flatMap fun n => g.filter fun x => x.sect.name == n
/-- A number rounded up to a multiple of n. -/
def upTo (x n : Nat) : Nat := ceilDiv x n * n
/-- The least address at or above x that is a multiple of the alignment and differs from `first` by a multiple of 12, among so many. -/
def codeAddr (first align : Nat) : Nat → Nat → Nat
  | 0, x => x
  | f + 1, x => if (x + 12 - first % 12) % 12 = 0 then x else codeAddr first align f (x + align)
/-- The groups that follow one another, placed from an address on: `flags` are those of the section before in the same group, `first` is the
first CODE section's address. -/
def placeRun : List LinkSect → Nat → Option Nat → Option Nat → List LinkSect × Nat
  | [], cur, _, _ => ([], cur)
  | x :: r, cur, flags, first =>
    let c := if flags = some x.sect.flags then cur else upTo cur 0x10000
    let a := upTo c (2 ^ x.sect.align)
    let a := if x.sect.kind = 1 then codeAddr (first.getD a) (2 ^ x.sect.align) 12 a else a
    let (l, e) := placeRun r (a + x.sect.size) (some x.sect.flags) (first.or (some a))
    ({ x with sect := { x.sect with addr := a } } :: l, e)
/-- The groups of several kinds one after the other. -/
def placeGroups (l : List LinkSect) : List Nat → Nat → List LinkSect × Nat
  | [], cur => ([], cur)
  | k :: r, cur =>
    let (a, c) := placeRun (linkGroup l k) cur none none
    let (b, e) := placeGroups l r c
    (a ++ b, e)
/-- EMBER sections, each on a granule of its own (R89). -/
def placeEmber : List LinkSect → Nat → List LinkSect
  | [], _ => []
  | x :: r, cur =>
    let a := upTo cur 0x10000
    { x with sect := { x.sect with addr := a } } :: placeEmber r (a + x.sect.size)
/-- LOCAL sections at local offsets, and where they end. -/
def placeLocal : List LinkSect → Nat → List LinkSect × Nat
  | [], cur => ([], cur)
  | x :: r, cur =>
    let a := upTo cur (2 ^ x.sect.align)
    let (l, e) := placeLocal r (a + x.sect.size)
    ({ x with sect := { x.sect with addr := a } } :: l, e)
/-- Every section with its address; tables and relocations have none. -/
def placeAll (objs : List Kof) (base lbase : Nat) : LinkRes (List LinkSect) := do
  let l := linkSects objs
  let (a, _) := placeGroups l [1, 2, 7, 8, 3, 4] base
  let (loc, e) := placeLocal (linkGroup l 5) lbase
  demand (decide (e ≤ 0x80000)) .localMemory
  let placed := a ++ placeEmber (linkGroup l 6) 0xFF01000000000000 ++ loc
  .ok (l.map fun x => ((placed.find? fun y => y.obj == x.obj && y.idx == x.idx).getD x))
/-- A section of the link by its numbers. -/
def sectAt (l : List LinkSect) (obj idx : Nat) : Option KofSect := (l.find? fun x => x.obj == obj && x.idx == idx).map LinkSect.sect

/-! ### Symbols (R345, R348, R349) -/

/-- A symbol's value in its own object: an address modulo 2^64, or what an absolute one holds. -/
def ownValue (l : List LinkSect) (obj : Nat) (s : KofSym) : Nat :=
  if s.sect = 0xFFFF ∨ s.sect = 0 then s.value else (((sectAt l obj s.sect).map KofSect.addr).getD 0 + s.value) % 2 ^ 64
/-- The globals of all objects: object and symbol. -/
def globalsOf (objs : List Kof) : List (Nat × KofSym) :=
  (objs.zip (List.range objs.length)).flatMap fun p => (p.1.syms.filter fun s => s.bind == 1).map fun s => (p.2, s)
/-- The global that an extern is bound to: the one of its name. -/
def boundTo (objs : List Kof) (n : Text) : LinkRes (Nat × KofSym) :=
  match (globalsOf objs).filter fun p => p.2.name == n with
  | [p] => .ok p
  | _ => .error .bind
/-- A symbol's final value. -/
def finalValue (objs : List Kof) (l : List LinkSect) (obj : Nat) (s : KofSym) : LinkRes Nat :=
  if s.bind = 2 then do
    let (o, g) ← boundTo objs s.name
    .ok (ownValue l o g)
  else .ok (ownValue l obj s)

/-! ### Relocations (R346) -/

/-- A field of a list of bytes written: `w` bits from bit `lo`. -/
def writeBits (b : List Byte) (lo w v : Nat) : List Byte :=
  let at8 := lo / 8
  let n := (lo % 8 + w + 7) / 8
  let x := ofBytes ((b.drop at8).take n)
  let y := x - 2 ^ (lo % 8) * field x (lo % 8) w + 2 ^ (lo % 8) * (v % 2 ^ w)
  b.take at8 ++ toBytes n y ++ b.drop (at8 + n)
/-- The bits that a relocation writes, from the section's first byte. -/
def KofReloc.span (r : KofReloc) : Nat × Nat :=
  if r.kind = 3 then (8 * r.off, 20) else if r.kind = 4 then (8 * r.off + r.lo, 14) else if r.kind = 5 then (8 * r.off, 34)
  else (8 * r.off + r.lo, r.width)
/-- Whether a relocation's form is one of R346, and its bits lie in the section. -/
def KofReloc.shapeOk (r : KofReloc) (size : Nat) : Bool :=
  (decide (1 ≤ r.kind) && decide (r.kind ≤ 5)) && (2 < r.kind || (decide (1 ≤ r.width) && decide (r.width ≤ 64)))
    && decide ((r.span).1 + (r.span).2 ≤ 8 * size) && (r.kind ≤ 2 || decide (r.off + 12 ≤ size))
    && (r.kind != 4 || r.lo == 20 || r.lo == 38 || r.lo == 56)
/-- The value V of a relocation, with S + A and P: none where R346 rejects it. -/
def KofReloc.valueOf (r : KofReloc) (word : Nat) (sa : Int) (p : Nat) : Option Int :=
  if r.kind = 1 then (if r.width = 64 ∨ (0 ≤ sa ∧ sa < 2 ^ r.width) then some sa else none)
  else if r.kind = 2 then (if -(2 ^ (r.width - 1)) ≤ sa ∧ sa < 2 ^ (r.width - 1) then some sa else none)
  else if r.kind = 3 then
    let k := (sa - p) / 12
    -- R172: a LOOP's offset is read as its entry says (R188)
    let loop := field word 86 10 = 0x00A
    if (sa - p) % 12 = 0 ∧ (if loop then 2 ≤ k ∧ k ≤ 65 else -(2 ^ 19) ≤ k ∧ k < 2 ^ 19) then some k else none
  else if r.kind = 4 then (if -8192 ≤ sa ∧ sa ≤ 8191 ∧ field word (r.lo + 14) 4 = 8 then some sa else none)
  else if -(2 ^ 33) ≤ sa ∧ sa < 2 ^ 33 ∧ field word 34 4 = 9 then some sa
  else none
/-- A relocation applied to the bytes of its section. -/
def applyReloc (objs : List Kof) (l : List LinkSect) (obj : Nat) (k : Kof) (s : KofSect) (r : KofReloc) : LinkRes KofSect := do
  demand (r.shapeOk s.data.length) .reloc
  match k.sym r.sym with
  | none => .error .reloc
  | some y => do
    let v ← finalValue objs l obj y
    match r.valueOf (ofBytes ((s.data.drop r.off).take 12)) (v + r.addend) (s.addr + r.off) with
    | some x => .ok { s with data := writeBits s.data (r.span).1 (r.span).2 (wrap (r.span).2 x) }
    | none => .error .value
/-- Several relocations applied. -/
def applyRelocs (objs : List Kof) (l : List LinkSect) (obj : Nat) (k : Kof) : List KofReloc → KofSect → LinkRes KofSect
  | [], s => .ok s
  | r :: rest, s => do applyRelocs objs l obj k rest (← applyReloc objs l obj k s r)
/-- Whether no two relocations of a section write a bit in common. -/
def disjointSpans : List KofReloc → Bool
  | [] => true
  | r :: rest =>
    (rest.all fun q => decide ((r.span).1 + (r.span).2 ≤ (q.span).1) || decide ((q.span).1 + (q.span).2 ≤ (r.span).1)) && disjointSpans rest
/-- The relocations of a section of an object. -/
def relocsFor (k : Kof) (idx : Nat) : List KofReloc := (k.sects.filter fun s => s.kind == 9 && s.info == idx).flatMap KofSect.relocs
/-- Every section with its relocations applied. -/
def relocateAll (objs : List Kof) (l : List LinkSect) : LinkRes (List LinkSect) :=
  l.mapM fun x =>
    match objs[x.obj]? with
    | some k => do
      let rs := relocsFor k x.idx
      demand (disjointSpans rs) .overlap
      .ok { x with sect := ← applyRelocs objs l x.obj k rs x.sect }
    | none => .ok x

/-! ### Checks of the image (R349) -/

/-- The entries of the tables of a kind of an object. -/
def tablesOf (k : Kof) (kind : Nat) : List Nat := (k.sects.filter fun s => s.kind == kind).flatMap KofSect.table
/-- The bytes of a section from an offset, as a number. -/
def numberAt (s : KofSect) (off n : Nat) : Nat := ofBytes ((s.data.drop off).take n)
/-- Whether a packet's window stack area fits, and its rings (R349). -/
def packetFits (l : List LinkSect) (s : KofSect) (off : Nat) : Bool :=
  let p := numberAt s off 64
  let b := field p 240 24
  let e := field p 216 24
  let locals := l.filter fun x => x.sect.kind == 5
  let area := decide (e ≤ 0x80000) && (decide (e ≤ b) || locals.all fun x =>
    decide (e ≤ x.sect.addr) || decide (x.sect.addr + x.sect.size ≤ b))
  let rings := (List.range (field p 163 5)).all fun i =>
    let r := numberAt s (field p 264 56 - s.addr + 64 + 16 * i) 16
    decide (field r 88 19 + 64 * field r 107 10 * field r 117 7 ≤ 0x80000)
  area && rings
/-- Whether every packet of an object's launches fits. -/
def launchesFit (l : List LinkSect) (obj : Nat) (k : Kof) : Bool :=
  (tablesOf k 10).all fun e =>
    match (k.sym (field e 0 32)).bind fun y => sectAt l obj y.sect with
    | some s => (List.range (field e 64 8)).all fun i => packetFits l s (field e 32 32 + 64 * i)
    | none => true
/-- The image of a symbol: 32 bytes. -/
def imageBytes (l : List LinkSect) (obj : Nat) (y : KofSym) : Option Nat := (sectAt l obj y.sect).map fun s => numberAt s y.value 32
/-- Whether a pin image's code lies in a PINNED CODE section and its entry in the code; entry 7 describes no code (R142). -/
def pinFits (l : List LinkSect) (idx x : Nat) : Bool :=
  let c := field x 200 56
  let n := field x 176 24
  let e := field x 68 56
  idx == 7 || ((l.any fun q => q.sect.kind == 1 && q.sect.flags % 2 == 1 && decide (q.sect.addr ≤ c) && decide (c + n ≤ q.sect.addr + q.sect.size))
    && decide (c ≤ e) && decide (e < c + n) && e % 4 == 0)
/-- Whether every pin image of an object fits. -/
def pinsFit (l : List LinkSect) (obj : Nat) (k : Kof) : Bool :=
  (tablesOf k 12).all fun e =>
    match (k.sym (field e 32 32)).bind (imageBytes l obj) with
    | some x => pinFits l (field e 0 8) x
    | none => false
/-- Whether a clamp image's coal base is on the grid and its ranges end in local memory (R144). -/
def clampFits (x : Nat) : Bool :=
  let n := field x 128 16 + 1
  field x 83 19 % 8 == 0 && decide (field x 64 19 + n * 2 ^ field x 144 2 ≤ 0x80000) && decide (field x 83 19 + 8 * n ≤ 0x80000)
    && decide (field x 102 19 + (n + 7) / 8 ≤ 0x80000)
/-- The clamp images of an object: symbols of 32 bytes in a data section that PTAB does not name (log 75). -/
def clampsFit (l : List LinkSect) (obj : Nat) (k : Kof) : Bool :=
  let pins := (tablesOf k 12).map fun e => field e 32 32
  (List.range (k.syms.length + 1)).all fun i =>
    match k.sym i with
    | some y =>
      if y.size = 32 ∧ y.kind = 0 ∧ pins.contains i = false ∧ ((sectAt l obj y.sect).any fun s => s.kind == 2 || s.kind == 3 || s.kind == 6) = true
      then ((imageBytes l obj y).all clampFits) else true
    | none => true
/-- A check of every object. -/
def everyObject (objs : List Kof) (f : Nat → Kof → Bool) : Bool := (objs.zip (List.range objs.length)).all fun p => f p.2 p.1

/-! ### The image (R348) -/

/-- A linked image, and the tags that two of its launches route: these are only reported (R349). -/
structure Linked where
  image : Kof
  reported : List Nat
deriving DecidableEq, Repr

/-- Whether a section of an object is one of its tables. -/
def KofSect.isTable (s : KofSect) : Bool := decide (10 ≤ s.kind) && decide (s.kind ≤ 13)
/-- The sections of an image before its tables. -/
def keptSects (l : List LinkSect) : List LinkSect := l.filter fun x => x.sect.kind != 9 && !x.sect.isTable
/-- The tables of an image: one for each kind that an object holds. -/
def keptTables (objs : List Kof) : List Nat := [10, 11, 12, 13].filter fun k => objs.any fun o => o.sects.any fun s => s.kind == k
/-- The number of a section in the image: 0 for one that is dropped. -/
def newSect (objs : List Kof) (l : List LinkSect) (obj idx : Nat) : Nat :=
  if idx = 0xFFFF then idx
  else
    match (keptSects l).findIdx? (fun x => x.obj == obj && x.idx == idx), sectAt l obj idx with
    | some i, _ => i + 1
    | none, some s =>
      match (keptTables objs).findIdx? fun k => k == s.kind with
      | some i => (keptSects l).length + 1 + i
      | none => 0
    | none, none => 0
/-- The number of a symbol in the image, which keeps every symbol of every object. -/
def newSym (objs : List Kof) (obj i : Nat) : Nat := if i = 0 then 0 else ((objs.take obj).map fun k => k.syms.length).sum + i
/-- A symbol with its final value; an extern becomes the global that it is bound to. -/
def newSymbol (objs : List Kof) (l : List LinkSect) (obj : Nat) (s : KofSym) : LinkRes KofSym :=
  if s.bind = 2 then do
    let (o, g) ← boundTo objs s.name
    .ok { s with bind := 1, sect := newSect objs l o g.sect, value := ownValue l o g }
  else .ok { s with sect := newSect objs l obj s.sect, value := ownValue l obj s }
/-- An entry of a table with its symbols renumbered: LTAB and GTAB name one in [31:0], RTAB two above its first word, PTAB one there. -/
def newEntry (objs : List Kof) (obj kind x : Nat) : List Byte :=
  let f := fun lo => 2 ^ lo * newSym objs obj (field x lo 32)
  toBytes 16 (
    if kind = 10 ∨ kind = 13 then x - field x 0 32 + f 0
    else if kind = 11 then field x 0 32 + f 32 + f 64
    else field x 0 32 + f 32)
/-- A table of the image: the entries of the objects in their order. -/
def newTable (objs : List Kof) (kind : Nat) : KofSect :=
  let b := (objs.zip (List.range objs.length)).flatMap fun p => (tablesOf p.1 kind).flatMap (newEntry objs p.2 kind)
  ⟨(["LTAB", "RTAB", "PTAB", "GTAB"].getD (kind - 10) "").toList, kind, 0, 3, 0, 0, b.length, b⟩
/-- The tags that two launches route: object, launch and tag of each route, looked up among the later ones. -/
def sharedTags : List (Nat × Nat × Nat) → List Nat
  | [] => []
  | (o, y, t) :: r => if r.any fun q => q.2.2 == t && (q.1 != o || q.2.1 != y) then t :: sharedTags r else sharedTags r
/-- kelink: the image of the objects, placed from `base`, with LOCAL sections from `lbase`. -/
def kelink (base lbase : Nat) (objs : List Kof) : LinkRes Linked := do
  demand (base % 0x10000 == 0 && objs != [] && objs.all fun k => k.fileKind == 1) .input
  demand (objs.all fun k => some k.level == objs.head?.map Kof.level) .level
  demand ((globalsOf objs).all fun p => ((globalsOf objs).filter fun q => q.2.name == p.2.name).length == 1) .bind
  let l0 ← placeAll objs base lbase
  let l ← relocateAll objs l0
  demand (everyObject objs (launchesFit l)) .localMemory
  demand (everyObject objs (pinsFit l)) .pin
  demand (everyObject objs (clampsFit l)) .clamp
  let syms ← (objs.zip (List.range objs.length)).mapM fun p => p.1.syms.mapM (newSymbol objs l p.2)
  let sects := (keptSects l).map LinkSect.sect ++ (keptTables objs).map (newTable objs)
  let routes := (objs.zip (List.range objs.length)).flatMap fun p => (tablesOf p.1 11).map fun e => (p.2, field e 32 32, field e 0 16)
  .ok ⟨⟨2, (objs.head?.map Kof.level).getD 2, sects, syms.flatten⟩, (sharedTags routes).dedup⟩
/-- Where `--base` and `--lbase` stand if they are not given (R348). -/
def defaultBase : Nat := 0x4000000000
/-- The kelink command, with the options that it was given. -/
def kelinkCommand (base lbase : Option Nat) (objs : List Kof) : LinkRes Linked := kelink (base.getD defaultBase) (lbase.getD 0) objs

end Sys2Proof.Machine
end

