-- ==== Sys2Proof/Tests/Kelasm.lean ====
section
/-!
SUPPORT. Sys2Proof/Tests/Kelasm.lean: kelasm and kelink on the manual's own listings: the seven lines of spec/09 and the two files of
spec/16, with the words, numbers and addresses that those chapters print.
-/
set_option Elab.async false
namespace Sys2Proof.Tests
open Sys2Proof.Machine

/-- No symbols, no counter. -/
def bareEnv : AsmEnv := ⟨fun _ => .error .undefined, .error .expression, fun _ => none⟩
/-- The words of a line, word 0 first. -/
def lineWords (t : String) : Option (Nat × Nat × Nat) :=
  match assembleInsn bareEnv [] 0 t.toList with
  | .ok (x, []) => some (field x.toNat 0 32, field x.toNat 32 32, field x.toNat 64 32)
  | _ => none

/-- spec/09, the listing of seven lines: each word as its table prints it. -/
theorem test_listing_words :
    ["IADD.I64       w8, w0, #16", "ICMP.I32.LT    p2, w3, #-5", "IADD.I64       w12, w12, #0x1_2345_6789",
      "(!p3) IADD.I32 w8, w8, #-1  hint:0x80", "ST.I64         [w0+64], w8", "BR             .+1", "END"].map lineWords =
    [some (0x01060000, 0x08100020, 0x10000040), some (0xFFB42000, 0x021000E3, 0x30000100), some (0x23456789, 0x0C100325, 0x10000040),
      some (0xFFF40000, 0x08100223, 0x102E0040), some (0x04060000, 0x08100020, 0x50400040), some (0x00000001, 0, 0x00800000),
      some (0, 0, 0x03800000)] := by decide +kernel

/-- A line that meets the hypotheses of DecodingInvertsEncoding's second clause, with a relocation that is no offset: its immediate names a
symbol. -/
theorem witness_line :
    ∃ w l, assembleInsn ⟨fun n => .ok ⟨some (.sym n), 0⟩, .error .expression, fun _ => none⟩ [] 0 "IANDN.I32 w1, w2, #cell+8".toList = .ok (w, l) ∧
      l ≠ [] ∧ ∀ r ∈ l, r.kind ≠ 3 :=
  ⟨BitVec.ofNat 96 0x13400040011000A000040000, [⟨0, 4, 14, 20, .sym "cell".toList, 8⟩], by decide +kernel, by simp, by simp⟩

/-- A source of lines. -/
def sourceOf (l : List String) : Text := l.flatMap fun t => t.toList ++ ['\n']
/-- spec/16, the first file. -/
def cntSource : Text := sourceOf [
  ".isa 2", ".extern helper", ".section lmem, LOCAL, 64", "aw: .arrive", "jw: .joinw", "slots: .ringbuf 1, 4", ".section text, CODE, 4",
  ".global start", "start: LDPW.N64 w8, pw0+64", "CALL helper", "END", ".section rodata, RODATA, 64", "tab: .zblk",
  ".blk8 E4, 0x30, 6.0, -0.5", ".launch job, start", ".units 8", ".gang 4", ".pw 0, tab, 128", ".ring 0, slots, 1, 4",
  ".route sumtag, 0x0123, start, 2", ".endl"]
/-- spec/16, the second file. -/
def hSource : Text := sourceOf [".isa 2", ".section text, CODE, 4", ".global helper", "helper: RET"]
/-- A symbol without its name: KIND, BIND, SECT and VALUE. -/
def symOf (y : KofSym) : List Nat := [y.kind, y.bind, y.sect, y.value]
/-- A relocation as the manual's table prints it. -/
def relOf (r : KofReloc) : List Int := [r.off, r.kind, r.lo, r.width, r.sym, r.addend]

/-- The object of the first file: symbols 9 to 16 as (1) numbers them, its relocations as the last table prints them, its tables as the
text gives them, and its bytes read back as it was written. -/
theorem test_object :
    ((kelasm cntSource).toOption.map fun k => ((k.syms.drop 8).map symOf, ((k.sects.filter fun s => s.kind == 9).flatMap KofSect.relocs).map relOf,
      (k.sects.drop 6).map KofSect.table, decide (kofOf k.bytes = some k))) =
    some ([[0, 2, 0, 0], [3, 0, 1, 0], [4, 0, 1, 16], [6, 0, 1, 64], [0, 1, 2, 0], [0, 0, 3, 0], [7, 1, 4, 0], [9, 0, 0xFFFF, 0x20123]],
      [[12, 3, 0, 0, 9, 0], [0, 1, 456, 56, 13, 0], [0, 1, 320, 56, 4, 64], [0, 1, 264, 56, 4, 192], [64, 1, 64, 64, 14, 0],
        [256, 1, 88, 19, 12, 0]],
      [[15 + 2 ^ 64 * 1], [0x0123 + 2 ^ 16 * 2 + 2 ^ 32 * 15 + 2 ^ 64 * 13]], true) := by decide +kernel

/-- The image of both files: the places and sizes of its sections as (2), (4), (5) and (6) give them, the words of its code as (3), (4)
and (8) do, the block of (5), and the launch packet, its binding and its ring after the link. -/
def imageFacts (k : Kof) : List (List Nat) :=
  let word := fun (s : KofSect) => (List.range (s.size / 4)).map fun i => ofBytes ((s.data.drop (4 * i)).take 4)
  let n := fun lo w => field (ofBytes ((k.sects[3]?.map KofSect.data).getD [])) lo w
  [(k.sects.take 5).map KofSect.addr, (k.sects.take 5).map KofSect.size, (k.sects[1]?.map word).getD [], (k.sects[4]?.map word).getD [],
    [field (ofBytes ((k.sects[2]?.map KofSect.data).getD [])) 512 64],
    [n 456 56, n 320 56, n 264 56, n 192 24, n 163 5, n 160 3, n 157 3, n 155 2, n 0 8],
    [n (8 * 64 + 64) 64, n (8 * 64 + 32) 32, n (8 * 64) 1], [n (8 * 256 + 64) 64]]
theorem test_image :
    ((do
      let a ← (kelasm cntSource).toOption
      let b ← (kelasm hSource).toOption
      let l ← (kelink 0x4000010000 0 [a, b]).toOption
      some (imageFacts l.image)) : Option (List (List Nat))) =
    some [[0, 0x4000010000, 0x4000020000, 0x4000030000, 0x4000010024], [320, 36, 128, 272, 12],
      [0x00070000, 0x08701000, 0x51000040, 0x00000002, 0, 0x01C00000, 0, 0, 0x03800000], [0, 0, 0x02400000], [0xB04C3020],
      [0x4000010000, 0x4000030040, 0x40000300C0, 8, 1, 2, 7, 0, 1], [0x4000020000, 128, 1], [0x0080080040000000]] := by decide +kernel

end Sys2Proof.Tests
end

