-- ==== Sys2Proof/Tests/Slice0.lean ====
section
/-!
SUPPORT. Sys2Proof/Tests/Slice0.lean: the model's own tests: ill-formed instructions that WellFormed refuses, the small state the tests start
from, and values that the spec works out. Each test cites where its expected value comes from.
-/
set_option Elab.async false

namespace Sys2Proof.Tests

open Sys2Proof Sys2Proof.Machine

/-- The guard that always holds. -/
def al : Hdr := ⟨false, 0, 0⟩

/-! ### WellFormed refuses (R167, R168, R170 and the encoding tables) -/

/-- WellFormed refuses every instruction of a list. -/
def refused (l : List Instr) : Bool := l.all fun i => !(Instr.wf i)

/-- GN = 1 with GP = 0 (R168); LOOP's M outside 2 to 65 (R188); FENCE with RLX (R224); SWR to a read-only register (R62). -/
theorem test_refused_forms : refused
    [.nop ⟨true, 0, 0⟩, .loop al 1 (.reg (.w 0)), .loop al 66 (.reg (.w 0)), .fence al .rlx .sys, .swr al .caps (.reg (.w 1)),
     .send al .acq .sys (.w 0) none, .send al .rlx .die (.w 0) none, .sendl al .ar .sys (.w 0) (.w 1) (.imm 1)] = true := by decide

/-- A TYPE outside the entry's list (R170, R195, R198, R201, R202, R206, R218). -/
theorem test_refused_scalar_types : refused
    [.iadd al .f32 (.w 1) (.w 1) (.imm 1), .iabs al .n8 (.w 1) (.w 1), .imin al .n64 (.w 1) (.w 1) (.imm 1),
     .iminn al .i64 (.w 1) (.w 1) (.imm 1), .ishr al .i32 (.w 1) (.w 1) (.imm 1), .isar al .n32 (.w 1) (.w 1) (.imm 1),
     .icnt al .i32 .pop (.w 1) (.w 1), .imulh al .n8 (.w 1) (.w 1) (.imm 1), .imulhn al .i8 (.w 1) (.w 1) (.imm 1),
     .idivn al .i8 (.w 1) (.w 1) (.imm 1), .fcvtif al .i16 (.w 1) (.w 1), .fcvtfiz al .f32 (.w 1) (.w 1),
     .ld al .b16 (.w 1) (.w 1) (.imm 1), .stl al .e4 (.w 1) (.w 1) (.imm 1), .aadd al .i16 .rlx .core (.w 1) (.w 1) (.imm 1),
     .amin al .n32 .rlx .core (.w 1) (.w 1) (.imm 1), .amaxn al .i32 .rlx .core (.w 1) (.w 1) (.imm 1)] = true := by decide

/-- A long immediate at a TYPE other than I64, or N64 for ICMP (R167). -/
theorem test_refused_long : refused
    [.iadd al .i32 (.w 1) (.w 1) (.long 1), .imov al .n64 (.w 1) (.long 1), .icmp al .i32 .eq 1 (.w 1) (.long 1)] = true := by decide

/-- Odd registers of a pair, a quad that is not one, COUNT and part ranges (R53, R220, R227, R230, R237, R239, R240, R248). -/
theorem test_refused_operands : refused
    [.acas al .i32 .rlx .core (.w 9) (.w 1) (.imm 0), .cpy2 al .core (.reg (.w 0)) (.w 3) (.w 5), .bind al (.w 1) (.g 5) (.w 2),
     .dlyrd al (.w 5) (.imm 0), .vmacw al .i8 6 1 (.v 2), .vld2 al .i8 1 3 (.reg (.w 1)) (.imm 0), .vld2 al .i8 0 2 (.reg (.w 1)) (.imm 0),
     .vld2 al .i8 1 2 (.ring ⟨0, 2, 0⟩) (.imm 0), .vnars al .i8 2 1 1, .vwid al .i64 0 1 1, .vcvtfb al 2 1 1, .vcvte4s al .b16 2 1 1,
     .vcvte5o al .f32 4 1 1, .vwidf al .h16 2 1 1, .vdecq al .b8 4 1 1 (.w 1), .vencq al 4 1 1 (.w 1), .vdecq al .i8 0 1 1 (.w 1)] = true := by
  decide

/-- Vector, stream, matrix, ring, rake and system forms (R227, R233, R246, R251, R252, R256, R268, R277, R288). -/
theorem test_refused_units : refused
    [.vmin al .n8 1 1 (.v 1), .vminn al .i8 1 1 (.v 1), .vdot4 al .i16 1 1 (.v 1), .vadd al .b16 1 1 (.v 1), .vfadd al .e4 1 1 (.v 1),
     .vcvtfi al .i64 1 1, .lwadd al .h16 (.w 1) (.w 1) (.w 1), .vld al .f4 1 (.reg (.w 1)) (.imm 0), .vldb al .i8 1 (.reg (.w 1)) (.imm 0),
     .radvc al ⟨0, 1, 1⟩, .rstat al (.w 1) ⟨0, 2, 0⟩, .vsred al .b16 1 1, .mlda al .i8 .n8 (.w 1), .mma al .b4 .i8 0 (.imm 0) (.w 1) none,
     .mma al .i8 .i8 0 (.imm 0) (.w 1) (some (.w 2)), .mzero al 32 (.imm 0), .rkdecl al 4 (.w 1), .rkwake al 4 (.imm 0) (.imm 0),
     .tkcmt al 0 (.w 1) (.imm 0) 1, .tkcmt al 17 (.w 1) (.imm 0) 1, .tkwset al 5 (.w 1) (.imm 0) (.w 1), .pinset al 0 (.w 1) (.w 2),
     .pinset al 8 (.w 1) (.w 2)] = true := by decide

/-! ### A small state: core 0 runs a user task of context 1 -/

/-- A task's information. -/
def info1 : TaskInfo := ⟨0x1000, 0, 0, 1, 0, 0, 0, none, none, none, none⟩
/-- A running task. -/
def task1 : Task := ⟨info1, 0, 0, 0, 0x1FFFFFFFF, false⟩
/-- Context 1, with the journal's fault queue at 0x100000. -/
def ctx1 : Ctx := ⟨1, 0x200000, true, 0, 0, 8, 0x100000, 4, 0, 0, 0, 1, 0, [], [], [], none, none⟩
/-- A sub-launch. -/
def sub1 : SubLaunch := ⟨0x1000, 0, 0, Vector.replicate 8 ⟨0, 0, false⟩, Vector.replicate 8 0, [], 0, 0, 1, 0, 0x1FFFFFFFF, 0, 1⟩
/-- Launch 0 of context 1, one unit placed and running. -/
def launch1 : Launch := ⟨1, 0, [sub1], 1, none, false, 0, 0, none, none, none, false, 0, 0, 0, 0, false, [], 0, 0, .none⟩
/-- Cluster 0 running. -/
def clus0 : Cluster := { Cluster.reset fullPart 0 with pstate := .run }
/-- Core 0 with the task running at 0x1000. -/
def core0 : Core := { Core.reset 0 with task := some task1, owner := some 1, lastCtx := some 1, pc := 0x1000, srcPc := 0x1000 }
/-- The state. -/
def user : State := { State.reset with core := core0, ctxs := [ctx1], launches := [launch1], clusters := [(0, clus0)] }
/-- The same with values in w1 and w2. -/
def user2 (x y : Word) : State := writeWG (writeWG user (.w 1) x) (.w 2) y
/-- What an instruction leaves, read off its next state. -/
def after {α : Type} (i : Instr) (s : State) (f : State → α) : Option α :=
  match exec i s with
  | .next t => some (f t)
  | .fault _ => none
  | .refused _ => none
/-- The value of w3 after an instruction on w1 and w2. -/
def w3 (i : Instr) (x y : Word) : Option Word := after i (user2 x y) fun t => readWG t (.w 3)

/-! ### Integer and address results (the worked tables of spec/10) -/

theorem test_iadds_i8 : w3 (.iadds al .i8 (.w 3) (.w 1) (.reg (.w 2))) 100 100 = some 0x7F := by decide
theorem test_iadds_n8 : w3 (.iadds al .n8 (.w 3) (.w 1) (.reg (.w 2))) 200 100 = some 0xFF := by decide
theorem test_isubs_n16 : w3 (.isubs al .n16 (.w 3) (.w 1) (.reg (.w 2))) 5 9 = some 0 := by decide
theorem test_iadd_n8 : w3 (.iadd al .n8 (.w 3) (.w 1) (.imm 1)) 0xFF 0 = some 0 := by decide
theorem test_isar_i32 : w3 (.isar al .i32 (.w 3) (.w 1) (.reg (.w 2))) 0x80000000 40 = some (-1) := by decide
theorem test_ishl_i64 : w3 (.ishl al .i64 (.w 3) (.w 1) (.imm (-1))) 1 0 = some 0 := by decide
theorem test_irot_n8 : w3 (.irot al .n8 (.w 3) (.w 1) (.reg (.w 2))) 0x81 9 = some 3 := by decide
theorem test_iext : w3 (.iext al 3 (.w 3) (.w 1) (.imm 4)) 0xF0 0 = some (-1) := by decide
theorem test_iextn : w3 (.iextn al 3 (.w 3) (.w 1) (.imm 4)) 0xF0 0 = some 0xF := by decide
/-- D = all ones, A = 0, lo = 60, eight bits. -/
theorem test_iins : after (.iins al 7 (.w 1) (.w 2) (.imm 60)) (user2 (-1) 0) (readWG · (.w 1)) = some 0x0FFFFFFFFFFFFFFF := by decide
theorem test_icnt_clz : w3 (.icnt al .n32 .clz (.w 3) (.w 1)) 0 0 = some 32 := by decide
/-- R199: −7 by 2 gives −3 and −1; 7 by 0 gives 0 and 7; the product of the most negative numbers. -/
theorem test_idiv : w3 (.idiv al .i32 (.w 3) (.w 1) (.imm 2)) (-7) 0 = some (-3) := by decide
theorem test_irem : w3 (.irem al .i32 (.w 3) (.w 1) (.imm 2)) (-7) 0 = some (-1) := by decide
theorem test_idivn_zero : w3 (.idivn al .n32 (.w 3) (.w 1) (.imm 0)) 7 0 = some 0 := by decide
theorem test_imulh : w3 (.imulh al .i32 (.w 3) (.w 1) (.reg (.w 2))) 0x80000000 0x80000000 = some 0x40000000 := by decide
theorem test_imulhn : w3 (.imulhn al .n32 (.w 3) (.w 1) (.reg (.w 2))) 0xFFFFFFFF 0xFFFFFFFF = some 0xFFFFFFFE := by decide

/-! ### Floating point (R203, R204; the worked tables of spec/05, spec/10, spec/11) -/

theorem test_fcvtfi : w3 (.fcvtfi al .i32 (.w 3) (.w 1)) 0xC0200000 0 = some (-2) := by decide +kernel
theorem test_fcvtfi_sat : w3 (.fcvtfi al .i32 (.w 3) (.w 1)) 0x4F32D05E 0 = some 0x7FFFFFFF := by decide +kernel
theorem test_fcvtif : w3 (.fcvtif al .i64 (.w 3) (.w 1)) 0x20000000000001 0 = some 0x5A000000 := by decide +kernel
theorem test_fmin_zeros : w3 (.fmin al (.w 3) (.w 1) (.w 2)) 0x80000000 0 = some 0x80000000 := by decide +kernel
theorem test_fneg_nan : w3 (.fneg al (.w 3) (.w 1)) 0xFFC12345 0 = some 0x7FC00000 := by decide +kernel
/-- 500.0, −70,000.0 and 2.5 converted (the table of R237). -/
theorem test_conversions :
    convert .f32 .e4 true 0x43FA0000 = 0x7E ∧ convert .f32 .e4 false 0x43FA0000 = 0x7F ∧ convert .f32 .e5 true 0x43FA0000 = 0x60 ∧
      convert .f32 .e5 false 0xC788B800 = 0xFC ∧ convert .f32 .f4 true 0xC788B800 = 0xF ∧ convert .f32 .f4 true 0x40200000 = 4 := by
  decide +kernel
/-- The Q4 block worked under R109 with super-scale 2.0: elements 0, 24 and 25. -/
theorem test_block :
    let x := 0x10 + 0x3C * 2 ^ 8 + 0x88 * 2 ^ 16 + 0x30 * 2 ^ 24 + 0xF0 * 2 ^ 32 + 0x9D * 2 ^ 128 + 0x38 * 2 ^ 504
    blkDecode .b4 x 0 0x40000000 = 0xC0400000 ∧ blkDecode .b4 x 24 0x40000000 = 0x3F550000 ∧
      blkDecode .b4 x 25 0x40000000 = 0x3E760000 := by decide +kernel
/-- One step from S = 1, and stochastic rounding of 1 + 2^-8 with the random words 0x9E6C and 0x1234 (R113, R114). -/
theorem test_stochastic :
    genSteps 1 1 = 0x9E6C63D0676AA9E4 ∧ stochB16 0x3F808000 0x9E6C = 0x3F80 ∧ stochB16 0x3F808000 0x1234 = 0x3F81 := by decide +kernel
/-- Requantisation as spec/05 works it. -/
theorem test_requantise :
    mulhr 1000 (2 ^ 30) = 500 ∧ mulhr (-9) (2 ^ 30) = -4 ∧ mulhr (-(2 ^ 31)) (-(2 ^ 31)) = 2147483647 ∧ rshr (-6) 2 = -1 ∧ rshr (-7) 2 = -2 := by
  decide
/-- The long accumulator as spec/05 works it: 2^24, 1 and −2^24 in turn. -/
theorem test_long_accumulator :
    let a := longAdd .f32 0 0x4B800000 0x3F800000
    let b := longAdd .f32 a 0x3F800000 0x3F800000
    let c := longAdd .f32 b 0xCB800000 0x3F800000
    longRound a = 0x4B800000 ∧ longRound b = 0x4B800000 ∧ longRound c = 0x3F800000 ∧ c = 2 ^ 298 := by decide +kernel

/-! ### Atomics, arrival words, windows, the watch unit -/

/-- X = 0xFFFF_FFF0 in local memory, and w8, w9. -/
def atomicState (x y : Word) : State :=
  writeWG (writeWG (writeWG { user with mem := memWrite [] (localKey 0 0x40) 4 0xFFFFFFF0 } (.w 1) 0xFF00000000000040) (.w 8) x) (.w 9) y
/-- X and w8 after an instruction. -/
def atomicAfter (i : Instr) (x y : Word) : Option (Nat × Word) :=
  after i (atomicState x y) fun t => (memRead t.mem (localKey 0 0x40) 4, readWG t (.w 8))

/-- The atomic results worked under R221. -/
theorem test_aadd : atomicAfter (.aadd al .i32 .rlx .core (.w 8) (.w 1) (.imm 0)) 0x20 0 = some (0x10, 0xFFFFFFFFFFFFFFF0) := by decide +kernel
theorem test_amin : atomicAfter (.amin al .i32 .rlx .core (.w 8) (.w 1) (.imm 0)) 3 0 = some (0xFFFFFFF0, 0xFFFFFFFFFFFFFFF0) := by
  decide +kernel
theorem test_aminn : atomicAfter (.aminn al .n32 .rlx .core (.w 8) (.w 1) (.imm 0)) 3 0 = some (3, 0xFFFFFFF0) := by decide +kernel
theorem test_acas : atomicAfter (.acas al .n32 .ar .die (.w 8) (.w 1) (.imm 0)) 0xFFFFFFF0 1 = some (1, 0xFFFFFFF0) := by decide +kernel
theorem test_acas_fails : atomicAfter (.acas al .n32 .ar .die (.w 8) (.w 1) (.imm 0)) 0 1 = some (0xFFFFFFF0, 0xFFFFFFF0) := by
  decide +kernel
/-- The carry rule worked under R153: five beats of 64 bytes on TARGET 100, GEN 7. -/
theorem test_carry : ([64, 64, 64, 64, 64].foldl (fun w b => (arrivalStep w b).1) (100 * 2 ^ 40 + 7)) = 0x000064000014000A := by decide
/-- The capability word that spec/01 works: two clusters of die 0 fused off and three lane groups lost (R19). -/
theorem test_caps :
    readSpecial (State.boot ⟨BitVec.allOnes 128 - 3, 0, BitVec.allOnes 128 - 7, 650, none, []⟩) .caps = 0x027E82081E003000 := by decide +kernel

/-- A task with seven windows below the current one makes its eighth CALL with room on the window stack and the spill pin installed. -/
def deep : State := { user with core := { core0 with
  below := List.replicate 7 Frame.zero, wstack := 0x40000, wlimit := 0x50000,
  pins := Vector.replicate 8 (some ⟨0x8000, 0x1000, 0, 0, 0x100, 0x8000⟩) } }
/-- The eighth CALL raises trap 1 with WSTACK as its information (R57, R61). -/
theorem test_spill_trap : after (.call al 4) deep (fun t => t.core.svcq) = some [⟨1, 0, 0x40000, some 0x1000, true⟩] := by decide +kernel
/-- The entry moves the oldest window and WSTACK by 136 bytes; the window stack holds one window (the table of R61). -/
theorem test_spill_entry :
    (match exec .serviceTaskEntry { deep with core := { deep.core with svcq := [⟨1, 0, 0x40000, some 0x1000, true⟩] }, now := some (.serviceTaskEntry 0) } with
     | .next t => some (t.core.wstack, t.core.wdepth, t.core.below.length, t.core.bank == .service)
     | .fault _ => none
     | .refused _ => none) = some (0x40088, 1, 6, true) := by decide +kernel

/-- The watch entries of the example of R150: entry 0 (20, 21, STOP), entry 1 (BUDGET 3, NOTIFY), entry 2 (11, any, 30, INJECT). -/
def watchEntries : List Nat :=
  [0x20 + 0x21 * 2 ^ 24 + 2 * 2 ^ 100 + 2 ^ 103 + 1 * 2 ^ 104,
   2 ^ 103 + 4 * 2 ^ 104 + 3 * 2 ^ 112,
   0x11 + 0x30 * 2 ^ 48 + 2 * 2 ^ 96 + 3 * 2 ^ 100 + 2 ^ 103 + 3 * 2 ^ 104 + 2 * 2 ^ 107 + 0x40 * 2 ^ 224 + 0x41 * 2 ^ 248]
/-- Row 5: ACTIVE, HLEN 3, HIST 10, 11, 12 with the newest lowest. -/
def watchHeader : Nat := 1 + 3 * 2 ^ 2 + 0x12 * 2 ^ 8 + 0x11 * 2 ^ 32 + 0x10 * 2 ^ 56
/-- Commit 1: at 0x30 entry 2 wins, the other three tokens stay, and BUDGET(1) falls to 2. -/
theorem test_watch :
    let c := commitToks ⟨watchHeader, watchEntries, [], none⟩ [0x30, 0x20, 0x21, 0x22]
    c.win = some 2 ∧ c.toks = [0x30] ∧ (c.es.map enBudget) = [0, 2, 0] ∧ (c.es.map enArmed) = [true, true, false] ∧
      (injectBudgets 2 c.es).map enBudget = [0, 1, 0] := by decide +kernel

/-! ### Fetching and stepping -/

/-- `NOP`, opcode 0x001, placed where the next step fetches: the step runs it. -/
theorem test_step_nop : (match step (State.reset.withFetchWord 96 0x004000000000000000000000) with
    | .next t => t.core.pc == 0xFF0100000000000C | .fault _ => false | .refused _ => false) = true := by decide +kernel
/-- `IADD.I64 w8, w0, #16` of the listing of spec/09. -/
theorem test_step_iadd : (match step (State.reset.withFetchWord 96 0x100000400810002001060000) with
    | .next t => readWG t (.w 8) == 16 | .fault _ => false | .refused _ => false) = true := by decide +kernel
/-- The word of all zeros is ILLEGAL, decoded as such. -/
theorem test_decode_zero : decodeTableWord 96 0 = some (.illegal 0) := by decide

end Sys2Proof.Tests
end

