-- ==== Sys2Proof/Tests/Witnesses.lean ====
section
/-!
SUPPORT. Sys2Proof/Tests/Witnesses.lean: for every obligation with hypotheses, concrete states and operands that meet them, clause by clause.
`Found x` says that a computation answers a value and not a fault.
-/
set_option Elab.async false

namespace Sys2Proof.Tests

open Sys2Proof Sys2Proof.Machine

/-- A computation answers a value. -/
def Found {ε α : Type} (x : Except ε α) : Prop := ∃ a, x = .ok a
/-- Whether it does. -/
def found {ε α : Type} (x : Except ε α) : Bool :=
  match x with
  | .ok _ => true
  | .error _ => false
theorem found_iff {ε α : Type} {x : Except ε α} (h : found x = true) : Found x :=
  match x, h with
  | .ok a, _ => ⟨a, rfl⟩

/-- A computation answers a pair of which p holds. -/
def okPair {ε α β : Type} (x : Except ε (α × β)) (p : α → β → Bool) : Bool :=
  match x with
  | .ok q => p q.1 q.2
  | .error _ => false
theorem ok_pair {ε α β : Type} {x : Except ε (α × β)} {p : α → β → Bool} (h : okPair x p = true) : ∃ a b, x = .ok (a, b) ∧ p a b = true :=
  match x, h with
  | .ok q, h => ⟨q.1, q.2, rfl, h⟩
/-- Whether it is a list with a head, and a state. -/
def foundCons {ε α β : Type} (x : Except ε (List α × β)) : Bool := okPair x fun l _ => !l.isEmpty
theorem found_cons {ε α β : Type} {x : Except ε (List α × β)} (h : foundCons x = true) : ∃ a l s, x = .ok (a :: l, s) :=
  match ok_pair h with
  | ⟨a :: l, s, e, _⟩ => ⟨a, l, s, e⟩
/-- Whether it is something, and a state. -/
def foundSome {ε α β : Type} (x : Except ε (Option α × β)) : Bool := okPair x fun o _ => o.isSome
theorem found_some {ε α β : Type} {x : Except ε (Option α × β)} (h : foundSome x = true) : ∃ a s, x = .ok (some a, s) :=
  match ok_pair h with
  | ⟨some a, s, e, _⟩ => ⟨a, s, e⟩
/-- What holds of each of two, three or four things holds of all in their list. -/
theorem each2 {α : Type} {p : α → Prop} {a b : α} (x : p a) (y : p b) : ∀ c ∈ [a, b], p c := by simpa using ⟨x, y⟩
theorem each3 {α : Type} {p : α → Prop} {a b c : α} (x : p a) (y : p b) (z : p c) : ∀ d ∈ [a, b, c], p d := by simpa using ⟨x, y, z⟩
theorem each4 {α : Type} {p : α → Prop} {a b c d : α} (x : p a) (y : p b) (z : p c) (w : p d) : ∀ e ∈ [a, b, c, d], p e := by
  simpa using ⟨x, y, z, w⟩
/-- Members of a definition by its parts. -/
theorem runs_of {s : State} {h : Hdr} (x : s.core.bank ≠ .coal ∧ guardBit s h = true) : Runs s h := x
theorem ready_of {s : State} {k : Nat} {r : OpRec} (x : enginesRun s k = true ∧ engineHeld s r = false) : EngineReady s k r := x
theorem sound_of {s : State} (h : (Memory.wf s.mem && Memory.wf s.flash) = true) : Sound s := by
  simpa [Sound, Bool.and_eq_true] using h
theorem numbered_of {s : State} (h : (decide (s.core.id :: s.rest.map Prod.fst).Nodup && s.rest.all fun p => p.2.id == p.1) = true) :
    CoresNumbered s := by
  simpa [CoresNumbered, Bool.and_eq_true] using h

/-- The user state with its core changed. -/
def at_ (f : Core → Core) : State := { user with core := f core0 }
/-- A service task runs on core 0. -/
def serving : State := at_ fun c => { c with bank := .service }
/-- A pin entry. -/
def pin1 : Pin := ⟨0x8000, 0x1000, 0, 0, 0x100, 0x8000⟩
/-- Every pin entry installed. -/
def pinned (c : Core) : Core := { c with pins := Vector.replicate 8 (some pin1) }
/-- Local address 0x40, and a register that holds it. -/
def local40 : Word := 0xFF00000000000040
/-- A state with local address 0x40 in w1. -/
def pointing (s : State) : State := writeWG s (.w 1) local40
/-- Bytes at local 0x40. -/
def localBytes (n x : Nat) (s : State) : State := { s with mem := memWrite s.mem (localKey 0 0x40) n x }
/-- Page tables of context 1 that map page 1 to the frame at 0x300000, readable, writable and user. -/
def tables : List Host.Cell :=
  memWrite (memWrite (memWrite (memWrite [] 0x200000 8 0x210001) 0x210000 8 0x220001) 0x220000 8 0x221001) 0x221008 8 (0x300000 + 0xF + 2 ^ 48)
/-- The user state with those tables and the address 0x10040 of page 1 in w1. -/
def paged : State := writeWG { user with mem := tables } (.w 1) 0x10040
/-- The same with page 1 in a frame of die 1. -/
def farPaged : State := writeWG { user with mem := memWrite tables 0x221008 8 (0x3000000000 + 0xF + 2 ^ 48) } (.w 1) 0x10040
/-- The overflow task of a line waits on core 0, whose L1 holds that line in a state. -/
def overflowing (line : Nat) (st : LineState) (s : State) : State :=
  { s with core := { s.core with svcq := [⟨3, 0, BitVec.ofNat 64 (line * 128), none, false⟩],
                                 l1 := [⟨line, st, false, BitVec.allOnes 128, 0, 0, 1⟩] } }
/-- Every link out of service. -/
def cutOff (s : State) : State := { s with links := Vector.replicate 8 { Link.reset fullPart 0 with inService := false } }

/-! ### Integer, predicates, floating point, control -/

theorem witness_IntegerResultsWrapAtTheirType : Runs user al ∧ Ty.n8 ∈ tyAll := ⟨runs_of (by decide), by decide⟩

theorem witness_IntegerOrderAndDivision : Runs user al ∧ Ty.i32 ∈ tyAll ∧ opInt .i32 (readWGI user (.imm (-1))) ≠ 0 ∧
    opInt .i32 (readWGI user (.imm 0)) = 0 := ⟨runs_of (by decide), by decide⟩

/-- Unsigned and signed types; a shift by the width itself and one by less. -/
theorem witness_ShiftsAndFields : Runs user al ∧ Ty.n8 ∈ tyAll ∧ Ty.signed .n8 = false ∧ Ty.signed .i64 = true ∧
    Ty.width .n8 ≤ (readWGI user (.imm 8)).toNat ∧ ¬ Ty.width .n8 ≤ (readWGI user (.imm 7)).toNat :=
  ⟨runs_of (by decide), by decide⟩

/-- −5 < 16 holds signed and does not hold unsigned. -/
theorem witness_PredicateResults : Runs user al ∧ opInt .i32 (readWG (user2 (-5) 0) (.w 1)) < opInt .i32 (readWGIL user (.imm 16)) ∧
    ¬ opInt .n32 (readWG (user2 (-5) 0) (.w 1)) < opInt .n32 (readWGIL user (.imm 16)) := ⟨runs_of (by decide), by decide⟩

theorem witness_ScalarFloatResults : Runs user al := runs_of (by decide)

/-- BRZ and BRNZ with zero and with one; BRDEC from 1 and of g0. -/
theorem witness_BranchesGoToTheirTarget : Runs user al ∧ readWG user (.w 1) = 0 ∧ readWG (user2 1 0) (.w 1) ≠ 0 ∧
    readWG (user2 1 0) (.w 1) - 1 = 0 ∧ readWG user (.g 0) - 1 ≠ 0 := ⟨runs_of (by decide), by decide⟩

/-- Six windows below: room for one CALL more. Seven: the spill trap with room on the stack, and the fault without. RET with a window below, with
one spilled, and with none. -/
theorem witness_CallsTurnTheWindow :
    (let s := at_ fun c => { c with below := List.replicate 6 Frame.zero }
     Runs s al ∧ s.core.bank = .user ∧ s.core.loop.on = false ∧ s.core.below.length < 7 ∧ ∃ f r, s.core.below = f :: r) ∧
    (Runs deep al ∧ deep.core.loop.on = false ∧ deep.core.svcq.length < 4 ∧ 7 ≤ deep.core.below.length ∧
      deep.core.wstack.toNat + 136 ≤ deep.core.wlimit.toNat ∧ (deep.core.pins[1]).isSome = true) ∧
    (let s := at_ fun c => { c with below := List.replicate 7 Frame.zero, wstack := 0x4FF80, wlimit := 0x50000 }
     Runs s al ∧ 7 ≤ s.core.below.length ∧ s.core.wlimit.toNat < s.core.wstack.toNat + 136) ∧
    (let s := at_ fun c => { pinned c with wdepth := 1, wstack := 0x40088 }
     Runs s al ∧ s.core.below = [] ∧ s.core.wdepth ≠ 0 ∧ (s.core.pins[2]).isSome = true) ∧
    (user.core.below = [] ∧ user.core.wdepth = 0) :=
  ⟨⟨runs_of (by decide), rfl, rfl, by decide, ⟨Frame.zero, List.replicate 5 Frame.zero, rfl⟩⟩,
   ⟨runs_of (by decide), rfl, by decide⟩, ⟨runs_of (by decide), by decide⟩,
   ⟨runs_of (by decide), rfl, by decide⟩, rfl, rfl⟩

/-- No loop runs with counts 0 and 1; a loop runs. -/
theorem witness_LoopsStartAndBreak : Runs user al ∧ user.core.bank = .user ∧ user.core.loop.on = false ∧ readWGI user (.imm 0) = 0 ∧
    readWGI user (.imm 1) ≠ 0 ∧
    (let s := at_ fun c => { c with loop := ⟨0x100C, 0x1024, 3, true⟩ }
     Runs s al ∧ s.core.loop.on = true) := ⟨runs_of (by decide), rfl, rfl, by decide, by decide, runs_of (by decide), rfl⟩

/-- A join word at local 0x40: the deque empty and full; COUNT 1, 2 and 0. -/
theorem witness_ForksAndJoins :
    (let s := pointing user
     Runs s al ∧ s.core.bank = .user ∧ s.core.task = some task1 ∧ localTarget s (readWG s (.w 1)) 16 16 = .ok (localKey 0 0x40) ∧
       s.core.deque.length < 16 ∧ (∀ l ∈ s.launches, l.count + 1 < 2 ^ 32) ∧ Sound s ∧ s.core.cutGoal = none) ∧
    (let s := pointing (at_ fun c => { c with deque := List.replicate 16 info1 })
     Runs s al ∧ s.core.deque.length = 16 ∧ localTarget s (readWG s (.w 1)) 16 16 = .ok (localKey 0 0x40)) ∧
    (∀ n ∈ [0, 1, 2], let s := pointing (localBytes 4 n user)
      Runs s al ∧ Sound s ∧ BitVec.ofNat 32 (memRead (release s s.core.id .clus).mem (localKey 0 0x40) 4) = BitVec.ofNat 32 n ∧
        ∀ x ∈ s.core.l1, x.addr < 2 ^ 41) :=
  ⟨⟨runs_of (by decide), rfl, by decide, by decide +kernel, by decide, by decide +kernel, sound_of (by decide), rfl⟩,
   ⟨runs_of (by decide), by decide +kernel⟩,
   by refine each3 ?_ ?_ ?_ <;>
      exact ⟨runs_of (by decide), sound_of (by decide +kernel), by decide +kernel⟩⟩

/-- No cut names the launch; one does; the trap's pin entry is installed. -/
theorem witness_StepAndTrap : Runs user al ∧ user.core.task = some task1 ∧ cutNames user 1 0 = false ∧
    (let s := { user with cuts := [⟨[.launch 1 0], 1, [(1, 0)], [], [], [], false, 0, none, [], []⟩] }
     Runs s al ∧ cutNames s 1 0 = true ∧ s.core.cutGoal = none) ∧
    (let s := at_ pinned
     Runs s al ∧ (s.core.pins[4]).isSome = true ∧ s.core.svcq.length < 4) :=
  ⟨runs_of (by decide), rfl, by decide, ⟨runs_of (by decide), by decide, rfl⟩, runs_of (by decide), by decide⟩

/-- A launch of a known context runs; its fault queue is empty and is full; the task is not privileged. -/
theorem witness_FaultsEndTheirLaunch : Sound user ∧ user.core.bank = .user ∧ user.core.task = some task1 ∧ getCtx user 1 = some ctx1 ∧
    getLaunch user 1 0 = some launch1 ∧ ¬ 2 ^ ctx1.faultLsize.toNat ≤ (ctx1.faultWr - ctx1.faultRd).toNat ∧
    (let c := { ctx1 with faultWr := 16 }
     getCtx { user with ctxs := [c] } 1 = some c ∧ 2 ^ c.faultLsize.toNat ≤ (c.faultWr - c.faultRd).toNat) ∧
    FCode.hang ≠ .machineCheck ∧ task1.privileged = false ∧ SReg.isRP .wstack = true := ⟨sound_of (by decide), by decide +kernel⟩

/-- A vector form, one without vectors, and TRAP with its guard true. -/
theorem witness_ServiceTasksAreCheckedByMachineCheck : serving.core.bank = .service ∧ namesVector (.vclr al .i32 1) = true ∧
    Instr.gbar al ∈ [Instr.gbar al, .idle al] ∧ guardBit serving al = true := ⟨rfl, rfl, by decide +kernel⟩

/-! ### Memory -/

/-- LD and LDL at local 0x40; LDL at 2^24; a bound window read below and past its SIZE; an unbound one. -/
theorem witness_LoadsWriteWhatTheCoreSees :
    (let s := pointing user
     Runs s al ∧ Ty.n16 ∈ tyMem ∧ Found (resolve s (coreAcc s) (readWG s (.w 1) + readWGI s (.imm 4)) 2 1 false)) ∧
    (let s := paged
     Runs s al ∧ Found (resolve s (coreAcc s) (readWG s (.w 1) + readWGI s (.imm 4)) 2 1 false)) ∧
    (let s := user2 0x40 0
     (readWG s (.w 1) + readWGI s (.imm 0)).toNat < 2 ^ 24 ∧
       Found (resolve s (coreAcc s) (BitVec.ofNat 64 localBase + (readWG s (.w 1) + readWGI s (.imm 0))) 2 1 false)) ∧
    2 ^ 24 ≤ (readWG (user2 0x1000000 0) (.w 1) + readWGI user (.imm 0)).toNat ∧
    (let w : Binding := ⟨0x10000, 64, true⟩
     let s := { paged with launches := [{ launch1 with subs := [{ sub1 with windows := Vector.replicate 8 w }] }] }
     Runs s al ∧ bindingOf s 1 = some w ∧ w.size.toNat ≤ 8 * 8 ∧ Found (readWindow s 1 (8 * 1 + (readWGOpt s none).toNat) 4) ∧
       Found (readWindow s 1 (8 * 1) 32)) ∧
    (∀ w, bindingOf user 1 = some w → w.bound = false) :=
  ⟨⟨runs_of (by decide), by decide, found_iff (by decide +kernel)⟩, ⟨runs_of (by decide), found_iff (by decide +kernel)⟩,
   ⟨by decide, found_iff (by decide +kernel)⟩, by decide,
   ⟨runs_of (by decide), by decide, by decide, found_iff (by decide +kernel), found_iff (by decide +kernel)⟩,
   by intro w h; have : some w = some ⟨0, 0, false⟩ := h.symm.trans (by decide); cases this; rfl⟩

/-- Room for one store; none; STL; ZLINE at an aligned line. -/
theorem witness_StoresEnterTheStoreBuffer :
    (let s := pointing user
     Runs s al ∧ s.core.storeBuf.length < 16 ∧ Found (resolve s (coreAcc s) (readWG s (.w 1) + readWGI s (.imm 0)) 4 1 true) ∧
       Found (resolve s (coreAcc s) (readWG s (.w 1) + readWGI s (.imm 64)) 128 128 true)) ∧
    (let s := pointing (at_ fun c => { c with storeBuf := List.replicate 16 ⟨[], 1, [], true, false⟩ })
     Runs s al ∧ 16 ≤ s.core.storeBuf.length ∧ Found (resolve s (coreAcc s) (readWG s (.w 1) + readWGI s (.imm 0)) 4 1 true)) ∧
    (let s := user2 0x40 0
     (readWG s (.w 1) + readWGI s (.imm 0)).toNat < 2 ^ 24 ∧
       Found (resolve s (coreAcc s) (BitVec.ofNat 64 localBase + (readWG s (.w 1) + readWGI s (.imm 0))) 4 1 true)) :=
  ⟨⟨runs_of (by decide), by decide, found_iff (by decide +kernel), found_iff (by decide +kernel)⟩,
   ⟨runs_of (by decide), by decide, found_iff (by decide +kernel)⟩, by decide, found_iff (by decide +kernel)⟩

/-- Boundary addresses: the last byte below bit 19; bit 19; a peer of another owner, and one of the own context that is cleared and that is being
cleared; a misaligned one; the ends of the windows. -/
theorem witness_AddressesResolve :
    (let a := localBase + 0x7FFFF
     localBase ≤ a ∧ a + 1 ≤ localBase + 2 ^ 24 ∧ a % 1 = 0 ∧ (a - localBase) % 2 ^ 20 + 1 ≤ 2 ^ 19) ∧
    ((localBase + 0x80000 - localBase).testBit 19 = true ∧ (localBase + 0x41) % 8 ≠ 0) ∧
    (let peer := 8 * (0 / 8) + 0x900000 / 2 ^ 20 % 8
     (0x900000 : Nat).testBit 23 = true ∧ peer ≠ 0 ∧ (getCore user peer).owner ≠ some 1 ∧
       ∀ b ∈ [true, false], let c := getCore { user with rest := [(1, { Core.reset 1 with owner := some 1, clearing := b })] } peer
         c.owner = some 1 ∧ c.clearing = b) ∧
    ((2 : Nat) ^ 56 ≤ 2 ^ 56 ∧ (2 : Nat) ^ 56 < 0xFF00000000000000 ∧ 0xFF00000001000000 ≤ 0xFF00000001000000 ∧
      0xFF00000001000000 < 0xFF01000000000000 ∧ 2 ^ 56 - 1 < 2 ^ 56 ∧ 2 ^ 56 < 2 ^ 56 - 1 + 2 ∧ 2 ^ 56 - 1 + 2 ≤ 2 ^ 63) := by decide +kernel

theorem witness_TranslationTouchesItsLeafAlone : Sound paged ∧ Found (Machine.translate paged (coreAcc paged) 0x10040 1 true 0x10040) :=
  ⟨sound_of (by decide +kernel), found_iff (by decide +kernel)⟩

/-- A local address, an ember one, and a line of page 1. -/
theorem witness_LineInstructions :
    (let s := pointing user
     let x := (readWG s (.w 1) + readWGI s (.imm 0)).toNat
     Runs s al ∧ localBase ≤ x ∧ x < localBase + 2 ^ 24) ∧
    (let x := (readWG (user2 0xFF01000000000000 0) (.w 1)).toNat
     emberBase ≤ x ∧ x < emberBase + 2 ^ 25) ∧
    (Runs paged al ∧ ∃ l s1, lineTarget paged (readWG paged (.w 1) + readWGI paged (.imm 0)) = .ok (some l, s1)) := by
  exact ⟨⟨runs_of (by decide), by decide +kernel⟩, by decide +kernel, runs_of (by decide), found_some (by decide +kernel)⟩

/-- A list with a head of which p holds. -/
def headIs {α : Type} (l : List α) (p : α → Bool) : Bool := l.head?.any p
theorem head_is {α : Type} {l : List α} {p : α → Bool} (h : headIs l p = true) : ∃ x r, l = x :: r ∧ p x = true := by
  cases l with
  | nil => exact absurd h (by simp [headIs])
  | cons x r => exact ⟨x, r, rfl, by simpa [headIs] using h⟩

/-- A local address; a line of device memory whose overflow task waits, held as M so that resolving the address does not wait. -/
theorem witness_AtomicsReplaceWhatStood :
    (let s := atomicState 0x20 1
     Sound s ∧ Ty.i32 ∈ tyA ∧ Runs s al ∧ ∃ x l s1, resolve s (coreAcc s) (readWG s (.w 1) + readWGI s (.imm 0)) 4 4 true = .ok (x :: l, s1) ∧
       ¬ x.key < 2 ^ 48) ∧
    (let s := overflowing 0x6000 .m paged
     Sound s ∧ Runs s al ∧ ∃ x l s1, resolve s (coreAcc s) (readWG s (.w 1) + readWGI s (.imm 0)) 4 4 true = .ok (x :: l, s1) ∧
       x.key < 2 ^ 48 ∧ lineHeld s1 x.key = true) := by
  refine ⟨⟨sound_of (by decide +kernel), by decide, runs_of (by decide), ?_⟩, sound_of (by decide +kernel), runs_of (by decide), ?_⟩
  · obtain ⟨l, s1, e, k⟩ := ok_pair (x := resolve (atomicState 0x20 1) (coreAcc (atomicState 0x20 1))
      (readWG (atomicState 0x20 1) (.w 1) + readWGI (atomicState 0x20 1) (.imm 0)) 4 4 true)
      (p := fun l _ => headIs l fun x => decide (¬ x.key < 2 ^ 48)) (by decide +kernel)
    obtain ⟨x, r, rfl, k⟩ := head_is k
    exact ⟨x, r, s1, e, of_decide_eq_true k⟩
  · obtain ⟨l, s1, e, k⟩ := ok_pair (x := resolve (overflowing 0x6000 .m paged) (coreAcc (overflowing 0x6000 .m paged))
      (readWG (overflowing 0x6000 .m paged) (.w 1) + readWGI (overflowing 0x6000 .m paged) (.imm 0)) 4 4 true)
      (p := fun l s1 => headIs l fun x => decide (x.key < 2 ^ 48 ∧ lineHeld s1 x.key = true)) (by decide +kernel)
    obtain ⟨x, r, rfl, k⟩ := head_is k
    exact ⟨x, r, s1, e, of_decide_eq_true k⟩

/-- What a far LDACQ or STREL finds: a remote line, held by its overflow task or not, over a route. -/
def farSpot (s : State) (write held : Bool) : Bool :=
  okPair (resolve s (coreAcc s) (readWG s (.w 1) + readWGI s (.imm 0)) 4 4 write) fun l s1 =>
    (l.any fun y => remoteKey s.core.id y.key) && headIs l (fun y => reaches s1 (outDie s.core.id) (keyDie y.key)) &&
      (l.any fun y => lineHeld s1 y.key) == held
theorem far_spot {s : State} {write held : Bool} (h : farSpot s write held = true) :
    ∃ l s1 key, resolve s (coreAcc s) (readWG s (.w 1) + readWGI s (.imm 0)) 4 4 write = .ok (l, s1) ∧
      (l.any fun y => remoteKey s.core.id y.key) = true ∧ (l.head?).map Spot.key = some key ∧
      reaches s1 (outDie s.core.id) (keyDie key) = true ∧ (l.any fun y => lineHeld s1 y.key) = held := by
  obtain ⟨l, s1, e, k⟩ := ok_pair h
  rw [Bool.and_eq_true, Bool.and_eq_true] at k
  obtain ⟨x, r, rfl, k2⟩ := head_is k.1.2
  exact ⟨x :: r, s1, x.key, e, k.1.1, rfl, k2, beq_iff_eq.mp k.2⟩
/-- A gang of cores 0 and 1. -/
def gang2 : Gang := ⟨1, 0, 0⟩
/-- A member of it runs on each of the two; core 1's has arrived at the barrier, or not. -/
def ganged (arrived : Bool) : State :=
  let t := { task1 with info := { info1 with gang := some gang2 } }
  { (at_ fun c => { c with task := some t }) with
    rest := [(1, { Core.reset 1 with task := some { t with info := { t.info with gangm := 1 } }, owner := some 1, atBarrier := arrived })] }

/-- A local address for LDACQ and STREL; a remote line, free and held by its overflow task; WAITA with GEN equal and not; a task of no gang, and a
member whose neighbour has arrived and has not. -/
theorem witness_AcquireReleaseAndFences :
    (let s := pointing user
     Runs s al ∧ Ty.i32 ∈ tyMem ∧ Found (resolve s (coreAcc s) (readWG s (.w 1) + readWGI s (.imm 0)) 4 4 false) ∧
       Found (resolve s (coreAcc s) (readWG s (.w 1) + readWGI s (.imm 0)) 4 4 true) ∧ wideScope .die = false ∧ wideScope .sys = true) ∧
    (let s := pointing (localBytes 8 7 user)
     let gen := ofBytes ((List.range 2).map fun i => viewByte s.mem s.core ⟨localKey 0 0x40 + i, false⟩)
     Runs s al ∧ localTarget s (readWG s (.w 1) + readWGI s (.imm 0)) 8 8 = .ok (localKey 0 0x40) ∧
       gen = (readWGI s (.imm 7)).toNat % 2 ^ 16 ∧ gen ≠ (readWGI s (.imm 8)).toNat % 2 ^ 16) ∧
    (user.core.task = some task1 ∧ task1.info.gang = none) ∧
    (∀ w ∈ [false, true], ∀ b ∈ [false, true], let s := if b then overflowing 0x60000000 .rc farPaged else farPaged
     Runs s al ∧ Sound s ∧ ∃ l s1 key, resolve s (coreAcc s) (readWG s (.w 1) + readWGI s (.imm 0)) 4 4 w = .ok (l, s1) ∧
       (l.any fun y => remoteKey s.core.id y.key) = true ∧ (l.head?).map Spot.key = some key ∧
       reaches s1 (outDie s.core.id) (keyDie key) = true ∧ (l.any fun y => lineHeld s1 y.key) = b) ∧
    (∀ b ∈ [false, true], let s := ganged b
     Runs s al ∧ s.core.bank = .user ∧ Sound s ∧ (s.core.task.bind fun k => k.info.gang) = some gang2 ∧ s.core.id ∈ gangCores gang2 ∧
       s.core.runq = [] ∧ ((∃ j ∈ gangCores gang2, j ≠ s.core.id ∧ notArrived gang2 1 0 (getCore s j) = true) ↔ b = false)) := by
  refine ⟨⟨runs_of (by decide), by decide, found_iff (by decide +kernel), found_iff (by decide +kernel), by decide⟩,
   ⟨runs_of (by decide), by decide +kernel⟩, ⟨rfl, rfl⟩, ?_, ?_⟩
  · refine each2 (each2 ?_ ?_) (each2 ?_ ?_) <;>
      exact ⟨runs_of (by decide), sound_of (by decide +kernel), far_spot (by decide +kernel)⟩
  · refine each2 ?_ ?_ <;>
      exact ⟨runs_of (by decide), rfl, sound_of (by decide +kernel), by decide +kernel⟩

/-! ### Vectors -/

theorem laneOn_of {s : State} {h : Hdr} {L : Nat} (x : (guardMask s h).getLsbD L = true) : LaneOn s h L := x

/-- A coal handler runs on core 0. -/
def coal : State := at_ fun c => { c with bank := .coal }

/-- The vector queue performs the user task's commands at once, with room for one more. -/
theorem user_open : VecOpen user := ⟨rfl, by decide +kernel⟩
theorem pointing_open : VecOpen (pointing user) := ⟨rfl, by decide +kernel⟩

/-- In a task, and in a coal handler with operands of its bank; lane 0 active. -/
theorem witness_VectorIntegerLanes : VectorRuns user al (vHigh 9 || (vHigh 10 || vsBad (.v 11))) ∧
    VectorRuns coal al (vHigh 1 || (vHigh 2 || vsBad (.v 7))) ∧ Ty.i32 ∈ tyAll ∧ LaneOn user al 0 :=
  ⟨.inl user_open, .inr ⟨rfl, by decide⟩, by decide, laneOn_of (by decide +kernel)⟩

/-- A register that passes the block check, and formats in the lists. -/
theorem witness_VectorFloatLanes : VectorRuns user al (vHigh 9 || vHigh 10) ∧ VectorRuns coal al (vHigh 1 || (vHigh 7 || isWReg (.g 2))) ∧
    Ty.b16 ∈ tyFv ∧ Ty.i16 ∈ [Ty.i8, .i16, .i32] ∧ Ty.n8 ∈ [Ty.n8, .n16, .n32] ∧ Ty.h16 ∈ [Ty.f32, .b16, .h16] ∧
    blkCheck .b8 (readV user 3).toNat = none ∧ (1 : BitVec 6).toNat < 2 :=
  ⟨.inl user_open, .inr ⟨rfl, by decide⟩, by decide +kernel⟩

theorem witness_VectorSumsAndComparisons : VectorRuns user al (vHigh 4 || (vHigh 10 || vsBad (.imm 3))) ∧ Ty.n8 ∈ tyB8i ∧ (4 : V).val % 4 = 0 ∧
    VectorRuns coal al (pHigh 1 || vHigh 7 || vsBad (.v 0)) ∧ VecOpen user :=
  ⟨.inl user_open, by decide, by decide, .inr ⟨rfl, by decide⟩, user_open⟩

/-- Own local 0x40 for each of the three; a place that is none of the core's; on core 7 bytes that leave the window; a misaligned place; LA[19] set,
and bytes past 512 KiB. -/
theorem witness_LongAccumulator : Runs user al ∧ VecOpen user ∧ Sound user ∧
    ownLocal 0 local40 80 true = some 0x40 ∧ local40.toNat % 16 = 0 ∧ namesOwn 0 0x1000 true = false ∧
    (let s := at_ fun c => { c with id := 7 }
     Runs s al ∧ VecOpen s ∧ Sound s ∧ namesOwn s.core.id 0xFF00000000FFFFF0 true = true ∧
       localBase + 2 ^ 24 < (0xFF00000000FFFFF0 : Word).toNat + 80) ∧
    (namesOwn 0 (local40 + 8) true = true ∧ (local40 + 8).toNat + 80 ≤ localBase + 2 ^ 24 ∧ (local40 + 8).toNat % 16 ≠ 0) ∧
    ([(0xFF00000000080000 : Word), 0xFF0000000007FFC0].all fun x => namesOwn 0 x true &&
      decide (x.toNat + 80 ≤ localBase + 2 ^ 24 ∧ x.toNat % 16 = 0 ∧ ownLocal 0 x 80 true = none)) = true :=
  ⟨runs_of (by decide), user_open, sound_of (by decide), by decide +kernel, by decide +kernel, by decide +kernel,
   ⟨runs_of (by decide), ⟨rfl, by decide +kernel⟩, sound_of (by decide), by decide +kernel⟩, by decide +kernel⟩

/-! ### Vector memory, rings, messages -/

/-- A zero block lies at local 0x40: VLD, VLD2, VLDS, VGATH and VLDB. -/
theorem witness_VectorLoads :
    let s := pointing user
    VecOpen s ∧ vecAddr s (.reg (.w 1)) (.imm 0) false = .ok local40 ∧
    (∃ l s1, wholeLanes s al .i32 local40 false = .ok (l, s1) ∧ ∃ m s2, wholeLanes s1 al .i32 (local40 + 64) false = .ok (m, s2)) ∧
    pairAddr s (.reg (.w 1)) (.imm 0) 1 = .ok (local40, local40 + 64) ∧
    (∃ l s1, resolveLanes s 4 4 false (stridedLanes s al .i32 (.w 1) (.imm 8)) = .ok (l, s1)) ∧
    (∃ l s1, resolveLanes s 4 4 false (gatheredLanes s al .i32 (.w 1) 2) = .ok (l, s1)) ∧
    (∃ l s1, wholeLanes s al .n8 local40 false = .ok (l, s1) ∧ ∃ hd s2, resolve s1 (coreAcc s1) local40 4 1 false = .ok (hd, s2) ∧
      blkCheck .b4 (ofBytes (hd.map fun z => viewByte s2.mem s2.core z)) = none) ∧ LaneOn s al 0 := by
  refine ⟨pointing_open, by decide +kernel, ?_, by decide +kernel, ?_, ?_, ?_, laneOn_of (by decide +kernel)⟩
  · obtain ⟨l, s1, h, k⟩ := ok_pair (x := wholeLanes (pointing user) al .i32 local40 false)
      (p := fun _ s1 => okPair (wholeLanes s1 al .i32 (local40 + 64) false) fun _ _ => true) (by decide +kernel)
    obtain ⟨m, s2, h2, _⟩ := ok_pair k
    exact ⟨l, s1, h, m, s2, h2⟩
  · obtain ⟨l, s1, h, _⟩ := ok_pair (x := resolveLanes (pointing user) 4 4 false (stridedLanes (pointing user) al .i32 (.w 1) (.imm 8)))
      (p := fun _ _ => true) (by decide +kernel)
    exact ⟨l, s1, h⟩
  · obtain ⟨l, s1, h, _⟩ := ok_pair (x := resolveLanes (pointing user) 4 4 false (gatheredLanes (pointing user) al .i32 (.w 1) 2))
      (p := fun _ _ => true) (by decide +kernel)
    exact ⟨l, s1, h⟩
  · obtain ⟨l, s1, h, k⟩ := ok_pair (x := wholeLanes (pointing user) al .n8 local40 false)
      (p := fun _ s1 => okPair (resolve s1 (coreAcc s1) local40 4 1 false) fun hd s2 =>
        (blkCheck .b4 (ofBytes (hd.map fun z => viewByte s2.mem s2.core z))).isNone) (by decide +kernel)
    obtain ⟨hd, s2, h2, k2⟩ := ok_pair k
    exact ⟨l, s1, h, hd, s2, h2, Option.isNone_iff_eq_none.mp k2⟩

/-- At local 0x40 with every lane, and with none under p1, which is zero. -/
theorem witness_VectorStores :
    let s := pointing user
    let off : Hdr := ⟨false, 1, 0⟩
    VecOpen s ∧ s.core.storeBuf.length < 16 ∧ vecAddr s (.reg (.w 1)) (.imm 0) true = .ok local40 ∧
    (∃ l s1, wholeLanes s al .i32 local40 true = .ok (l, s1)) ∧
    (∃ l s1, resolveLanes s 4 4 true (stridedLanes s al .i32 (.w 1) (.imm 8)) = .ok (l, s1)) ∧
    (∃ l s1, resolveLanes s 4 4 true (gatheredLanes s al .i32 (.w 1) 2) = .ok (l, s1)) ∧
    (∃ l s1, wholeLanes s off .i32 local40 true = .ok (l, s1) ∧ l.isEmpty = true) := by
  refine ⟨pointing_open, by decide, by decide +kernel, ?_, ?_, ?_, ?_⟩
  · obtain ⟨l, s1, h, _⟩ := ok_pair (x := wholeLanes (pointing user) al .i32 local40 true) (p := fun _ _ => true) (by decide +kernel)
    exact ⟨l, s1, h⟩
  · obtain ⟨l, s1, h, _⟩ := ok_pair (x := resolveLanes (pointing user) 4 4 true (stridedLanes (pointing user) al .i32 (.w 1) (.imm 8)))
      (p := fun _ _ => true) (by decide +kernel)
    exact ⟨l, s1, h⟩
  · obtain ⟨l, s1, h, _⟩ := ok_pair (x := resolveLanes (pointing user) 4 4 true (gatheredLanes (pointing user) al .i32 (.w 1) 2))
      (p := fun _ _ => true) (by decide +kernel)
    exact ⟨l, s1, h⟩
  · exact ok_pair (x := wholeLanes (pointing user) ⟨false, 1, 0⟩ .i32 local40 true) (p := fun l _ => l.isEmpty) (by decide +kernel)

/-- A ring of four slots at its bounds: full, empty, three filled and one arrived; and no ring. -/
theorem witness_RingsAdvance :
    let ring := fun (filled : BitVec 7) (arrived : BitVec 64) => at_ fun c =>
      { c with rings := Vector.replicate 16 ⟨4, 1, 0x100, true, arrived, filled, 1, 3⟩ }
    let q : Ring := ⟨0, 0, 0⟩
    let r := fun (s : State) => s.core.rings[q.ring.val]
    Runs (ring 4 0) al ∧ ringK q = 1 ∧ (r (ring 4 0)).valid = true ∧ ringK q ≤ (r (ring 4 0)).count.toNat ∧ ringK q ≤ (r (ring 4 0)).filled.toNat ∧
    (r (ring 0 0)).filled.toNat < ringK q ∧ (r (ring 3 0)).filled.toNat + ringK q ≤ (r (ring 3 0)).count.toNat ∧ (r (ring 3 0)).arrived = 0 ∧
    (r (ring 2 1)).filled.toNat + ringK q ≤ (r (ring 2 1)).count.toNat ∧ (r user).valid = false :=
  ⟨runs_of (by decide), by decide⟩

/-- Core 1 of the cluster belongs to the same context; the control word names it, with tag 7. -/
def sending : State := writeWG { pointing user with rest := [(1, { Core.reset 1 with owner := some 1 })] } (.w 2) 0x70001

/-- SEND and SENDL with 0 and 4095 beats' bounds, release and not, into an empty network and one with a message; the tail gone; a core of no context. -/
theorem witness_SendsPutOneMessageInTheNetwork :
    Runs sending al ∧ (let w := readWG sending (.w 2)
      let dest := (w.extractLsb' 0 11).toNat
      w.extractLsb' 32 32 = 0 ∧ w.extractLsb' 11 5 = 0 ∧ coreEnabled sending dest = true ∧ (getCore sending dest).owner = some (curCtx sending) ∧
        reaches sending (dieOf sending.core.id) (dieOf dest) = true) ∧
    sending.core.sending = none ∧ sending.network = [] ∧
    (let s := { sending with network := [⟨⟨0, 2, false, .core, 1, 7⟩, 0, 1, [1, 2], none, false⟩] }
     Runs s al ∧ s.network ≠ [] ∧ s.core.sending = none) ∧ (2 : Nat) ≤ 4095 ∧ ordRel .rlx = false ∧ ordRel .ar = true ∧
    ownTarget sending (readWG sending (.w 1)) (max 1 (64 * 2)) 64 false = .ok 0x40 ∧
    ownTarget sending (readWG sending (.w 1)) (max 1 (64 * 0)) 64 false = .ok 0x40 ∧
    (let s := { sending with core := { sending.core with sending := some false } }
     Runs s al ∧ s.core.sending = some false) ∧
    (let s := { sending with rest := [] }
     Runs s al ∧ (getCore s 1).owner ≠ some (curCtx s) ∧ coreEnabled s 1 = true) :=
  ⟨runs_of (by decide), by decide +kernel, by decide, rfl, ⟨runs_of (by decide), by simp, by decide⟩, by decide, by decide, by decide,
   by decide +kernel, by decide +kernel,
   ⟨runs_of (by decide), by decide⟩, runs_of (by decide), by decide +kernel⟩

/-- The header of a message of two beats. -/
def hdr2 : MsgHdr := ⟨0, 2, false, .core, 1, 7⟩
/-- Its channel with some beats. -/
def chan2 (beats : List VReg) (arrived : Nat) : Channel := ⟨hdr2, 1, beats, arrived, false, none, false, 0x1000, 0, 0⟩
/-- A handler of that message runs on core 0, channel 3. -/
def streaming (beats : List VReg) (arrived : Nat) : State := at_ fun c =>
  { c with task := some { task1 with info := { info1 with msg := some hdr2, chan := some 3 } }, chans := (Vector.replicate 8 []).set 3 [chan2 beats arrived] }

/-- Both beats there; one there; none there and one to come; all there for CHEND. -/
theorem witness_StreamsConsumeTheirMessage :
    (let s := streaming [1, 2] 2
     VecOpen s ∧ (s.core.task.map fun k => (k.info.chan, k.info.msg)) = some (some 3, some hdr2) ∧
       s.core.chans[3] = [chan2 [1, 2] 2] ∧ (chan2 [1, 2] 2).discard = false ∧ LaneOn s al 0 ∧ hdr2.len.toNat ≤ 2 ∧ guardBit s al = true ∧ (1 : V) ≠ 2) ∧
    (let s := streaming [1] 1
     s.core.chans[3] = [chan2 [1] 1] ∧ guardBit s al = true) ∧
    (let s := streaming [] 1
     s.core.chans[3] = [chan2 [] 1] ∧ 1 < hdr2.len.toNat) ∧
    (chan2 [1, 2] 2).waiting = false :=
  ⟨⟨⟨rfl, by decide +kernel⟩, by decide +kernel, by decide +kernel, rfl, laneOn_of (by decide +kernel), by decide⟩, ⟨by decide +kernel, by decide⟩, ⟨by decide +kernel, by decide⟩, rfl⟩

/-! ### Engines -/

/-- A matrix command of the running task: MZERO of rows 0 to 127, blocks 7 to 7. -/
def mzero1 : MatrixCmd := ⟨.mzero, 127, recordOf user 0x700 0 0 0, none, 0, false, false⟩
/-- MLDA from an address of no core: it faults. -/
def mlda1 : MatrixCmd := ⟨.mlda .i8 .i8, 0, recordOf user 0 0x1000 0 0, none, 0, false, false⟩
/-- A copy of 64 bytes from local 0x40 to 0x140, tag 5. -/
def copy1 : Copy := ⟨.cpy, .core, local40, 0, 64 + 5 * 2 ^ 32, .addr (local40 + 0x100), recordOf user 0 0 0 0, [], [], [], false⟩
/-- No launch's counter is near its end. -/
abbrev counts (s : State) : Prop := ∀ l ∈ s.launches, l.count + 1 < 2 ^ 32
theorem user_counts : counts user := by decide +kernel

/-- Queues empty, with one and with two commands; a register and a ring as the destination. -/
theorem witness_CommandsEnterTheirQueue : Runs user al ∧ counts user ∧ user.core.mq.length < 2 ∧ user.core.cq.length < 2 ∧
    (at_ fun c => { c with mq := [mzero1] }).core.mq.length < 2 ∧
    (let s := at_ fun c => { c with mq := [mzero1, mzero1] }
     Runs s al ∧ counts s ∧ 2 ≤ s.core.mq.length) ∧
    copyDest user (.reg (.w 1)) = .ok (.addr (readWG user (.w 1)), readWG user (.w 1)) ∧
    (let s := at_ fun c => { c with rings := Vector.replicate 16 ⟨4, 1, 0x100, true, 0, 3, 1, 3⟩ }
     Runs s al ∧ ∃ dest dw, copyDest s (.ring ⟨0, 0, 0⟩) = .ok (dest, dw)) := by
  refine ⟨runs_of (by decide), user_counts, by decide, by decide, by decide, ⟨runs_of (by decide), by decide +kernel⟩, rfl,
    runs_of (by decide), ?_⟩
  obtain ⟨d, w, h, _⟩ := ok_pair (x := copyDest (at_ fun c => { c with rings := Vector.replicate 16 ⟨4, 1, 0x100, true, 0, 3, 1, 3⟩ }) (.ring ⟨0, 0, 0⟩))
    (p := fun _ _ => true) (by decide +kernel)
  exact ⟨d, w, h⟩

/-- No command, and one of each; the copy's own tag and another. -/
theorem witness_EngineWaitsAndStates : Runs user al ∧ matrixPending user = false ∧
    (let s := at_ fun c => { c with mq := [mzero1], cq := [copy1] }
     Runs s al ∧ matrixPending s = true ∧ (∃ x ∈ s.core.cq ++ s.core.flight, field x.ctl.toNat 32 7 = (readWGI s (.imm 5)).toNat % 128) ∧
       ∀ x ∈ s.core.cq ++ s.core.flight, ¬ field x.ctl.toNat 32 7 = (readWGI s (.imm 6)).toNat % 128) :=
  ⟨runs_of (by decide), by decide, runs_of (by decide), by decide +kernel⟩

/-- A vector command that the engine has performed, and one that waits with its operands. -/
def vec1 (todo : Option VecTodo) : VecCmd := ⟨1, 0, 0, 0, todo⟩
/-- A waiting load of v1 from w1. -/
def loadTodo : VecTodo := vecTodo core0 (.vld al .i32 1 (.reg (.w 1)) (.imm 0))
/-- A record issued after one vector command. -/
def later (r : OpRec) : OpRec := { r with behind := 1 }
/-- The MGANG of member j of the gang of cores 0 and 1: one row at local 0x40. -/
def gangCmd (j : Nat) : MatrixCmd := ⟨.mgang .i8 .i8, 0, { recordOf user 0 local40 0 0 with core := j }, some gang2, j, false, false⟩
/-- Its operand latch. -/
def latch8 : Latch := ⟨.i8, .i8, []⟩
/-- Cores 0 and 1 with a member each, changed. -/
def teamed (f : Nat → Core → Core) (e : Event) : State :=
  let s := ganged false
  { s with core := f 0 s.core, rest := s.rest.map (fun p => (p.1, f p.1 p.2)), now := some e }

/-- An MGANG whose other member has ended; that is not at the head of its queue; that both have there; and that both run. -/
theorem witness_MatrixEngine_gangs :
    gangTypes (gangCmd 0) = some (.i8, .i8) ∧ (gangCmd 0).gang = some gang2 ∧ 0 ∈ gangCores gang2 ∧
    (let s := teamed (fun j c => if j = 0 then { c with mq := [gangCmd 0] } else { c with task := none }) (.matrixCmdStart 0)
     Sound s ∧ EngineReady s 0 (gangCmd 0).rcd ∧ (getCore s 0).mrun = none ∧ (getCore s 0).mq = [gangCmd 0] ∧
       engineWaits s 0 (gangCmd 0).rcd = false ∧ memberGone gang2 1 0 (getCore s 1) = true) ∧
    (let s := teamed (fun j c => if j = 0 then { c with mq := [gangCmd 0] } else c) (.matrixCmdStart 0)
     Sound s ∧ EngineReady s 0 (gangCmd 0).rcd ∧ (getCore s 0).mq = [gangCmd 0] ∧ engineWaits s 0 (gangCmd 0).rcd = false ∧
       (∀ j ∈ gangCores gang2, memberGone gang2 1 0 (getCore s j) = false) ∧ matrixHead s 1 = none) ∧
    (let s := teamed (fun j c => { c with mq := [gangCmd j], latch := some latch8 }) (.matrixCmdStart 0)
     Sound s ∧ EngineReady s 0 (gangCmd 0).rcd ∧ (getCore s 0).mq = [gangCmd 0] ∧ engineWaits s 0 (gangCmd 0).rcd = false ∧
       (∀ j ∈ gangCores gang2, memberGone gang2 1 0 (getCore s j) = false) ∧
       ∀ j ∈ gangCores gang2, matrixHead s j = some (gangCmd j) ∧ sameGang (gangCmd 0) (gangCmd j) = true ∧
         gangFits s .i8 .i8 0 2 j (gangCmd j) = true) ∧
    (let s := teamed (fun j c => { c with mrun := some (gangCmd j), latch := some latch8 }) (.matrixCmdComplete 0)
     Sound s ∧ EngineReady s 0 (gangCmd 0).rcd ∧ ∀ j ∈ gangCores gang2, (getCore s j).mrun = some (gangCmd j) ∧ (getCore s j).latch = some latch8 ∧
       found (matrixRows s.mem j .i8 (gangCmd j)) = true) := by
  refine ⟨rfl, rfl, by decide, ⟨sound_of (by decide +kernel), ready_of (by decide +kernel), ?_⟩, ⟨sound_of (by decide +kernel),
    ready_of (by decide +kernel), ?_⟩, ⟨sound_of (by decide +kernel), ready_of (by decide +kernel), ?_⟩,
    ⟨sound_of (by decide +kernel), ready_of (by decide +kernel), ?_⟩⟩ <;> decide +kernel

/-- MZERO behind a vector load; waiting; and running; MLDA of an address of no core runs. -/
theorem witness_MatrixEngine :
    (let m := { mzero1 with rcd := later mzero1.rcd }
     let s := { (at_ fun c => { c with mq := [m], vq := [vec1 (some loadTodo)] }) with now := some (.matrixCmdStart 0) }
     EngineReady s 0 m.rcd ∧ (getCore s 0).mrun = none ∧ (getCore s 0).mq = [m] ∧ engineWaits s 0 m.rcd = true) ∧
    (let s := { (at_ fun c => { c with mq := [mzero1] }) with now := some (.matrixCmdStart 0) }
     EngineReady s 0 mzero1.rcd ∧ (getCore s 0).mrun = none ∧ (getCore s 0).mq = [mzero1] ∧ engineWaits s 0 mzero1.rcd = false ∧ gangTypes mzero1 = none) ∧
    (let s := { (at_ fun c => { c with mrun := some mzero1 }) with now := some (.matrixCmdComplete 0) }
     EngineReady s 0 mzero1.rcd ∧ (getCore s 0).mrun = some mzero1 ∧ Found (performMatrix s 0 mzero1)) ∧
    (let s := { (at_ fun c => { c with mrun := some mlda1 }) with now := some (.matrixCmdComplete 0) }
     EngineReady s 0 mlda1.rcd ∧ (getCore s 0).mrun = some mlda1 ∧ gangTypes mlda1 = none ∧ ∃ e, performMatrix s 0 mlda1 = .error e) := by
  refine ⟨⟨ready_of (by decide +kernel), by decide +kernel⟩,
    ⟨ready_of (by decide +kernel), by decide +kernel, by decide +kernel, by decide +kernel, rfl⟩,
    ⟨ready_of (by decide +kernel), by decide +kernel, found_iff (by decide +kernel)⟩,
    ⟨ready_of (by decide +kernel), by decide +kernel, rfl, ?_⟩⟩
  have h : found (performMatrix { (at_ fun c => { c with mrun := some mlda1 }) with now := some (.matrixCmdComplete 0) } 0 mlda1) = false := by decide +kernel
  revert h
  cases performMatrix { (at_ fun c => { c with mrun := some mlda1 }) with now := some (.matrixCmdComplete 0) } 0 mlda1 with
  | ok a => intro h; exact absurd h (by simp [found])
  | error e => intro _; exact ⟨e, rfl⟩

theorem witness_MatrixCommandsKeepToTheirCore : Sound user ∧ Found (performMatrix user 0 mzero1) :=
  ⟨sound_of (by decide +kernel), found_iff (by decide +kernel)⟩

/-- The waiting command: VFABS of v2 into v1, on a core whose v2 holds −1.0 in lane 0. -/
def absTodo : VecTodo := vecTodo core0 (.vfabs al .f32 1 2)
/-- Whether a computation gives a next state. -/
def goesOn (o : Host.Outcome State Fault Refusal) : Bool :=
  match o with
  | .next _ => true
  | .fault _ => false
  | .refused _ => false
theorem goes_on {o : Host.Outcome State Fault Refusal} (h : goesOn o = true) : ∃ t, o = .next t := by
  cases o with
  | next t => exact ⟨t, rfl⟩
  | fault f => exact absurd h (by simp [goesOn])
  | refused r => exact absurd h (by simp [goesOn])

/-- The copy with an arrival word at local 0x300. -/
def copyAw : Copy := { copy1 with ctl := copy1.ctl + 2 ^ 39 + 0x300 * 2 ^ 40 }
/-- Its beat completes over a word of that value. -/
def arriving (word : Nat) : State :=
  { (at_ fun c => { c with flight := [copyAw] }) with now := some (.copyBeatComplete 0 0 0), mem := memWrite [] (localKey 0 0x300) 8 word }

/-- A beat with an arrival word whose target it does not reach, and reaches. -/
theorem witness_CopyEngine_arrival : cpAw copyAw = some 0x300 ∧ copyEnded copyAw = false ∧
    ∀ p ∈ [(0, false), (2 ^ 40, true)], let s := arriving p.1
      EngineReady s 0 copyAw.rcd ∧ (getCore s 0).flight[0]? = some copyAw ∧
      okPair (moveBeat s copyAw (pickBeat copyAw 0) fun _ _ => true) (fun n x =>
        okPair ((arrivalAt x.2.2 (engineAcc x.2.2 copyAw.rcd) (beatArrival copyAw 0x300 x.1)).map fun key => (key, ())) fun key _ =>
          (arrivalStep (memRead x.2.2.mem key 8) n).2 == p.2 && (getCore x.2.2 0).storeBuf.isEmpty && (getCore x.2.2 0).l1.isEmpty) = true := by
  refine ⟨by decide, by decide +kernel, ?_⟩
  refine each2 ?_ ?_ <;> exact ⟨ready_of (by decide +kernel), by decide +kernel⟩

/-- The copy queued, behind a vector load and not; in flight, and with its one beat done; a vector command performed, and one that waits, with which another queues. -/
theorem witness_CopyEngine :
    (let x := { copy1 with rcd := later copy1.rcd }
     let s := { (at_ fun c => { c with cq := [x], vq := [vec1 (some loadTodo)] }) with now := some (.copyCmdAccept 0) }
     EngineReady s 0 x.rcd ∧ (getCore s 0).cq = [x] ∧ engineWaits s 0 x.rcd = true) ∧
    (let s := { (at_ fun c => { c with cq := [copy1] }) with now := some (.copyCmdAccept 0) }
     EngineReady s 0 copy1.rcd ∧ (getCore s 0).cq = [copy1] ∧ engineWaits s 0 copy1.rcd = false ∧ (getCore s 0).flight.length < 128 ∧
       startCopy (modCore (drainAll s 0) 0 fun c => { c with cq := [] }) copy1 = .ok copy1 ∧ beatCount copy1 ≠ 0) ∧
    (let s := { (at_ fun c => { c with flight := [copy1] }) with now := some (.copyBeatComplete 0 0 0) }
     EngineReady s 0 copy1.rcd ∧ (getCore s 0).flight[0]? = some copy1 ∧ copyEnded copy1 = false ∧ cpAw copy1 = none ∧
       Found (moveBeat s copy1 (pickBeat copy1 0) fun _ _ => true)) ∧
    (let s := { (at_ fun c => { c with flight := [{ copy1 with done := [0] }] }) with now := some (.copyComplete 0 0) }
     (getCore s 0).flight[0]? = some { copy1 with done := [0] } ∧ copyEnded { copy1 with done := [0] } = true) ∧
    (∀ t ∈ [none, some absTodo], let s := { (at_ fun c => { c with vq := [vec1 t] }) with now := some (.vectorCmdTake 0) }
     (getCore s 0).vq = [vec1 t] ∧ workHeld s 1 0 = false ∧ enginesRun s 0 = true) ∧
    (let s := at_ fun c => { c with vq := [vec1 (some absTodo)] }
     s.core.bank = .user ∧ s.core.vq.length < 2 ∧ vecWaits s.core = true ∧ counts s) ∧
    (let s := { (at_ fun c => { c with vq := [vec1 (some absTodo)] }) with now := some (.vectorCmdTake 0) }
     vecReady s = some ([], vec1 (some absTodo), absTodo, []) ∧ ∃ u, exec absTodo.instr (vecStart s (vec1 (some absTodo)) absTodo) = .next u) :=
  ⟨⟨ready_of (by decide +kernel), by decide +kernel⟩,
   ⟨ready_of (by decide +kernel), by decide +kernel⟩,
   ⟨ready_of (by decide +kernel), by decide +kernel, by decide +kernel, by decide +kernel, found_iff (by decide +kernel)⟩,
   ⟨by decide +kernel, by decide +kernel⟩, by
     refine each2 ?_ ?_ <;> exact by decide +kernel,
   ⟨rfl, by decide +kernel⟩, by decide +kernel, goes_on (by decide +kernel)⟩

/-- A clamp of nine elements: skip bits at 0x100, coals at 0x200, elements at 0x400. -/
def clamp9 : Clamp := ⟨0x2000, 0x100, 0x200, 0x400, 8, 3, 0, 2, false, true, true, 1, 0⟩
/-- Core 0 has it as clamp 0. -/
def raking (f : Core → Core) : State := at_ fun c => f { c with clamps := Vector.replicate 4 clamp9 }
/-- A sweep of clamp 0. -/
def sweep0 (pos : Option Nat) (running : Bool) : Sweep := ⟨0, pos, running, [], recordOf user 0 0 0 0, []⟩

/-- No sweep and one, of a clamp that is declared; the last element waits, and is done, with no sweep, before the position of one, at it between
handlers, and at a running one; a handler runs at the last beat. -/
theorem witness_RakeInstructions : Sound user ∧ Runs user al ∧ user.core.kq.length < 2 ∧ counts user ∧ sweeping user.core 0 = false ∧
    (let s := raking fun c => { c with sweep := some (sweep0 none false) }
     Runs s al ∧ clampOf s.core 0 = some clamp9 ∧ sweeping s.core 0 = true) ∧
    (let s := raking id
     Runs s al ∧ s.core.storeBuf = [] ∧ s.core.sweep = none ∧ clampOf s.core 0 = some clamp9 ∧ (readWGI s (.imm 8)).toNat < clamp9.size ∧
       memGet s.mem (coalKey 0 clamp9 8) ≠ 1 ∧ memGet s.mem (coalKey 0 clamp9 8) ≠ 2 ∧
       skipKey 0 clamp9 8 ≠ coalKey 0 clamp9 8 ∧ skipKey 0 clamp9 8 ≠ coalKey 0 clamp9 8 + 1) ∧
    (∀ p ∈ [(0, true), (1, false), (1, true)], let s := raking fun c => { c with sweep := some (sweep0 (some p.1) p.2) }
     Runs s al ∧ Sound s ∧ s.core.storeBuf = [] ∧ s.core.sweep = some (sweep0 (some p.1) p.2) ∧ (sweep0 (some p.1) p.2).c = 0 ∧
       (p.1 < 8 / 8 ↔ p = (0, true)) ∧ clampOf s.core 0 = some clamp9) ∧
    (let s := { raking id with mem := memWrite [] (coalKey 0 clamp9 8) 1 1 }
     Sound s ∧ memGet s.mem (coalKey 0 clamp9 8) = 1 ∧ skipKey 0 clamp9 8 ≠ coalKey 0 clamp9 8) ∧
    (let s := raking fun c => { c with bank := .coal, sweep := some (sweep0 (some 1) true) }
     Sound s ∧ s.core.bank = .coal ∧ guardBit s al = true ∧ al.gp.val < 2 ∧ s.core.sweep = some (sweep0 (some 1) true) ∧
       clampOf s.core 0 = some clamp9 ∧ s.core.coal.p1 = 0) :=
  ⟨sound_of (by decide), runs_of (by decide), by decide, user_counts, by decide, ⟨runs_of (by decide), rfl, by decide⟩,
   ⟨runs_of (by decide), rfl, rfl, rfl, by decide +kernel⟩,
   by
     refine each3 ?_ ?_ ?_ <;>
       exact ⟨runs_of (by decide), sound_of (by decide +kernel), rfl, by decide +kernel, rfl, by decide +kernel⟩,
   ⟨sound_of (by decide +kernel), by decide +kernel⟩, ⟨sound_of (by decide), rfl, by decide +kernel, by decide, rfl, rfl, by decide +kernel⟩⟩

/-- A declaration of clamp 0 from a block at local 0x40, whose command was issued after some vector commands. -/
def declaring (x : Nat) (f : Core → Core) : State :=
  { (at_ fun c => f { c with kq := [.decl 0 (recordOf user 0 local40 0 0)] }) with
    now := some (.rakeCmdTake 0), mem := memWrite [] (localKey 0 0x40) 32 x }
/-- The block of the clamp above, with some bits changed. -/
def clampBlock (x : Nat) : Nat := x + 0x2000 + 0x400 * 2 ^ 64 + 0x200 * 2 ^ 83 + 0x100 * 2 ^ 102 + 8 * 2 ^ 128

/-- A block in order; with a reserved bit; over a record of another launch; with a misaligned coal array; with elements past 512 KiB; behind a
sweep. -/
theorem witness_SweepsGoBeatByBeat_declarations :
    (∀ x ∈ [clampBlock 0, clampBlock (2 ^ 56), clampBlock (2 ^ 83), clampBlock ((0x7FFFF - 0x400) * 2 ^ 64)], let s := declaring x id
     EngineReady s 0 (recordOf user 0 local40 0 0) ∧ (getCore s 0).kq = [.decl 0 (recordOf user 0 local40 0 0)] ∧ (getCore s 0).sweep = none ∧
       engineWaits s 0 (recordOf user 0 local40 0 0) = false ∧ (getCore s 0).storeBuf = [] ∧ engineLocal 0 local40 32 8 = .ok 0x40 ∧
       localNat s.mem 0 0x40 32 = x ∧ (clampRec (getCore s 0) 0).valid = false ∧
       (field x 56 8 ≠ 0 ↔ x = clampBlock (2 ^ 56)) ∧ field x 121 7 = 0 ∧ field x 155 101 = 0 ∧ (field x 83 19 % 8 ≠ 0 ↔ x = clampBlock (2 ^ 83)) ∧
       (2 ^ 19 < field x 64 19 + 2 ^ field x 144 2 * (field x 128 16 + 1) ↔ x = clampBlock ((0x7FFFF - 0x400) * 2 ^ 64)) ∧
       field x 83 19 + 8 * (field x 128 16 + 1) ≤ 2 ^ 19 ∧ field x 102 19 + (field x 128 16 + 8) / 8 ≤ 2 ^ 19) ∧
    (let old := clampRec (getCore (declaring 0 fun c => { c with clamps := Vector.replicate 4 { clamp9 with lid := 5 } }) 0) 0
     old.valid = true ∧ ¬ (old.ctx = 1 ∧ old.lid = 0)) ∧
    (let s := declaring 0 fun c => { c with sweep := some (sweep0 none false) }
     EngineReady s 0 (recordOf user 0 local40 0 0) ∧ (getCore s 0).sweep.isSome = true) := by
  refine ⟨?_, by decide +kernel, ready_of (by decide +kernel), by decide +kernel⟩
  refine each4 ?_ ?_ ?_ ?_ <;>
    exact ⟨ready_of (by decide +kernel), by decide +kernel⟩

/-- A sweep waits; stands before its first beat and before its last; has passed its last, with an automatic one to follow and without. -/
theorem witness_SweepsGoBeatByBeat :
    (let s := { (raking fun c => { c with kq := [.sweep 0 (sweep0 none false).rcd] }) with now := some (.rakeCmdTake 0) }
     EngineReady s 0 (sweep0 none false).rcd ∧ (getCore s 0).kq = [.sweep 0 (sweep0 none false).rcd] ∧ (getCore s 0).sweep = none ∧
       engineWaits s 0 (sweep0 none false).rcd = false ∧
       clampOf (getCore s 0) 0 = some clamp9) ∧
    (∀ pos ∈ [none, some 0], let s := { (raking fun c => { c with sweep := some (sweep0 pos false) }) with now := some (.rakeBeatSample 0) }
     EngineReady s 0 (sweep0 none false).rcd ∧ (getCore s 0).sweep = some (sweep0 pos false) ∧ clampOf (getCore s 0) 0 = some clamp9 ∧
       (∀ L < 8, laneAwake s.mem 0 clamp9 0 L = false) ∧ 1 < clamp9.beats) ∧
    laneAwake (memWrite [] (coalKey 0 clamp9 8) 1 2) 0 clamp9 1 0 = true ∧
    (let s := { (raking fun c => { c with sweep := some (sweep0 (some 1) false) }) with now := some (.rakeSweepEnd 0) }
     EngineReady s 0 (sweep0 none false).rcd ∧ (getCore s 0).sweep = some (sweep0 (some (clamp9.beats - 1)) false) ∧
       clampOf (getCore s 0) 0 = some clamp9 ∧ ¬ (clamp9.pending = true)) ∧
    (let c := { clamp9 with pending := true }
     c.pending = true ∧ c.auto = true ∧ c.autos.toNat < c.rlimit.toNat) := by
  refine ⟨⟨ready_of (by decide +kernel), by decide +kernel⟩, ?_, by decide +kernel,
    ⟨ready_of (by decide +kernel), by decide +kernel⟩, by decide⟩
  refine each2 ?_ ?_ <;>
    exact ⟨ready_of (by decide +kernel), by decide +kernel⟩

/-! ### Work and the system -/

/-- A launch packet of one unit with its entry at 0x1000, in local memory at 0x40. -/
def packed : State := { pointing user with mem := memWrite [] (localKey 0 0x40) 64 (1 + 2 ^ 192 + 0x1000 * 2 ^ 456) }
/-- A store entry. -/
def pend1 : Pend := ⟨1, 0, false, 0, 0, 0, false, false, [], []⟩

/-- SPAWN with room and with none; a well-formed packet with room in the store and none; GLAUNCH on walkers 0 and 4, with room and none. -/
theorem witness_WorkIsEntered : Runs user al ∧ user.core.task = some task1 ∧ user.core.runq.length < 28 ∧ counts user ∧
    (let s := at_ fun c => { c with runq := List.replicate 28 ⟨.spawned, info1⟩ }
     Runs s al ∧ 28 ≤ s.core.runq.length) ∧
    headerWaits user.core = false ∧
    headerWaits { core0 with chans := (Vector.replicate 8 []).set 4 [⟨⟨0, 2, false, .core, 1, 7⟩, 1, [], 0, true, none, false, 0x1000, 0, 0⟩] } = true ∧
    (Runs packed al ∧ ∃ p s1, load packed (readWG packed (.w 1)) 64 64 = .ok (p, s1) ∧ pkType p = 1 ∧ pkLink p = 0 ∧
      ∃ sub s2, readBlocks coreReader false s1 p = .ok (some sub, s2) ∧ storeTaken (release s2 0 .pkg) 0 = false ∧
        (getCtx (release s2 0 .pkg) (taskIssuer (release s2 0 .pkg)).ctx).isSome = true) ∧
    (let s := { packed with stores := Vector.replicate 5 (List.replicate 256 pend1) }
     Runs s al ∧ ∃ p s1, load s (readWG s (.w 1)) 64 64 = .ok (p, s1) ∧ pkType p = 1 ∧ pkLink p = 0 ∧
      ∃ sub s2, readBlocks coreReader false s1 p = .ok (some sub, s2) ∧ storeTaken (release s2 0 .pkg) 0 = true) ∧
    (let s := user2 0x10000 (4 * 2 ^ 17 + 65536)
     let x := (readWG s (.w 2)).toNat
     Runs s al ∧ (readWG s (.w 1)).toNat % 32 = 0 ∧ x % 2 ^ 17 = 65536 ∧ x / 2 ^ 17 = 4 ∧ reaches s (cacheOf (coreAcc s)) 4 = true ∧ storeTaken (release s 0 .pkg) 4 = false ∧
       (getCtx (release s 0 .pkg) (taskIssuer (release s 0 .pkg)).ctx).isSome = true) ∧
    storeTaken (release { user with stores := Vector.replicate 5 (List.replicate 64 pend1) } 0 .pkg) 4 = true := by
  refine ⟨runs_of (by decide), rfl, by decide, user_counts, ⟨runs_of (by decide), by decide⟩, by decide +kernel, by decide +kernel,
    ⟨runs_of (by decide), ?_⟩, ⟨runs_of (by decide), ?_⟩,
    ⟨runs_of (by decide), by decide +kernel⟩,
    by decide +kernel⟩
  · obtain ⟨p, s1, h, k⟩ := ok_pair (x := load packed (readWG packed (.w 1)) 64 64) (p := fun p s1 => decide (pkType p = 1 ∧ pkLink p = 0) &&
      foundSome (readBlocks coreReader false s1 p) && okPair (readBlocks coreReader false s1 p) fun _ s2 => decide (storeTaken (release s2 0 .pkg) 0 = false ∧
        (getCtx (release s2 0 .pkg) (taskIssuer (release s2 0 .pkg)).ctx).isSome = true)) (by decide +kernel)
    rw [Bool.and_eq_true, Bool.and_eq_true] at k
    obtain ⟨sub, s2, e⟩ := found_some k.1.2
    obtain ⟨o, s3, e3, k3⟩ := ok_pair k.2
    rw [e] at e3
    cases e3
    exact ⟨p, s1, h, (of_decide_eq_true k.1.1).1, (of_decide_eq_true k.1.1).2, sub, s2, e, of_decide_eq_true k3⟩
  · obtain ⟨p, s1, h, k⟩ := ok_pair
      (x := load { packed with stores := Vector.replicate 5 (List.replicate 256 pend1) } (readWG { packed with stores := Vector.replicate 5 (List.replicate 256 pend1) } (.w 1)) 64 64)
      (p := fun p s1 => decide (pkType p = 1 ∧ pkLink p = 0) &&
        foundSome (readBlocks coreReader false s1 p) && okPair (readBlocks coreReader false s1 p) fun _ s2 => decide (storeTaken (release s2 0 .pkg) 0 = true))
      (by decide +kernel)
    rw [Bool.and_eq_true, Bool.and_eq_true] at k
    obtain ⟨sub, s2, e⟩ := found_some k.1.2
    obtain ⟨o, s3, e3, k3⟩ := ok_pair k.2
    rw [e] at e3
    cases e3
    exact ⟨p, s1, h, (of_decide_eq_true k.1.1).1, (of_decide_eq_true k.1.1).2, sub, s2, e, of_decide_eq_true k3⟩

/-- An unknown launch, and another launch than the task's own. -/
theorem witness_CancelAndCompl : Runs user al ∧ (cancelled user .launch (curCtx user) (readWGI user (.imm 9))).1 = .absent ∧
    (let s := { user with launches := [launch1, { launch1 with lid := 1 }] }
     Runs s al ∧ getLaunch s (curCtx s) ((readWGI s (.imm 1)).extractLsb' 0 32) = some { launch1 with lid := 1 } ∧ (1 : Lid) ≠ curLid s) :=
  ⟨runs_of (by decide), by decide +kernel, runs_of (by decide), by decide +kernel⟩

/-- A route of tag t and launch l. -/
def route (t : BitVec 16) (l : Lid) : Route := ⟨0, 0x1000, 1, l, t, 0, 0, false⟩
/-- Core 0 with some routes bound. -/
def routing (r : List Route) : State := writeWG (at_ fun c => { c with routes := r }) (.w 2) 5

/-- A free tag with 63 and with 64 routes; the own launch's, and another launch's. -/
theorem witness_RoutesBindAndUnbind :
    (∀ n ∈ [63, 64], let s := routing (List.replicate n (route 6 0))
     Runs s al ∧ (readWG s (.w 2)).toNat < 2 ^ 22 ∧ s.core.routes.length = n ∧
       ∀ y ∈ s.core.routes, y.tag ≠ (routeOf s (readWG s (.w 4)) (readWG s (.w 5)) (readWG s (.w 2))).tag) ∧
    (∀ l ∈ [0, 1], let s := routing [route 5 l]
     Runs s al ∧ ((s.core.routes.find? (fun y => y.tag == (routeOf s (readWG s (.w 4)) (readWG s (.w 5)) (readWG s (.w 2))).tag)).map
       (ownRoute s) = some (decide (l = 0))) ∧
       ((∃ y ∈ s.core.routes, y.tag = (readWGI s (.imm 5)).extractLsb' 0 16 ∧ y.ctx = curCtx s ∧ y.lid = curLid s) ↔ l = 0)) := by
  refine ⟨?_, ?_⟩
  · refine each2 ?_ ?_ <;> exact ⟨runs_of (by decide), by decide +kernel⟩
  · refine each2 ?_ ?_ <;> exact ⟨runs_of (by decide), by decide +kernel⟩

/-- Core 1 of the cluster in a state of its ownership: none, the own context's, and the own context's while it is cleared. -/
def peered (owner : Option CtxId) (clearing : Bool) : State :=
  { user with rest := [(1, { Core.reset 1 with owner := owner, clearing := clearing })] }

/-- KINDLE's arrival word: outside the local window; misaligned; with LA[19] set; of a peer of no context; the own core's and a peer's. No route to the
hub, and one. -/
theorem witness_PowerWatchAndIdle_words :
    (localBase ≤ (0xFF00000000000041 : Word).toNat ∧ (0xFF00000000000041 : Word).toNat < localBase + 2 ^ 24 ∧ (0xFF00000000000041 : Word).toNat % 8 ≠ 0) ∧
    ((0xFF00000000080000 : Word).toNat - localBase).testBit 19 = true ∧
    (let la := (0xFF00000000900040 : Word).toNat - localBase
     la.testBit 23 = true ∧ la.testBit 19 = false ∧ 8 * (0 / 8) + la / 2 ^ 20 % 8 = 1 ∧ (getCore (peered none false) 1).owner ≠ some 1 ∧
       (getCore (peered (some 1) false) 1).owner = some 1 ∧ (getCore (peered (some 1) false) 1).clearing = false) ∧
    arrivalWord (peered (some 1) false) 0xFF00000000900040 = .ok (some (1, 0x40)) ∧
    arrivalWord user local40 = .ok (some (0, 0x40)) ∧ Runs (cutOff user) al ∧ reaches (cutOff user) (cacheOf (coreAcc (cutOff user))) 4 = false ∧
    reaches user (cacheOf (coreAcc user)) 4 = true ∧ user.core.trapDue = none := by
  refine ⟨?_, ?_, ?_, ?_, ?_, runs_of (by decide), ?_⟩ <;> decide +kernel

/-- A grant and none; the number of clusters 0, 128, 129; MIGRATE to each island and past it; with a watch table and without; the result there;
a target of NOTIFY; IDLE. -/
theorem witness_PowerWatchAndIdle : Runs user al ∧ (arrivalWord user (readWG user (.g 0)) = .ok none ∧ wakeGranted user (curCtx user) = true ∧
    enabledCount user = 128 ∧ readWGI user (.imm 0) = 0 ∧ (readWGI user (.imm 128)).toNat ≤ 128 ∧ 128 < (readWGI user (.imm 129)).toNat ∧
    wakeGranted { user with ctxs := [{ ctx1 with wakeGrant := false }] } 1 = false ∧
    (readWGI user (.imm 1)).toNat < 2 ∧ isEmber user.core.id = false ∧ 2 ≤ (readWGI user (.imm 2)).toNat ∧ (getCtx user (curCtx user)).isSome = true ∧
    user.core.watchResult = none ∧ noRow user (readWGI user (.imm 5)) = true) ∧
    (let s := pointing { user with ctxs := [{ ctx1 with watch := 0x300000 }] }
     Runs s al ∧ noRow s (readWGI s (.imm 5)) = false ∧ noRow s (readWGI s (.reg (.w 1))) = true ∧
       ownTarget s (readWG s (.w 1)) 64 8 false = .ok 0x40 ∧
       imageOk 0 (readOwn { s with mem := memWrite [] (localKey 0 0x40) 64 (watchEntries.headD 0) } 0x40 64) = true ∧
       ownTarget s (readWG s (.w 1)) 32 8 false = .ok 0x40 ∧
       imageOk 4 (readOwn s 0x40 32) = true) ∧
    (let s := at_ fun c => { c with watchResult := some (some (.ok 0)) }
     Runs s al ∧ s.core.watchResult = some (some (.ok 0)) ∧ field (0 : Word).toNat 8 8 ≠ 5) ∧
    (∃ u, notifyTarget (release user user.core.id .sys) (coreAcc user) (readWG user (.g 0)) 0 = .ok u) ∧
    user.core.task = some task1 ∧ user.core.cutGoal = none :=
  ⟨runs_of (by decide), by decide +kernel,
   ⟨runs_of (by decide), by decide +kernel⟩,
   ⟨runs_of (by decide), rfl, by decide⟩, found_iff (by decide +kernel), rfl, rfl⟩

/-- A privileged task. -/
def ruling : State := at_ fun c => { c with task := some { task1 with privileged := true } }

theorem witness_SpecialRegisters : Runs user al ∧ user.core.bank = .user ∧ Runs ruling al ∧ privileged ruling = true ∧
    SReg.privWrite .wstack = true ∧ Runs serving al ∧ privileged serving = true ∧ SReg.privWrite .trappc = true := by
  exact ⟨runs_of (by decide), rfl, runs_of (by decide), by decide +kernel, by decide, runs_of (by decide), by decide +kernel⟩

/-- Links 7 and 8; steps inside and outside the range; clusters 127 and 128, rails 3 and 4; a register pair; accounts 109. -/
theorem witness_SystemInstructions : Runs user al ∧ (readWGI user (.imm 7)).toNat = (7 : Fin 8).val ∧ 8 ≤ (readWGI user (.imm 8)).toNat ∧
    stepOk user 16 = true ∧ stepOk user 15 = false ∧
    (Runs ruling al ∧ privileged ruling = true ∧ (readWGI ruling (.imm 127)).toNat < 128 ∧ enabled ruling 127 = true ∧ (readWGI ruling (.imm 3)).toNat ≤ 3 ∧
      128 ≤ (readWGI ruling (.imm 128)).toNat ∧ 3 < (readWGI ruling (.imm 4)).toNat) ∧
    traces (getCluster user 0) 0 false = false ∧
    traces (getCluster { user with clusters := [(0, { clus0 with en := 1 })] } 0) 0 false = true ∧
    WG.w 4 ≠ nextReg (.w 4) ∧ nextReg (.w 4) ≠ .g 0 ∧ (readWGI user (.imm 109)).toNat < 110 := by
  exact ⟨runs_of (by decide), by decide, by decide, by decide +kernel, by decide +kernel,
    ⟨runs_of (by decide), by decide +kernel⟩, by decide +kernel⟩

/-- A privileged task before and after a TLBINV, with the routes it needs and without; a breakpoint pin; a service task; a pin image at local 0x40 whose window exists and does not. -/
theorem witness_PrivilegedInstructions : Runs ruling al ∧ privileged ruling = true ∧ ruling.core.invalidating = none ∧
    (∀ d < 5, reaches ruling (cacheOf (coreAcc ruling)) d = true) ∧
    (let s := cutOff ruling
     Runs s al ∧ privileged s = true ∧ s.core.invalidating = none ∧ s.core.bank = .user ∧ reaches s (cacheOf (coreAcc s)) 3 = false) ∧
    (let s := at_ fun c => { c with task := some { task1 with privileged := true }, invalidating := some none }
     Runs s al ∧ privileged s = true ∧ s.core.invalidating = some none) ∧
    (let s := at_ pinned
     Runs s al ∧ s.core.bank = .user ∧ (s.core.pins[6]).isSome = true ∧ s.core.svcq.length < 4) ∧
    (Runs serving al ∧ serving.core.bank = .service) ∧
    (ruling.core.task.isSome = true ∧ ruling.core.cutGoal = none) ∧
    (let s := pointing ruling
     Runs s al ∧ privileged s = true ∧ ownTarget s (readWG s (.w 1)) 32 8 false = .ok 0x40 ∧ pinStatus s 7 (pinImage (readOwn s 0x40 32)) = 0 ∧
       pinStatus s 0 (pinImage (readOwn s 0x40 32)) ≠ 0) := by
  exact ⟨runs_of (by decide), by decide, rfl, by decide +kernel, ⟨runs_of (by decide), by decide +kernel, rfl, rfl, by decide +kernel⟩,
    ⟨runs_of (by decide), by decide, rfl⟩, ⟨runs_of (by decide), rfl, by decide⟩,
    ⟨runs_of (by decide), rfl⟩, ⟨by decide, rfl⟩, runs_of (by decide), by decide +kernel⟩

/-! ### Events of cores, messages, memory -/

/-- Core 0 between tasks. -/
def between (f : Core → Core) : State := at_ fun c => f { c with task := none }
theorem fits_of {s : State} {i : TaskInfo} (h : subOf s i = some sub1) : RingsFit s i := by
  intro x hx r hr
  cases hx.symm.trans h
  exact absurd hr (List.not_mem_nil)
/-- A run-queue entry. -/
def entryOf (c : RunClass) (n : Word) : RunEntry := ⟨c, { info1 with arg := n }⟩

/-- The task of member j of the gang of cores 0 and 1. -/
def gangInfo (j : Nat) : TaskInfo := { info1 with gang := some gang2, gangm := BitVec.ofNat 3 j }
/-- Both cores between tasks, each with its member in its run queue. -/
def gathering : State :=
  { (between fun c => { c with runq := [⟨.spawned, gangInfo 0⟩] }) with
    now := some (.nextTaskChoice 0), rest := [(1, { Core.reset 1 with owner := some 1, runq := [⟨.spawned, gangInfo 1⟩] })] }
theorem gathering_deque (j : Nat) (h : j = 0 ∨ j = 1) : (getCore gathering j).deque = [] := by
  rcases h with rfl | rfl <;> decide +kernel
theorem gathering_chooses : ∀ j ∈ gangCores gang2, mayChoose gathering j = true ∧
    Chosen gathering (getCore gathering j) (gangInfo j) { getCore gathering j with runq := [] } ∧
    memberOf gang2 (gangInfo 0).ctx (gangInfo 0).lid (gangInfo j) = true ∧ RingsFit gathering (gangInfo j) := by
  intro j h
  have : j = 0 ∨ j = 1 := by simp [gangCores, gang2] at h; omega
  rcases this with rfl | rfl <;>
    exact ⟨by decide +kernel, .inr ⟨by decide +kernel, .inr ⟨fun x r h => absurd ((gathering_deque _ (by decide)).symm.trans h) (by simp), 0,
      ⟨.spawned, gangInfo _⟩, by decide +kernel, rfl, by decide +kernel, rfl, by decide +kernel, fun m hm => absurd hm (Nat.not_lt_zero m)⟩⟩,
      by decide +kernel, fits_of (by decide +kernel)⟩

/-- A handler behind a spawned task; a deque; a spawned task alone; a gang's member whose neighbour runs a task, and a gang whose members can all start; the nearest peer's deque; a watchdog at its limit. -/
theorem witness_TasksStart :
    ({ user with now := some (.deviceReset fullPart) }.now = some (.deviceReset fullPart)) ∧
    (let s := { (between fun c => { c with runq := [entryOf .spawned 1, entryOf .handler 2], deque := [info1] }) with now := some (.nextTaskChoice 0) }
     mayChoose s 0 = true ∧ RingsFit s { info1 with arg := 2 } ∧
       Chosen s (getCore s 0) { info1 with arg := 2 } { getCore s 0 with runq := [entryOf .spawned 1] }) ∧
    (let s := { (between fun c => { c with runq := [entryOf .spawned 1], deque := [info1] }) with now := some (.nextTaskChoice 0) }
     mayChoose s 0 = true ∧ RingsFit s info1 ∧ Chosen s (getCore s 0) info1 { getCore s 0 with deque := [] }) ∧
    (let s := { (between fun c => { c with runq := [entryOf .spawned 1, entryOf .spawned 2] }) with now := some (.nextTaskChoice 0) }
     mayChoose s 0 = true ∧ RingsFit s { info1 with arg := 1 } ∧
       Chosen s (getCore s 0) { info1 with arg := 1 } { getCore s 0 with runq := [entryOf .spawned 2] }) ∧
    (let g := gang2
     let i := { info1 with gang := some g }
     let s := { (between fun c => { c with runq := [⟨.spawned, i⟩] }) with now := some (.nextTaskChoice 0), rest := [(1, { core0 with id := 1 })] }
     mayChoose s 0 = true ∧ Chosen s (getCore s 0) i { getCore s 0 with runq := [] } ∧ ∃ j ∈ gangCores g, mayChoose s j = false) ∧
    (CoresNumbered gathering ∧ 0 ∈ gangCores gang2 ∧ (gangInfo 0).gang = some gang2 ∧ ∀ j ∈ gangCores gang2, mayChoose gathering j = true ∧
      Chosen gathering (getCore gathering j) (gangInfo j) { getCore gathering j with runq := [] } ∧
      memberOf gang2 (gangInfo 0).ctx (gangInfo 0).lid (gangInfo j) = true ∧ RingsFit gathering (gangInfo j)) ∧
    (let s := { between id with now := some (.steal 0), rest := [(1, { Core.reset 1 with owner := some 1, deque := [info1] })] }
     mayChoose s 0 = true ∧ RingsFit s info1 ∧ (getCore s 0).runq = [] ∧ (getCore s 0).deque = [] ∧ (getCore s 0).idling = false ∧
       topFor s (getCore s 0).owner 1 = some info1) ∧
    (let s := { (at_ fun c => { c with task := some { task1 with wdog := 5, wdogLimit := 5 } }) with now := some (.stepWatchdogExpiry 0) }
     Sound s ∧ (getCore s 0).task = some { task1 with wdog := 5, wdogLimit := 5 } ∧ (getCore s 0).bank = .user) := by
  refine ⟨rfl, ⟨by decide +kernel, fits_of (by decide +kernel), .inl ⟨1, entryOf .handler 2, by decide +kernel, rfl, by decide +kernel, rfl, by decide +kernel, ?_⟩⟩,
    ⟨by decide +kernel, fits_of (by decide +kernel), .inr ⟨by decide +kernel, .inl ⟨[], by decide +kernel, by decide +kernel, rfl⟩⟩⟩,
    ⟨by decide +kernel, fits_of (by decide +kernel), .inr ⟨by decide +kernel, .inr ⟨?_, 0, entryOf .spawned 1, by decide +kernel, rfl, by decide +kernel, rfl,
      by decide +kernel, ?_⟩⟩⟩,
    ⟨by decide +kernel, .inr ⟨by decide +kernel, .inr ⟨?_, 0, ⟨.spawned, { info1 with gang := some gang2 }⟩, by decide +kernel, rfl, by decide +kernel, rfl,
      by decide +kernel, ?_⟩⟩, by decide +kernel⟩,
    ⟨numbered_of (by decide), by decide, rfl, gathering_chooses⟩,
    ⟨by decide +kernel, fits_of (by decide +kernel), by decide +kernel⟩,
    ⟨sound_of (by decide +kernel), by decide +kernel⟩⟩
  · intro m hm x hx
    have : m = 0 := by omega
    subst this
    cases hx
    exact fun h => absurd h (by decide)
  · intro x r h
    exact absurd h (by simp [between, at_, getCore, user, core0, Core.reset])
  · intro m hm
    exact absurd hm (by omega)
  · intro x r h
    exact absurd h (by simp [between, at_, getCore, user, core0, Core.reset])
  · intro m hm
    exact absurd hm (by omega)

/-- Core 0 can be interrupted, with a service entry of cause c and the PC it resumes at, eight pin entries, one window below, and WSTACK. -/
def interrupted (c : BitVec 8) (w : BitVec 24) : State := { (at_ fun x => { pinned x with
  svcq := [⟨c, 0, w.zeroExtend 64, some 0x1000, true⟩], below := [Frame.zero], wstack := w, wdepth := 1 }) with now := some (.serviceTaskEntry 0) }

/-- A breakpoint; a spill and a fill with their slots in local memory; each with its slot outside. -/
theorem witness_ServiceTasksAreEntered :
    (∀ c ∈ [(6 : BitVec 8), 1, 2], let s := interrupted c 0x40088
     Sound s ∧ Interruptible s 0 ∧ (getCore s 0).svcq = [⟨c, 0, 0x40088, some 0x1000, true⟩] ∧ (getCore s 0).pins[c.toNat]?.getD none = some pin1 ∧
       slotFault (getCore s 0).wstack (getCore s 0).wstack = none ∧ slotFault (getCore s 0).wstack ((getCore s 0).wstack - 136) = none ∧
       (getCore s 0).below.getLast? = some Frame.zero) ∧
    (∀ c ∈ [(1 : BitVec 8), 2], let s := interrupted c 0x800000
     Interruptible s 0 ∧ slotFault (getCore s 0).wstack (getCore s 0).wstack = some .lmAddr ∧
       slotFault (getCore s 0).wstack ((getCore s 0).wstack - 136) = some .lmAddr) := by
  refine ⟨?_, ?_⟩
  · refine each3 ?_ ?_ ?_ <;>
      exact ⟨sound_of (by decide +kernel), by unfold Interruptible; decide +kernel, by decide +kernel⟩
  · refine each2 ?_ ?_ <;>
      exact ⟨by unfold Interruptible; decide +kernel, by decide +kernel⟩

/-- The two-beat message in the network, on its way to core 0. -/
def net2 (chan : Option Chan) (dropped : Bool) : NetMsg := ⟨hdr2, 0, 1, [1, 2], chan, dropped⟩
/-- It travels to core 0, which has some routes and run-queue entries. -/
def travelling (m : NetMsg) (e : Event) (f : Core → Core) : State := { at_ f with network := [m], now := some e }
/-- Routes of its tag: a handler, and a clamp. -/
def route7 (kind : Bool) : Route := ⟨0, 0x1000, 1, 0, 7, 0, 3, kind⟩
/-- Its channel once the header is in. -/
def inChannel (arrived : Nat) (waiting : Bool) : Channel := ⟨hdr2, 1, [], arrived, waiting, none, false, 0x1000, 0, 0⟩

/-- No binding; a handler's with 27 and 28 entries and no header waiting, and one waiting; no link left to another die, for a header and for a beat; a clamp's, declared and not; a waiting header, alone and behind one of a lower channel; a beat of a dropped message and
of a delivered one; a tail. -/
theorem witness_MessagesArrive :
    (let s := travelling (net2 none false) (.messageHeaderArrival 0) id
     s.network[0]? = some (net2 none false) ∧ overtakes s 0 (net2 none false) = false ∧
       (getCore s 0).routes.find? (fun r => r.tag == 7 && r.ctx == 1) = none) ∧
    reaches (user) (outDie hdr2.src.toNat) (dieOf 0) = true ∧
    (∀ n ∈ [27, 28], let s := travelling (net2 none false) (.messageHeaderArrival 0) fun c =>
      { c with routes := [route7 false], runq := List.replicate n (entryOf .spawned 0) }
     (getCore s 0).routes.find? (fun r => r.tag == 7 && r.ctx == 1) = some (route7 false) ∧ (getCore s 0).runq.length = n ∧
       (getCore s 0).chans[3] = [] ∧ headerWaits (getCore s 0) = false ∧ (getLaunch s 1 0).map Launch.count = some 1) ∧
    headerWaits { core0 with chans := (Vector.replicate 8 []).set 4 [inChannel 0 true] } = true ∧
    (let s := { travelling { net2 none false with dest := 256 } (.messageHeaderArrival 0) id with
                  links := Vector.replicate 8 { Link.reset fullPart 0 with inService := false } }
     overtakes s 0 { net2 none false with dest := 256 } = false ∧ reaches s (outDie hdr2.src.toNat) (dieOf 256) = false) ∧
    (∀ d ∈ [true, false], let s := travelling (net2 none false) (.messageHeaderArrival 0) fun c =>
      { c with routes := [route7 true], clamps := Vector.replicate 4 { clamp9 with valid := d } }
     (getCore s 0).routes.find? (fun r => r.tag == 7 && r.ctx == 1) = some (route7 true) ∧ (clampOf (getCore s 0) 0).isSome = d ∧ hdr2.len ≠ 0) ∧
    (let s := { (at_ fun c => { c with chans := (Vector.replicate 8 []).set 3 [inChannel 0 true] }) with now := some (.headerQueueEntry 0 3) }
     ((getCore s 0).chans[3].find? fun x => x.waiting) = some (inChannel 0 true) ∧ (getCore s 0).runq.length < 28 ∧
       (getLaunch s 1 0).map Launch.count = some 1 ∧ ∀ j < 3, readyHeader s 0 j = none) ∧
    (let s := { (at_ fun c => { c with chans := ((Vector.replicate 8 []).set 3 [inChannel 0 true]).set 2 [inChannel 0 true] }) with
                  now := some (.headerQueueEntry 0 3) }
     (readyHeader s 0 2).isSome = true) ∧
    (let s := { travelling { net2 (some 3) false with dest := 256 } (.messageBeatArrival 0) id with
                  links := Vector.replicate 8 { Link.reset fullPart 0 with inService := false } }
     s.network[0]? = some { net2 (some 3) false with dest := 256 } ∧ reaches s (outDie hdr2.src.toNat) (dieOf 256) = false) ∧
    (let s := travelling (net2 none true) (.messageBeatArrival 0) id
     s.network[0]? = some (net2 none true)) ∧
    (let s := travelling (net2 (some 3) false) (.messageBeatArrival 0) fun c => { c with chans := (Vector.replicate 8 []).set 3 [inChannel 0 false] }
     s.network[0]? = some (net2 (some 3) false) ∧ ((getCore s 0).chans[3].find? fun x => x.hdr == hdr2) = some (inChannel 0 false) ∧
       (((getCore s 0).chans[3].map fun y => y.beats.length).foldl (· + ·) 0) < 64) ∧
    (let s := { (at_ fun c => { c with sending := some true }) with now := some (.sendTailInjected 0) }
     (getCore s 0).sending = some true) := by
  decide +kernel

/-- A line of the L1. -/
def line5 : Line := ⟨0x5000, .s, false, 0, 0, 0, 1⟩
/-- A directory request for it, shared and exclusive. -/
def ask5 (x : Bool) : DirReq := ⟨0, 0x5000, x, false⟩
/-- A directory with an entry for it that has some pointers. -/
def directory (ptrs : List Nat) (x : Bool) : State := { user with
  dirs := Vector.replicate 4 [⟨0x5000, 1, ptrs, 0⟩], dirReqs := Vector.replicate 4 [ask5 x], now := some (.directoryRequest 0) }

/-- The cores of `directory`, with their pin entries absent, or installed on core h. -/
theorem directory_core (p : List Nat) (x : Bool) (k : Nat) :
    (getCore (directory p x) k).pins = Vector.replicate 8 none ∧ (getCore (directory p x) k).svcq = [] ∧ (getCore (directory p x) k).bank = .user := by
  unfold getCore
  split <;> exact ⟨rfl, rfl, rfl⟩
theorem directory_serves (p : List Nat) (x : Bool) : ((directory p x).dirReqs[0]?.getD []).findIdx? (fun r => !(overflowRuns (directory p x) 0 r.line)) = some 0 := by
  have h : overflowRuns (directory p x) 0 0x5000 = false := by
    unfold overflowRuns
    simp [(directory_core p x _).2.1, (directory_core p x _).2.2]
  have e : (directory p x).dirReqs[0]?.getD [] = [ask5 x] := rfl
  rw [e]
  simp [ask5, h]

/-- A store; a response; exclusive and shared requests with three and four pointers, the home core's pin 3 absent and present; a held line, and one whose
overflow task waits; a walk that ends at a leaf that serves and one that denies, is discarded, and faults; an invalidation, free and held; stores whose
line an overflow task holds. -/
theorem witness_MemorySystemEvents :
    (∀ w ∈ [true, false], let st : PendStore := ⟨[(0x5000, 7), (0x5001, 8)], 1, [], w, false⟩
     let s := { (at_ fun c => { c with storeBuf := [st] }) with now := some (.storeBufferDrain 0) }
     (getCore s 0).storeBuf = [st] ∧ storeHeld s 0 st = false ∧ 2 ≤ st.bytes.length ∧ RoomIn (getCore s 0) ∧ (∀ b ∈ st.bytes, b.1 / 128 = 0xA0) ∧
       (∀ l ∈ (getCore s 0).l1, l.st = .rd → l.ctx = 1) ∧ (∀ b ∈ st.bytes, reaches s (outDie 0) (keyDie b.1) = true) ∧ zeroHeld s [0xA0] = false) ∧
    (let s := { (at_ fun c => { c with responses := [⟨109, some 0x5000⟩] }) with now := some (.memoryResponse 0 0 4095) }
     (getCore s 0).responses[0]? = some ⟨109, some 0x5000⟩) ∧
    (∀ x p, let s := directory p x
     ((s.dirReqs[0]?.getD []).findIdx? fun r => !(overflowRuns s 0 r.line)) = some 0 ∧ (s.dirReqs[0]?.getD [])[0]? = some (ask5 x) ∧
       ((dirOf s 0).find? fun y => y.line == 0x5000) = some ⟨0x5000, 1, p, 0⟩ ∧ (getCore s (homeCore s 0 0x5000)).pins[3] = none) ∧
    ([1, 2, 3].length < 4 ∧ 4 ≤ [1, 2, 3, 4].length ∧ 0 % 256 ∉ [1, 2, 3, 4]) ∧
    (let s := directory [1, 2, 3, 4] false
     let h := homeCore s 0 0x5000
     let t := { s with core := pinned s.core, rest := [(h, pinned (Core.reset h))] }
     homeCore t 0 0x5000 = h ∧ (getCore t h).pins[3].isSome = true ∧ (getCore t h).svcq.length < 4) ∧
    (let s := { (at_ fun c => { c with l1 := [line5] }) with now := some (.l1Eviction 0 0x5000) }
     line5 ∈ (getCore s 0).l1 ∧ line5.addr = 0x5000 ∧ line5.st ≠ .rd) ∧
    (let s := { overflowing 0x60000000 .rd user with now := some (.l1Eviction 0 0x60000000) }
     lineHeld s (0x60000000 * 128) = true ∧ ∀ y ∈ (getCore s 0).l1, y.addr = 0x60000000 → y.st = .rd) ∧
    (let st : PendStore := ⟨[(0x300040, 7)], 1, [], true, false⟩
     let s := overflowing 0x6000 .s { (at_ fun c => { c with storeBuf := [st], invalidating := some (some (.all, 1, 0)) }) with
       now := some (.storeBufferDrain 0) }
     (getCore s 0).storeBuf = [st] ∧ storeHeld s 0 st = true ∧ anyStoreHeld s = true ∧ (getCore s 0).invalidating = some (some (.all, 1, 0))) ∧
    (let s := { user with walks := [⟨0, 1, 0x10040, true⟩], now := some (.translationWalkComplete 0) }
     s.walks[0]? = some ⟨0, 1, 0x10040, true⟩) ∧
    (let w : Walk := ⟨0, 1, 0x10040, false⟩
     let bars := fun (p : Nat) => leafDenies (walkAcc w) false p || pteCold p || pteHS p || ptePO p
     w.core < 1032 ∧ okPair (leafFor { user with mem := tables } (walkAcc w) w.va.toNat w.va) (fun p _ => !(bars p)) = true ∧
       okPair (leafFor { user with mem := memWrite tables 0x221008 8 0x30000B } (walkAcc w) w.va.toNat w.va) (fun p _ => bars p) = true ∧
       RoomIn (getCore user 0) ∧ found (leafFor user (walkAcc w) w.va.toNat w.va) = false) ∧
    (let s := { (at_ fun c => { c with invalidating := some (some (.all, 1, 0)) }) with now := some (.tlbInvalidationComplete 0) }
     (getCore s 0).invalidating = some (some (.all, 1, 0)) ∧ anyStoreHeld s = false ∧ CoresNumbered s) := by
  refine ⟨?_, by decide +kernel, ?_, by decide, ?_, ⟨by decide +kernel, rfl, by decide⟩, by decide +kernel, by decide +kernel, by decide +kernel,
    ⟨by decide, by decide +kernel, by decide +kernel, fun _ => Nat.zero_lt_succ 15, by decide +kernel⟩, ⟨by decide +kernel, by decide +kernel, numbered_of (by decide)⟩⟩
  · refine each2 ?_ ?_ <;>
      exact ⟨by decide +kernel, by decide +kernel, by decide, fun _ => Nat.zero_lt_succ 15, by decide +kernel⟩
  · intro x p
    exact ⟨directory_serves p x, rfl, rfl, by rw [show (getCore (directory p x) _).pins = _ from (directory_core p x _).1]; decide⟩
  · refine ⟨rfl, ?_⟩
    unfold getCore
    split
    · exact ⟨rfl, Nat.zero_lt_succ 3⟩
    · simp [assocGet, pinned, Core.reset]

/-- A granted queue pair of some depth, in device memory: its submission ring at 0x700000, its completion ring at 0x710000. -/
def grant (depth : Nat) : Nvme := ⟨depth, 4096, 0x700000, 0x710000, 0x720000, 1, 0, 0, 0, true, 0⟩
/-- The leaf of page 1 with some bits, in the tables of context 1. -/
def leafed (e : Nat) : State := { user with mem := memWrite tables 0x221008 8 e, hub := { user.hub with nvme := some (grant 1024) } }
/-- The leaf of page 1, present. -/
def leafHot : Nat := 0x30000F + 2 ^ 48
/-- A move of page 1, of frame 0x40 for a fetch and 0x30 for a page-out: its command is outstanding. -/
def move1 (out : Bool) (w : List Waiter) : PageMove := ⟨out, some 7, if out then 0x30 else 0x40, 1, 0x10040, 0x221008, 0x77, w⟩
/-- That move alone at the hub. -/
def moving (m : PageMove) (leaf : Nat) : State :=
  { leafed leaf with hub := { user.hub with nvme := some (grant 1024), moves := [m] } }

/-- A fetch into frame 0x40, with and without success and its task, and its completion entry apart from the page and the leaf; a page-out's start with
the grant and without, and at a depth of 2, and one that a held store keeps off; its two ends. -/
theorem witness_PagesAndWatches_paging :
    (let s := moving (move1 false []) (0x77 * 2 ^ 12 + 0x2F)
     Sound s ∧ s.hub.moves[0]? = some (move1 false []) ∧ outstanding s 0 = true ∧ (∀ m ∈ s.hub.moves, m.cid.isSome = true) ∧
       (0x40 : BitVec 32).toNat * 2 ^ 16 + 2 ^ 16 ≤ 0xC000000000 ∧
       pteV (memRead s.mem 0x221008 8) = true ∧ pteLeaf (memRead s.mem 0x221008 8) = true ∧ pteCold (memRead s.mem 0x221008 8) = true ∧
       0x221008 + 8 ≤ (grant 1024).cq.toNat + 16 * (grant 1024).head ∧ 0x40 * 2 ^ 16 + 2 ^ 16 ≤ (grant 1024).cq.toNat) ∧
    (let m := move1 false [.core 0 0 false .scalar 0x1000 0x10040]
     let s := moving m (0x77 * 2 ^ 12 + 0x2F)
     Sound s ∧ s.hub.moves[0]? = some m ∧ outstanding s 0 = true ∧ (getCore s 0).task = some task1 ∧ task1.actid = 0) ∧
    (let s := leafed leafHot
     Sound s ∧ getCtx s 1 = some ctx1 ∧ anyStoreHeld s = false ∧ walkFrom (drainEvery s).mem 0x10040 3 ctx1.root.toNat = some (leafHot, 0x221008, 0) ∧ pteCold leafHot = false ∧
       ptePO leafHot = false ∧ ptePin leafHot = false ∧ pteFrame leafHot < 0xC000000000 ∧ s.hub.moves = [] ∧ s.hub.nvme = some (grant 1024) ∧
       2 ≤ (grant 2).depth ∧ 0x221008 + 8 ≤ (grant 2).sq.toNat + 64 * (grant 2).tail ∧ user.hub.nvme = none) ∧
    (let st : PendStore := ⟨[(0x300040, 7)], 1, [], true, false⟩
     let s := overflowing 0x6000 .s { (at_ fun c => { c with storeBuf := [st] }) with mem := (leafed leafHot).mem }
     getCtx s 1 = some ctx1 ∧ anyStoreHeld s = true) ∧
    (let s := moving (move1 true []) (leafHot + 2 ^ 6)
     Sound s ∧ s.hub.moves[0]? = some (move1 true []) ∧ outstanding s 0 = true ∧ ptePO (memRead s.mem 0x221008 8) = true) :=
  ⟨⟨sound_of (by decide +kernel), by decide +kernel⟩, ⟨sound_of (by decide +kernel), by decide +kernel⟩,
   ⟨sound_of (by decide +kernel), by decide +kernel⟩, by decide +kernel, sound_of (by decide +kernel), by decide +kernel⟩


/-- A request to clear an entry of row 5 of a context without a watch table, and one with, whose row cannot be read. -/
def clearing : WatchReq := .clear 0 1 5 0
/-- Core 0 waits for it. -/
def watching (w : BitVec 56) : State := { (at_ fun c => { c with watchResult := some none }) with
  ctxs := [{ ctx1 with watch := w }], hub := { user.hub with watchQueue := [clearing] }, now := some .watchUnitCommit }

/-- A row that is closed, and one that faults; a token that hits entry 2 of the example of R150, one that hits none, and no live entry. -/
theorem witness_PagesAndWatches_watch :
    (let s := { watching 0x10000 with mem := tables }
     s.hub.watchQueue = [clearing] ∧ okPair (serveWatch s clearing false) (fun _ u => (getCore u 0).watchResult == some none) = true) ∧
    (let s := watching 0x300000
     s.hub.watchQueue = [clearing] ∧ found (serveWatch s clearing false) = false ∧ (getCore s 0).watchResult = some none) ∧
    (let hit := fun (t e : Nat) => enLive e = true ∧ (enBudget e = 1 ∨ enMatches watchHeader e t = true)
     (∃ e, watchEntries[2]? = some e ∧ hit 0x30 e) ∧ (∀ m < 2, ∀ x ∈ watchEntries[m]?.toList, ¬ hit 0x30 x) ∧ (∀ e ∈ watchEntries, ¬ hit 0x55 e) ∧
       ∀ e ∈ [0], enLive e = false) :=
  ⟨by decide +kernel, by decide +kernel, ⟨_, rfl, by decide +kernel⟩, by decide +kernel⟩

/-! ### Events of work, queues, schedulers, cuts -/

/-- A launch that has nothing left to do. -/
def spent (j : Option Word) : Launch := { launch1 with count := 0, jseq := j }
/-- A graph of six nodes at 0x10000, at node n. -/
def graph1 (n : Nat) : Graph := ⟨1, 0, 0x10000, 6, 0, n, [], none, none, 0, none, none, 0, 0, none, none, false, false⟩

/-- A spent launch with a journal entry and without, and one that is not; an ended graph; a closed phase. -/
theorem witness_WorkRetires :
    (∀ j ∈ [none, some (3 : Word)], let s := { user with launches := [spent j], hub := { user.hub with journal := { user.hub.journal with entries := 4096 } } }
     Sound s ∧ getLaunch s 1 0 = some (spent j) ∧ (spent j).count = 0 ∧ allPlaced (spent j) = true ∧ s.hub.journal.entries ≠ 0 ∧
       s.hub.journal.events = []) ∧
    (getLaunch user 1 0 = some launch1 ∧ launch1.count ≠ 0) ∧
    (let g := { graph1 4 with ended := some (2, 0) }
     getGraph { user with graphs := [g] } 1 0 = some g ∧ g.count = 0) ∧
    (let c := { ctx1 with phases := [⟨7, 0, 0, true⟩] }
     getCtx { user with ctxs := [c] } 1 = some c ∧ (c.phases.find? fun x => x.num == 7) = some ⟨7, 0, 0, true⟩) := by
  refine ⟨?_, by decide +kernel⟩
  refine each2 ?_ ?_ <;>
    exact ⟨sound_of (by decide +kernel), by decide +kernel⟩

/-- The launch packet of the tests: one unit, entry 0x1000. -/
def packet1 : Nat := 1 + 2 ^ 192 + 0x1000 * 2 ^ 456
/-- The nodes of the graph, in page 1: LAUNCH with its packet at 0x10200, COND and WHILE on the word at 0x10300, JOINALL, END. -/
def nodes : List Host.Cell :=
  memWrite (memWrite (memWrite (memWrite (memWrite (memWrite tables 0x300000 32 (1 + 1 * 2 ^ 16 + 0x10200 * 2 ^ 64))
    0x300020 32 (2 + 2 * 2 ^ 16 + 3 * 2 ^ 32 + 0x10300 * 2 ^ 64)) 0x300040 32 (3 + 3 * 2 ^ 16 + 1 * 2 ^ 32 + 0x10300 * 2 ^ 64 + 2 * 2 ^ 128))
    0x300060 32 (4 + 4 * 2 ^ 16)) 0x300080 32 5) 0x300200 64 packet1
/-- The walker of die 0 stands at node n. -/
def walking (f : Graph → Graph) (n : Nat) (word : Nat) (e : Event) : State :=
  { user with mem := memWrite nodes 0x300300 4 word, graphs := [f (graph1 n)], now := some e }
/-- What holds of the node that it takes, and of the state from then on. -/
def atNode (s : State) (g : Graph) (p : Nat → State → Bool) : Bool :=
  (walkerGraph s 0 0 == some g && g.held.isNone) &&
    okPair (hubReader (walkerAcc g) s (g.base + BitVec.ofNat 64 (32 * g.node)) 32) fun x u =>
      decide (nodeBad x = false) && p x (modGraph u g.ctx g.gid fun y => { y with held := some (BitVec.ofNat 256 x) })
theorem takes {s : State} {g : Graph} {p : Nat → State → Bool} (h : atNode s g p = true) :
    walkerGraph s 0 0 = some g ∧ ∃ x t, NodeTaken s g x t { g with held := some (BitVec.ofNat 256 x) } ∧ p x t = true := by
  obtain ⟨a, b⟩ := Bool.and_eq_true_iff.mp h
  obtain ⟨a1, a2⟩ := Bool.and_eq_true_iff.mp a
  obtain ⟨x, u, e, k⟩ := ok_pair b
  obtain ⟨k1, k2⟩ := Bool.and_eq_true_iff.mp k
  exact ⟨beq_iff_eq.mp a1, x, _, .inr ⟨Option.isNone_iff_eq_none.mp a2, rfl, u, e, of_decide_eq_true k1, rfl⟩, k2⟩
/-- A LAUNCH node whose packets are read already. -/
def parsed1 : Graph := { graph1 0 with held := some 0, parsed := some [sub1] }

/-- The LAUNCH node with room in the store and none; COND, WHILE, JOINALL and END ready, with the word 0 and 1, CAP reached and not; launches
outstanding; a fault seen. -/
theorem witness_GraphsWalk :
    (∀ f ∈ [false, true], let s := { walking id 0 0 (.graphLaunchNode 0 0) with stores := Vector.replicate 5 (List.replicate (if f then 256 else 0) pend1) }
     atNode s (graph1 0) (fun x s1 => ndKind x == 1 && decide (ndNext x < 6) && okPair (readBundle (hubReader (walkerAcc (graph1 0))) false
       (fun u n => hubReader (walkerAcc (graph1 0)) u (ndAddr x + BitVec.ofNat 64 (64 * n)) 64) s1) fun b s2 =>
         let u := modGraph s2 1 0 fun y => { y with parsed := b.subs }
         let st := targetStore u 1 (ndTarget x)
         b.subs.isSome && pkType b.head == 1 && decide (heldQueues u st < storeFree u st) == !f && getCtx u 1 == some ctx1) = true) ∧
    walkerGraph { user with graphs := [parsed1] } 0 0 = some parsed1 ∧
    (∀ n ∈ [1, 2], ∀ w ∈ [0, 1], let s := walking id n w (if n = 1 then .graphCondNode 0 0 else .graphWhileNode 0 0)
     atNode s (graph1 n) (fun x s1 => ndKind x == n + 1 && decide (ndNext x < 6 ∧ ndTaken x < 6) &&
       okPair (hubRead s1 (walkerAcc (graph1 n)) (ndAddr x) 4 4) fun l _ => ofBytes l == w) = true) ∧
    (let g := { graph1 2 with counts := [(2, 2)] }
     atNode (walking (fun _ => g) 2 1 (.graphWhileNode 0 0)) g (fun x _ => decide (ndCap x < (assocGet g.counts g.node).getD 0 + 1)) = true) ∧
    (∀ n ∈ [3, 4], atNode (walking id n 0 (if n = 3 then .graphJoinallNode 0 0 else .graphEndNode 0 0)) (graph1 n)
      (fun x _ => ndKind x == n + 1 && decide (ndNext x < 6)) = true) ∧
    (let g := { graph1 4 with count := 1 }
     atNode (walking (fun _ => g) 4 0 (.graphEndNode 0 0)) g (fun _ _ => true) = true) ∧
    (let g := { graph1 4 with faultSeen := some 0x0B }
     atNode (walking (fun _ => g) 4 0 (.graphEndNode 0 0)) g (fun _ _ => true) = true) := by
  decide +kernel

/-- A queue at 0x400000 with one packet. -/
def queue1 : CmdQueue := ⟨0, 0x400000, 1, 0, 0, 4, false, false, false, 0, false, 0, none, none, 0⟩
/-- Context 1 has it, and this packet waits in it. -/
def queued (p : Nat) (e : Event) : State :=
  { user with ctxs := [{ ctx1 with queues := [queue1] }], mem := memWrite tables 0x400000 64 p, now := some e,
              hub := { user.hub with journal := { user.hub.journal with entries := 4096, base := 0x500000 } } }
/-- The complex serves it next, and the journal is ready. -/
abbrev served (s : State) : Prop := Serves s 1 0 queue1 ∧ journalReady s = true ∧ (getCtx s 1).isSome = true
theorem served_of {s : State} (h : (getQueue s 1 0 = some queue1 ∧ queue1.q = 0 ∧ s.hub.packageOff = false ∧ servable queue1 = true ∧
    passedBy s queue1 = false) ∧ journalReady s = true ∧ (getCtx s 1).isSome = true) : served s := h
/-- A WAIT for work, a WAIT for the word 7 at 0x10300, a SIGNAL of 9 at 0x10400 at once and after the queue's work. -/
def waitWork : Nat := 4
def waitWord (w : Nat) : Nat := 4 + 2 ^ 8 + w * 2 ^ 32 + 0x10300 * 2 ^ 72
def signal9 (after : Bool) : Nat := 5 + (if after then 2 ^ 8 else 0) + 0x10400 * 2 ^ 72 + 9 * 2 ^ 128

/-- Doorbells at the queue's size and past it; a launch packet, one of type 0 and one of type 6; a graph packet with 65536 nodes on walker 4; a
phase packet. -/
theorem witness_QueuesServePackets :
    (let s := queued 0 (.doorbellWrite 1 0 16)
     getQueue s 1 0 = some queue1 ∧ ((16 : BitVec 32) - queue1.rdidx).toNat ≤ 2 ^ queue1.lsize.toNat ∧
       2 ^ queue1.lsize.toNat < ((17 : BitVec 32) - queue1.rdidx).toNat ∧ (getCtx s 1).isSome = true) ∧
    (let s := queued packet1 (.launchPacket 1 0)
     let p := packetAt s queue1 0
     served s ∧ pkType p = 1 ∧ 1 + pkLink p ≤ unparsed queue1 ∧
       okPair (readBundle (hubReader (complexAcc 1 queue1)) true (fun t i => .ok (packetAt t queue1 i, t)) (heldAt s 1 0 none)) (fun b s1 =>
         b.subs.isSome && storeTakenFor s1 queue1 (targetStore s1 1 (pkTarget p)) == false && journalReady s1 && (getCtx s1 1).isSome) = true) ∧
    (let s := { queued packet1 (.launchPacket 1 0) with stores := Vector.replicate 5 (List.replicate 256 pend1) }
     storeTakenFor s queue1 0 = true) ∧
    (∀ n ∈ [0, 6], let s := queued n (.launchPacket 1 0)
     let p := packetAt s queue1 0
     served s ∧ (pkType p = 0 ∨ 5 < pkType p)) ∧
    (let s := queued (2 + 4 * 2 ^ 52 + 65536 * 2 ^ 55 + 0x10000 * 2 ^ 72) (.graphPacket 1 0)
     let p := packetAt s queue1 0
     served s ∧ pkType p = 2 ∧ p / 2 ^ 128 = 0 ∧ field p 8 44 = 0 ∧ field p 72 56 % 32 = 0 ∧ field p 55 17 = 65536 ∧ field p 52 3 = 4 ∧ storeTakenFor (heldAt s 1 0 none) queue1 4 = false) ∧
    (let s := queued (3 + 7 * 2 ^ 32) (.phasePacket 1 0)
     let p := packetAt s queue1 0
     served s ∧ pkType p = 3 ∧ p / 2 ^ 64 = 0 ∧ field p 8 24 = 0) := by
  refine ⟨by decide +kernel, ⟨served_of (by decide +kernel), by decide +kernel⟩, by decide +kernel, fun n h => ?_,
    ⟨served_of (by decide +kernel), by decide +kernel⟩, served_of (by decide +kernel), by decide +kernel⟩
  simp only [List.mem_cons, List.not_mem_nil, or_false] at h
  rcases h with rfl | rfl <;> exact ⟨served_of (by decide +kernel), by decide +kernel⟩

/-- A context without a watch table; a page of one that is present. -/
theorem witness_QueuesServePackets_watch : getCtx user 1 = some ctx1 ∧ ctx1.watch = 0 ∧
    walkFrom (leafed leafHot).mem 0x10000 3 ctx1.root.toNat = some (leafHot, 0x221008, 0) ∧ pteCold leafHot = false ∧ 0x10000 < 0x20000 := by
  decide +kernel

/-- WAIT for the queue's work with none, and with a launch of a packet of its own; for a word that holds the value, and another; SIGNAL at once and
after; an accepted one whose work is gone; a queue to close. -/
theorem witness_WaitsAndSignals :
    (∀ e ∈ [Event.waitPacket 1 0, .waitWordPoll 1 0], let s := queued waitWork e
     let p := packetAt s queue1 0
     served s ∧ pkType p = 4 ∧ p / 2 ^ 128 = 0 ∧ field p 64 8 = 0 ∧ field p 9 23 = 0 ∧ p.testBit 8 = false ∧ queueLids s 1 0 = [] ∧ queueGids s 1 0 = []) ∧
    queueLids { user with launches := [{ launch1 with jseq := some 0 }] } 1 0 ≠ [] ∧
    (∀ w ∈ [0, 7], let s := queued (waitWord w) (.waitPacket 1 0)
     let p := packetAt s queue1 0
     served s ∧ pkType p = 4 ∧ p / 2 ^ 128 = 0 ∧ field p 64 8 = 0 ∧ field p 9 23 = 0 ∧ p.testBit 8 = true ∧ field p 72 56 % 4 = 0 ∧
       okPair (hubRead (heldAt s 1 0 none) (complexAcc 1 queue1) (BitVec.ofNat 64 (field p 72 56)) 4 4) (fun l _ => (ofBytes l == field p 32 32) == decide (w = 0)) = true) ∧
    (∀ b ∈ [false, true], let s := queued (signal9 b) (.signalPacket 1 0)
     let p := packetAt s queue1 0
     served s ∧ pkType p = 5 ∧ p / 2 ^ 192 = 0 ∧ field p 9 63 = 0 ∧ field p 72 56 % 8 = 0 ∧ p.testBit 8 = b ∧
       found (hubWrite (heldAt s 1 0 none) (complexAcc 1 queue1) (BitVec.ofNat 64 (field p 72 56)) 8 (toBytes 8 9)) = true) ∧
    (let g : Signal := ⟨1, 0, 0x10400, 9, 0, 0, [5], []⟩
     let s := { queued 0 (.signalAfterWrite 0) with hub := { user.hub with signals := [g] } }
     s.hub.signals[0]? = some g ∧ (∀ l ∈ s.launches, l.ctx = g.ctx → l.lid ∉ g.lids) ∧ (∀ y ∈ s.graphs, y.ctx = g.ctx → y.gid ∉ g.gids) ∧
       getQueue s 1 0 = some queue1 ∧ found (hubWrite s (complexAcc 1 queue1) g.addr 8 (toBytes 8 9)) = true) ∧
    (let s := queued 0 (.queueClose 1 0)
     getQueue s 1 0 = some queue1 ∧ (getCtx s 1).isSome = true) := by
  refine ⟨?_, by decide +kernel, ?_, ?_, by decide +kernel⟩
  · refine each2 ?_ ?_ <;>
      exact ⟨served_of (by decide +kernel), by decide +kernel⟩
  · refine each2 ?_ ?_ <;>
      exact ⟨served_of (by decide +kernel), by decide +kernel⟩
  · refine each2 ?_ ?_ <;>
      exact ⟨served_of (by decide +kernel), by decide +kernel⟩

/-- A launch whose one unit, or gang, is not placed. -/
def waitingLaunch (g units : Nat) : Launch := { launch1 with subs := [{ sub1 with placed := 0, units := units, gang := g }], count := 0 }
/-- A part with clusters 0 and 1 alone. -/
def smallPart : Fuses := { fullPart with clusEn := 3 }
/-- Its entry heads the store of die 0; core 0 is free. -/
def pending (g units : Nat) (e : Event) : State :=
  { between id with launches := [waitingLaunch g units], stores := (Vector.replicate 5 []).set 0 [pend1], now := some e,
                    fuses := smallPart }

/-- With nothing in the store a pass has no step. -/
theorem idle_pass {s : State} {st : Nat} (h : storeOf s st = []) (us : Nat) : passStep s st us = none := by
  have o : orderedEntries s st = [] := by simp [orderedEntries, h]
  have d : headOf s st = none := by simp [headOf, o]
  simp [passStep, serveReserved, servePreempt, serveHead, serveOthers, o, d]
theorem settled {s : State} {st : Nat} (h : storeOf s st = []) : settleHead s st = s := by simp [settleHead, h]
theorem some_of_any {α : Type} {x : Option α} {p : α → Bool} (h : x.any p = true) : ∃ a, x = some a ∧ p a = true :=
  (Option.any_eq_true p x).1 h

/-- A pass that places one unit and then nothing, and a pass of an empty store; a clearing core; an aging entry; a head of one unit and of a gang of
two; a launch with a unit placed whose bytes are none. -/
theorem witness_SchedulersPlaceWork_scheduling :
    (let s := pending 0 1 (.schedulingPass 0 0 [])
     headOf s 0 = some pend1 ∧ ∃ u, passStep (settleHead (restVictims s []) 0) 0 0 = some u ∧ passStep (settleHead u 0) 0 0 = none) ∧
    passStep (settleHead (restVictims user []) 0) 0 0 = none ∧
    (findBlock (pending 1 2 (.schedulingPass 0 0 [])) 0 (waitingLaunch 1 2) 1 fun k => decide (k < 2)) = some 0 ∧
    (∀ b ∈ [false, true], let s := { (at_ fun c => { c with clearing := true, mq := if b then [mzero1] else [] }) with now := some (.localMemoryClearDone 0) }
     (getCore s 0).clearing = true ∧ (getCore s 0).mrun = none ∧ ((getCore s 0).mq = [] ↔ b = false)) ∧
    (let s := pending 0 1 (.priorityAging 0 0)
     (storeOf s 0)[0]? = some pend1 ∧ ∀ y ∈ storeOf s 0, y.reserving = false) ∧
    (let s := pending 0 1 (.headReservation 0)
     headOf (settleHead s 0) 0 = some pend1 ∧ pend1.reserving = false ∧ launchOf s pend1 = some (waitingLaunch 0 1) ∧ pend1.saved = [] ∧
       ∀ y ∈ (waitingLaunch 0 1).subs, y.gang = 0) ∧
    (let s := pending 1 2 (.headReservation 0)
     headOf (settleHead s 0) 0 = some pend1 ∧ launchOf s pend1 = some (waitingLaunch 1 2) ∧
       bestBlock (modEntry (settleHead s 0) 0 pend1 fun y => { y with reserving := true }) 0 pend1 1 = some 0) ∧
    (getLaunch user 1 0 = some launch1 ∧ launch1.mark = .none ∧ launch1.store ≠ 4 ∧ ∃ y ∈ launch1.subs, 0 < y.placed) :=
  by
  refine ⟨⟨by decide +kernel, ?_⟩, ?_, by decide +kernel⟩
  · obtain ⟨u, h, k⟩ := some_of_any (x := passStep (settleHead (restVictims (pending 0 1 (.schedulingPass 0 0 [])) []) 0) 0 0)
      (p := fun u => (storeOf u 0).isEmpty) (by decide +kernel)
    have e := List.isEmpty_iff.mp k
    exact ⟨u, h, by rw [settled e]; exact idle_pass e 0⟩
  · rw [settled (by rfl)]
    exact idle_pass rfl 0

/-- A head that reserves for one unit and has core 0 free. -/
theorem witness_SchedulersPlaceWork_reserving :
    let e := { pend1 with reserving := true }
    let s := { pending 0 1 (.schedulingPass 0 0 []) with stores := (Vector.replicate 5 []).set 0 [e] }
    headOf s 0 = some e ∧ 0 ∈ ((looseCores s 0 e).filter fun m => !(e.idle.contains m)).take (singlesLeft s 0 e) := by decide +kernel

/-- A cluster at 100 °C; at 101 °C without and with a cooler one for its work; at 95 °C below its step. -/
theorem witness_SchedulersPlaceWork_heat :
    ((∀ p ∈ [(0, 100)], p.2 ≤ 100) ∧ ([(0, 100)].map Prod.fst).Nodup) ∧
    (let s := { between id with now := some (.thermalReading [(0, 101)]), fuses := smallPart,
                                 clusters := [(0, clus0), (1, { Cluster.reset fullPart 1 with temp := 98 })] }
     let s1 := modCluster s 0 fun y => { y with temp := 101 }
     enabled s 0 = true ∧ (∀ l ∈ s1.launches, runsOn s1 0 l = true → cutNames s1 l.ctx l.lid = false) ∧ coolerFor s1 0 = [] ∧ floorStep 0 < targetStep s1 0) ∧
    (let s1 := modCluster { user with fuses := smallPart } 0 fun y => { y with temp := 101 }
     ((s1.launches.filter fun l => runsOn s1 0 l && movable s1 0 l).isEmpty = false) ∧ (coolerFor s1 0).head? = some 1) ∧
    (let s := { user with clusters := [(0, { clus0 with temp := 95, thermal := 59 })] }
     enabled s 0 = true ∧ (getCluster s 0).temp ≤ 95 ∧ (getCluster s 0).thermal.toNat < grantedStep s 0) := by
  exact by decide +kernel

/-- A cut of launch 0 in a stage. -/
def cut1 (stage : Nat) (acks : List (Nat × BitVec 32)) (i : List Image) (m : Option (CtxId × Bool)) : Cut :=
  ⟨[.launch 1 0], stage, [(1, 0)], acks, [], i, false, 0, m, [], []⟩
/-- The image of core 0's task, with version 1 in its save header. -/
def image1 : Image := ⟨1, 0, 1, 0, core0, imageKey 0 (localOffset 0), [], false⟩
/-- The cut of a pre-emption in its second stage, for launch 5 of the store of die 0. -/
def cutPre : Cut := ⟨[.victims 0 [(1, 0)]], 2, [(1, 0)], [], [], [], false, 0, none, [(0, 1, 5, [(1, 0)])], []⟩
/-- A cut stands in a stage, with core 0's task at a STEP whose count is 1. -/
def cutting (c : Cut) (e : Event) : State := { (at_ fun x => { x with cutAck := some 1 }) with cuts := [c], now := some e }

/-- A second stage that no launch of user is in, at which a multiplication of its launch stands frozen at cycle 7; a request joins it. -/
theorem witness_ConsistentCuts_join :
    let m : MatrixCmd := { mzero1 with op := .mma .i8 .i8, rcd := { mzero1.rcd with lid := 9 } }
    let c : Cut := { cut1 2 [] [] none with launches := [(1, 9)], cycles := [(0, 7)] }
    let s := cutting c (.stopRequest (.launch 1 0))
    let t := { s with core := { s.core with mrun := some m } }
    CoresNumbered t ∧ workLaunches t (.launch 1 0) = [(1, 0)] ∧ c.of 1 = true ∧ ((1, 0) ∉ c.launches) ∧ c.stage = 2 ∧
    (getCore t 0).mrun = some m ∧ assocGet c.cycles (clusterOf 0) = some 7 ∧ c.owns m.rcd = true :=
  ⟨numbered_of (by decide), by decide +kernel⟩

/-- A context and a launch that live, with no cut and with one to join; one task that acknowledges, alone and behind another; counts equal; units stopped, of a stop request and of a pre-emption; an image resumed; a
migration's end. -/
theorem witness_ConsistentCuts : CoresNumbered user ∧
    (∀ w ∈ [StopWork.context 1, .launch 1 0], workLaunches user w ≠ [] ∧ (∀ y ∈ user.cuts, y.of 1 = false)) ∧
    (∀ st ∈ [1, 2], (cut1 st [] [] none).of 1 = true ∧ (cut1 st [] [] none).stage ≠ 3) ∧
    (let s := cutting (cut1 1 [] [] none) (.cutAcknowledge 0 0)
     CoresNumbered s ∧ s.cuts[0]? = some (cut1 1 [] [] none) ∧ (getCore s 0).task = some task1 ∧ ackOf (cut1 1 [] [] none) (getCore s 0) = some 1 ∧
       (taskCores (acknowledge s 0 0) (1, 0)).map Core.id = [0]) ∧
    (let s := { cutting (cut1 1 [(1, 3)] [] none) (.cutAcknowledge 0 0) with rest := [(1, { core0 with id := 1, cutAck := some 3 })] }
     CoresNumbered s ∧ (taskCores (acknowledge s 0 0) (1, 0)).map (fun y => assocGet (assocSet [(1, 3)] 0 (1 : BitVec 32)) y.id) = [some 1, some 3]) ∧
    (let s := { cutting (cut1 1 [] [] none) (.cutAcknowledge 0 0) with rest := [(1, { core0 with id := 1 })] }
     CoresNumbered s ∧ (taskCores (acknowledge s 0 0) (1, 0)).map (fun y => assocGet (assocSet [] 0 (1 : BitVec 32)) y.id) = [some 1, none]) ∧
    (let c := cut1 1 [(0, 1)] [] none
     CoresNumbered (cutting c (.cutSecondStage 0)) ∧ ∀ y ∈ c.launches, countsEqual (cutting c (.cutSecondStage 0)) c y = true) ∧
    (let c := cut1 2 [] [] none
     let s := cutting c (.cutComplete 0)
     CoresNumbered s ∧ coresHolding s c = [0] ∧ ∀ j ∈ coresHolding s c, unitsStopped c (getCore s j) = true) ∧
    (let s := { cutting cutPre (.cutComplete 0) with
                  launches := [launch1, { launch1 with lid := 5 }], stores := (Vector.replicate 5 []).set 0 [{ pend1 with ident := 5 }] }
     coresHolding s cutPre = [0] ∧ unitsStopped cutPre (getCore s 0) = true ∧ ((1, 5) ∉ cutPre.launches) ∧
       (∃ e ∈ storeOf s 0, e.isGraph = false ∧ e.ctx = 1 ∧ e.ident = 5) ∧ holdsLaunch (getCore s 0) (1, 0) = true ∧
       (getCore s 0).reserved = none) ∧
    (∀ b ∈ [false, true], let y := { image1 with away := b }
     let c := cut1 3 [] [y] none
     let s := { between id with cuts := [c], now := some (.cutResume 0 [0]) }
     let l := (liveImages s c.images).zip [0]
     CoresNumbered s ∧ y.moved 0 = b ∧ (getCore s 0).l1 = [] ∧ liveImages s c.images = [y] ∧ (∀ p ∈ l, resumable s c p.1 p.2 = true) ∧ (∀ p ∈ l, ∀ q ∈ l, sameBlock p q = true) ∧
       ∀ p ∈ l, p.1.header.extractLsb' 0 16 = 1) ∧
    (let c := cut1 3 [] [] (some (1, true))
     let s := { user with cuts := [c], now := some (.migrationTransferComplete 1) }
     CoresNumbered s ∧ s.cuts[0]? = some c ∧ c.stage = 3 ∧ c.migrate = some (1, true) ∧ (getCtx s 1).isSome = true) ∧
    heldClusters user 1 ++ freeClusters user 1 ≠ [] ∧
    (let s := { user with clusters := [], fuses := { fullPart with clusEn := 0 } }
     heldClusters s 1 ++ freeClusters s 1 = [] ∧ heldClusters (askWake s ⟨1, none, none, .pkg, .cold, none⟩ 1) 1 = []) := by
  refine ⟨numbered_of (by decide), by decide +kernel, by decide +kernel, ⟨numbered_of (by decide), by decide +kernel⟩, ⟨numbered_of (by decide), by decide +kernel⟩,
    ⟨numbered_of (by decide), by decide +kernel⟩, ⟨numbered_of (by decide), ?_⟩, ⟨numbered_of (by decide), by decide +kernel⟩, by decide +kernel, ?_,
    ⟨numbered_of (by decide), by decide +kernel⟩, by decide +kernel⟩
  · intro y h
    cases List.mem_singleton.mp h
    rfl
  · refine each2 ?_ ?_ <;> exact ⟨numbered_of (by decide), by decide +kernel⟩

/-! ### Events of power, links, the host, trace and debug; the machine as a whole -/

/-- Cluster 0 is as told, and no task runs on it. -/
def powered (x : Cluster) (e : Event) : State := { between id with clusters := [(0, x)], now := some e }
/-- A wake that context 1 has asked for. -/
def wake1 : WakeReq := ⟨1, none, none, .pkg, .idle, none⟩

/-- Quiet clusters in RUN, IDLE and SMOORED; a transition that ends in COLD, and in RUN; package OFF and on; one deferred KINDLE; a hold; a wanted
channel; a sleeping package. -/
theorem witness_PowerAndClocks_states :
    (∀ p ∈ [PState.run, .idle, .smoored], let s := powered { clus0 with pstate := p } (.clusterIdleEntry 0)
     let x := getCluster s 0
     enabled s 0 = true ∧ x.moving = false ∧ clusterQuiet s 0 = true ∧ x.pstate = p ∧ x.gated = false ∧ x.khold = false ∧ anyReserved s 0 = false) ∧
    (∀ p ∈ [PState.cold, .run], let s := powered { clus0 with moving := true, target := some p } (.clusterWakeComplete 0)
     (getCluster s 0).moving = true ∧ (getCluster s 0).target = some p) ∧
    (user.hub.packageOff = false ∧ { user with hub := { user.hub with packageOff := true } }.hub.packageOff = true) ∧
    (let s := { user with hub := { user.hub with kindles := [⟨wake1, 2⟩] } }
     s.hub.kindles = [⟨wake1, 2⟩]) ∧
    (let s := powered { clus0 with khold := true } (.kholdTimeout 0)
     (getCluster s 0).khold = true ∧ (getCluster s 0).waking = none ∧ (getCluster s 0).moving = false) ∧
    (let s := { user with hub := { user.hub with wanted := [95] } }
     95 ∈ s.hub.wanted) ∧
    (packageSleeps State.reset = true ∧ anyWaking State.reset = false) := by
  exact ⟨by decide +kernel, by decide +kernel, ⟨rfl, rfl⟩, rfl, by decide +kernel⟩

/-- A switch on a quiet cluster; its gate; a generator that has locked; samples of rail A at the limit, below it, and calm for the 19th and the
20th time; windows of 499, 500, 520 and 521 W. -/
theorem witness_PowerAndClocks_clocks :
    (let s := powered { clus0 with pend := true, newRail := 1 } (.railSwitch 0)
     (getCluster s 0).pend = true ∧ (getCluster s 0).gated = false ∧ (getCluster s 0).moving = false ∧
       ∀ k ∈ coresOf 0, (getCore s k).task = none ∧ (getCore s k).bank = .user ∧ enginesBusy (getCore s k) = false) ∧
    (let s := powered { clus0 with pend := true, newRail := 1, gated := true } (.railSwitchGateEnd 0)
     (getCluster s 0).pend = true ∧ (getCluster s 0).gated = true) ∧
    (getCluster (powered { clus0 with locking := true } (.generatorHandover 0)) 0).locking = true ∧
    (∀ n ∈ [18, 19], let s := { user with hub := { user.hub with railLimit := [(.a, 100)], railCalm := [(.a, n)] } }
     railGet s.hub.railLimit .a = some 100 ∧ ((railGet s.hub.railCalm .a).getD 0 + 1 < 20 ↔ n = 18)) ∧
    (100 ≤ 100 ∧ 99 < 100 ∧ 9 * 100 ≤ 10 * 90 ∧ 10 * 89 < 9 * 100) ∧
    (let top := boostStep user.fuses
     let n := min user.hub.ceiling.toNat top
     16 < n ∧ 520 < 521 ∧ 499 < 500 ∧ n - 1 < top) := by
  exact by decide +kernel

/-- A cluster whose generators stand at the floor needs no handover, whatever its new rail supports. -/
theorem witness_PowerAndClocks_rail : let s := powered { clus0 with pend := true, newRail := 1, fstep := 16 } (.railSwitch 0)
    (getCluster s 0).fstep.toNat ≤ supportedStep s 0 ∧ (getCluster s 0).locking = false := ⟨Nat.le_max_left _ _, rfl⟩

/-- A link with three good groups and with two; a turn it makes and one it drops; the end of the dead time; wake writes at the aperture and behind
it, the latch free and taken, the queue with 15 and 16; a refused one; a host address inside and outside, and one whose line an overflow task holds; a core's checks. -/
theorem witness_LinksAndHost :
    (let x := { Link.reset fullPart 0 with good := 7 }
     x.inService = true ∧ x.good.getLsbD 0 = true ∧ 3 ≤ x.count) ∧
    (let x := { Link.reset fullPart 0 with good := 3 }
     x.inService = true ∧ x.good.getLsbD 0 = true ∧ x.count < 3) ∧
    (let x := Link.reset fullPart 0
     x.dead = none ∧ 4 ≤ x.count ∧ BitVec.ofNat 5 (max 2 (min 8 (x.count - 2))) = x.toward ∧ BitVec.ofNat 5 (max 2 (min 9 (x.count - 2))) ≠ x.toward) ∧
    (let x := { Link.reset fullPart 0 with dead := some 9 }
     x.dead = some 9) ∧ Sound user ∧
    (user.hub.apertureUp = true ∧ wakeRefusal user 0x40101 = none ∧ user.hub.kindles = [] ∧ wakeRefusal user 0 = some 0x0200) ∧
    (∀ n ∈ [15, 16], let s := { user with hub := { user.hub with apertureUp := false, wakeLatch := some 0, wakeQueue := List.replicate n 0 } }
     s.hub.apertureUp = false ∧ s.hub.packageOff = false ∧ s.hub.wakeLatch ≠ none ∧ s.hub.wakeQueue.length = n) ∧
    (let s := { user with hub := { user.hub with hostRanges := [(0x10000, 0x10000)] } }
     inHostRange s 0x1FFF8 8 = true ∧ inHostRange s 0x1FFF9 8 = false ∧ inHostRange s 0x1FFFF 1 = true ∧ hostWaits s 0x1FFF8 8 = false ∧
       hostWaits (overflowing (0x1FFF8 / 128) .s s) 0x1FFF8 8 = true) ∧
    (coreEnabled user 0 = true ∧ sramSource 6 = true ∧ sramSource 10 = true ∧ (getCore user 0).owner = some 1) ∧
    (getCore (at_ fun c => { c with halted := true }) 0).halted = true := by
  refine ⟨by decide +kernel, by decide +kernel, by decide +kernel, by decide +kernel, sound_of (by decide +kernel), by decide +kernel⟩

/-- A sample buffer of 16 words with some of them filled. -/
def buffer (wr rd : BitVec 32) : SampleBuf := ⟨0, 0x600000, 16, 0, rd, wr⟩
/-- A record of two words waits for it. -/
def tracing (b : SampleBuf) : State := { user with buffers := [b], traceQ := [⟨0, [1, 2]⟩], now := some .traceRecordWrite }

/-- A record that just fits at the end and none free; a sampled core; a capture; a core to stop, with a task and without. -/
theorem witness_TraceDebugAndFirmware :
    (let b := buffer 14 0
     let s := tracing b
     Sound s ∧ s.traceQ = ⟨0, [1, 2]⟩ :: [] ∧ (s.buffers.find? fun y => y.n == 0) = some b ∧ b.size ≠ 0 ∧ (b.wr - b.rd).toNat ≤ b.size.toNat ∧
       b.wr.toNat % b.size.toNat + 2 ≤ b.size.toNat ∧ 2 ≤ b.size.toNat - (b.wr - b.rd).toNat) ∧
    (let b := buffer 16 0
     (b.wr - b.rd).toNat ≤ b.size.toNat ∧ b.size.toNat - (b.wr - b.rd).toNat = 0) ∧
    (let s := { user with clusters := [(0, { clus0 with en := 2, sintv := 100, capt := true })] }
     let x := getCluster s (clusterOf 0)
     coreEnabled s 0 = true ∧ traces x 1 true = true ∧ x.sintv ≠ 0 ∧ x.pstate = .run ∧ x.gated = false ∧ (getCore s 0).task = some task1 ∧ x.capt = true ∧
       (getCore s 0).debugStopped = false ∧ mayStop s 0 = false) ∧ mayStop (between id) 0 = true := by
  refine ⟨⟨sound_of (by decide +kernel), by decide +kernel⟩, by decide +kernel⟩

/-- A context that is and one that is not; a queue that is and one that is not; the bounds of a buffer, of a journal, of a grant. -/
theorem witness_TraceDebugAndFirmware_writes :
    getCtx user 1 = some ctx1 ∧ getCtx user 2 = none ∧ (∀ y ∈ ctx1.queues, y.q ≠ 3) ∧ (getQueue (queued 0 .traceRecordWrite) 1 0).isSome = true ∧
    coreEnabled user 1031 = true ∧ (1022 : BitVec 10) ≠ 1023 ∧ enabled user 127 = true ∧ enabled user 128 = true ∧
    16 ≤ (16 : BitVec 32).toNat ∧ (BitVec.ofNat 32 (2 ^ 28)).toNat ≤ 2 ^ 28 ∧ (0x600000 : BitVec 48).toNat % 64 = 0 ∧
    ((tracing (buffer 0 0)).buffers.find? fun y => y.n == 0) = some (buffer 0 0) ∧ (user.buffers.find? fun y => y.n == 0) = none ∧ user.hub.journal.events = [] ∧ (0x10000 : BitVec 48).toNat % 65536 = 0 := by
  decide +kernel

/-- A guard on p1, which holds zero. -/
theorem witness_FalseGuardsMoveOn : user.core.bank = .user ∧ guardBit user ⟨false, 1, 0⟩ = false := ⟨rfl, by decide +kernel⟩

/-- A word whose operand alone is bad: of IADD, and of MCRD, which the task may not run. -/
theorem witness_StepRunsTheDecodedInstruction_operands :
    (let s := State.reset.withFetchWord 96 0x100000401810002001060000
     ∃ k r, s.agenda = .turn k :: r ∧ canRun (turnOf { s with agenda := r } k) = true ∧
       okPair (fetchWord (turnOf { s with agenda := r } k)) (fun w _ => w == 0x100000401810002001060000) = true) ∧
    (let w : BitVec 96 := 0x100000401810002001060000
     decodeWord w = .error .operand ∧ (privilegedOp (fieldsOf w).op || swrPrivileged (fieldsOf w)) = false) ∧
    (let w : BitVec 96 := ((encode (.mcrd al (.w 1) (.imm 0))).getD 0) ||| 0x18#96 <<< 56
     decodeWord w = .error .operand ∧ (privilegedOp (fieldsOf w).op || swrPrivileged (fieldsOf w)) = true) ∧
    user.core.bank = .user ∧ privileged user = false ∧ user.core.bank ≠ .coal := by
  exact ⟨⟨_, _, rfl, by decide +kernel⟩, by decide +kernel, by decide +kernel, rfl, by decide +kernel⟩

/-- The NOP and an altered word of the fetch tests; stores that an overflow task holds; a core that cannot run. -/
theorem witness_StepRunsTheDecodedInstruction :
    (let s := State.reset.withFetchWord 96 0x004000000000000000000000
     ∃ k r, s.agenda = .turn k :: r ∧ canRun (turnOf { s with agenda := r } k) = true ∧
       okPair (fetchWord (turnOf { s with agenda := r } k)) (fun w _ => match decodeWord w with | .ok i => i == .nop al | .error _ => false) = true ∧
       okPair (fetchWord (turnOf { s with agenda := r } k)) (fun _ s1 => heldBack s1 (.nop al) == false) = true) ∧
    heldBack (at_ fun c => { c with vq := [vec1 (some (vecTodo core0 (.vmovs al .i32 (.w 1) 1 (.imm 0))))] }) (.iadd al .i64 (.w 2) (.w 1) (.imm 1)) = true ∧
    (let st : PendStore := ⟨[(0x300040, 7)], 1, [], true, false⟩
     let s := overflowing 0x6000 .s (at_ fun c => { c with storeBuf := [st] })
     heldStores s (.fence al .ar .sys) = true ∧ heldBack s (.fence al .ar .sys) = false) ∧
    heldStores user (.nop al) = false ∧
    (let s := State.reset.withFetchWord 96 0xF00000400810002001060000
     ∃ k r, s.agenda = .turn k :: r ∧
       okPair (fetchWord (turnOf { s with agenda := r } k)) (fun w _ => match decodeWord w with | .ok _ => false | .error e => e == .insn) = true) ∧
    (∃ k, canRun (turnOf State.reset k) = false) :=
  ⟨⟨_, _, rfl, by decide +kernel⟩, by decide +kernel, by decide +kernel, by decide +kernel, ⟨_, _, rfl, by decide +kernel⟩, 0, by decide +kernel⟩

theorem witness_MemoryAndCoresStayInForm : Sound State.reset ∧ CoresNumbered State.reset ∧ ∃ t, step State.reset = .next t := by
  exact ⟨sound_of (by decide +kernel), numbered_of (by decide), _, rfl⟩

end Sys2Proof.Tests
end

