-- ==== Sys2Proof/Tests/Words.lean ====
section
/-!
SUPPORT. Sys2Proof/Tests/Words.lean: for every instruction a word written out from the encoding tables of spec/09 (opcode R174, fields R163,
operand kinds R166, modifier R170) and the instruction it stands for.
-/
set_option Elab.async false

namespace Sys2Proof.Tests

/-- Every word of a list decodes to the instruction beside it. -/
def decodes (l : List (Nat × Instr)) : Bool :=
  l.all fun p => match decodeWord (BitVec.ofNat 96 p.1) with
    | .ok i => decide (i = p.2)
    | .error _ => false

theorem test_wordsControl1 : decodes [
    (0x000000000000000000012345, .illegal 0x12345),
    (0x004094000000000000000000, .nop ⟨false, 0, 37⟩),
    (0x0081280000000000000FFFFB, .br ⟨false, 0, 74⟩ (-5)),
    (0x00F1BC00001001C0000FFFFA, .brz ⟨true, 4, 111⟩ (-6) (.w 7)),
    (0x0102500000100380000FFFF9, .brnz ⟨false, 0, 148⟩ (-7) (.w 14)),
    (0x0142E48004000000000FFFF8, .brdec ⟨false, 0, 185⟩ (-8) (.g 4)),
    (0x01BF78000010010000000000, .jmp ⟨true, 7, 222⟩ (.w 4)),
    (0x01C00C0000000000000FFFF6, .call ⟨false, 0, 3⟩ (-10)),
    (0x0200A000001002C000000000, .callr ⟨false, 0, 40⟩ (.w 11)),
    (0x026D34000000000000000000, .ret ⟨true, 3, 77⟩)] = true := by decide

theorem test_wordsControl2 : decodes [
    (0x0281C800008007C000000011, .loop ⟨false, 0, 114⟩ 17 (.imm (31))),
    (0x02C25C000000000000000000, .lbrk ⟨false, 0, 151⟩),
    (0x033AF04001100204015FFFF1, .fork ⟨true, 6, 188⟩ (-15) (.w 1) (.w 8) (.reg (.w 21))),
    (0x034384000010058000000000, .join ⟨false, 0, 225⟩ (.w 22)),
    (0x038018000000000000000000, .endTask ⟨false, 0, 6⟩),
    (0x03E8AC000000000000000000, .step ⟨true, 2, 43⟩),
    (0x04014000001001C000000000, .trap ⟨false, 0, 80⟩ (.reg (.w 7)))] = true := by decide

theorem test_wordsInteger1 : decodes [
    (0x10240480061004E3FF920000, .iadd ⟨true, 1, 1⟩ .i16 (.g 6) (.w 19) (.imm (-7))),
    (0x104098800210040400D20000, .isub ⟨false, 0, 38⟩ .i16 (.g 2) (.w 16) (.reg (.w 13))),
    (0x10812C8005100363FFB20000, .iadds ⟨false, 0, 75⟩ .i16 (.g 5) (.w 13) (.imm (-5))),
    (0x10F1C0800110028401320000, .isubs ⟨true, 4, 112⟩ .i16 (.g 1) (.w 10) (.reg (.w 19))),
    (0x11025480041001C000020000, .ineg ⟨false, 0, 149⟩ .i16 (.g 4) (.w 7)),
    (0x1142E8400E2001C000020000, .iabs ⟨false, 0, 186⟩ .i16 (.w 14) (.g 7)),
    (0x11BF7C40041002E3FFB20000, .imin ⟨true, 7, 223⟩ .i16 (.w 4) (.w 11) (.imm (-5))),
    (0x11C010400110020401520000, .imax ⟨false, 0, 4⟩ .i16 (.w 1) (.w 8) (.reg (.w 21))),
    (0x1200A4401610016001F30000, .iminn ⟨false, 0, 41⟩ .n16 (.w 22) (.w 5) (.imm (31))),
    (0x126D38401310008400330000, .imaxn ⟨true, 3, 78⟩ .n16 (.w 19) (.w 2) (.reg (.w 3)))] = true := by decide

theorem test_wordsInteger2 : decodes [
    (0x1281CC40101005E3FF920000, .iand ⟨false, 0, 115⟩ .i16 (.w 16) (.w 23) (.imm (-7))),
    (0x12C260400D100523FF920000, .ior ⟨false, 0, 152⟩ .i16 (.w 13) (.w 20) (.imm (-7))),
    (0x133AF4400A100463FF920000, .ixor ⟨true, 6, 189⟩ .i16 (.w 10) (.w 17) (.imm (-7))),
    (0x134388400710038400F20000, .iandn ⟨false, 0, 226⟩ .i16 (.w 7) (.w 14) (.reg (.w 15))),
    (0x13801C40041002E000320000, .ishl ⟨false, 0, 7⟩ .i16 (.w 4) (.w 11) (.imm (3))),
    (0x13E8B0400110020401530000, .ishr ⟨true, 2, 44⟩ .n16 (.w 1) (.w 8) (.reg (.w 21))),
    (0x1401444016100163FFB20000, .isar ⟨false, 0, 81⟩ .i16 (.w 22) (.w 5) (.imm (-5))),
    (0x1441D8401310008400320000, .irot ⟨false, 0, 118⟩ .i16 (.w 19) (.w 2) (.reg (.w 3))),
    (0x14B66C40101005E001F6001D, .iext ⟨true, 5, 155⟩ 29 (.w 16) (.w 23) (.imm (31))),
    (0x14C300400D1005040097001D, .iextn ⟨false, 0, 192⟩ 29 (.w 13) (.w 20) (.reg (.w 9)))] = true := by decide

theorem test_wordsInteger3 : decodes [
    (0x150394400A1004620007001D, .iins ⟨false, 0, 229⟩ 29 (.w 10) (.w 17) (.imm (-8192))),
    (0x156428400710038000032000, .icnt ⟨true, 1, 10⟩ .n16 .ctz (.w 7) (.w 14)),
    (0x1580BC8006000023FF920000, .imov ⟨false, 0, 47⟩ .i16 (.g 6) (.imm (-7))),
    (0x15C150400B20008400B25000, .isel ⟨false, 0, 84⟩ .i16 5 (.w 11) (.g 2) (.reg (.w 11))),
    (0x158000400300002523456789, .imov ⟨false, 0, 0⟩ .i64 (.w 3) (.long 0x123456789)),
    (0x128000400310012523456789, .iand ⟨false, 0, 0⟩ .i64 (.w 3) (.w 4) (.long 0x123456789)),
    (0x12C000400310012523456789, .ior ⟨false, 0, 0⟩ .i64 (.w 3) (.w 4) (.long 0x123456789)),
    (0x130000400320012523456789, .ixor ⟨false, 0, 0⟩ .i64 (.w 3) (.g 4) (.long 0x123456789))] = true := by decide

theorem test_wordsMultiply : decodes [
    (0x202408400820016200020000, .imul ⟨true, 1, 2⟩ .i16 (.w 8) (.g 5) (.imm (-8192))),
    (0x20409C400520004401120000, .imulh ⟨false, 0, 39⟩ .i16 (.w 5) (.g 1) (.reg (.w 17))),
    (0x2081304002200121FFF30000, .imulhn ⟨false, 0, 76⟩ .n16 (.w 2) (.g 4) (.imm (8191))),
    (0x20F1C440172001C401720000, .imad ⟨true, 4, 113⟩ .i16 (.w 23) (.g 7) (.reg (.w 23))),
    (0x21025840142000E000320000, .idiv ⟨false, 0, 150⟩ .i16 (.w 20) (.g 3) (.imm (3))),
    (0x2142EC401120018400530000, .idivn ⟨false, 0, 187⟩ .n16 (.w 17) (.g 6) (.reg (.w 5))),
    (0x21BF80400E2000A3FFB20000, .irem ⟨true, 7, 224⟩ .i16 (.w 14) (.g 2) (.imm (-5))),
    (0x21C014400B20014400B30000, .iremn ⟨false, 0, 5⟩ .n16 (.w 11) (.g 5) (.reg (.w 11))),
    (0x2200A8400820006001F60005, .ilea ⟨false, 0, 42⟩ 5 (.w 8) (.g 1) (.imm (31))),
    (0x226D3C40057AF90401300000, .idxt ⟨true, 3, 79⟩ (.w 5) (⟨4, 1404⟩) (.w 19))] = true := by decide

theorem test_wordsPredicate1 : decodes [
    (0x30240D00062001E3FF920000, .icmp ⟨true, 1, 3⟩ .i16 .eq 6 (.g 7) (.imm (-7))),
    (0x3040A100022000C400D85000, .fcmp ⟨false, 0, 40⟩ .ord 2 (.g 3) (.w 13)),
    (0x308135000540019000700000, .pand ⟨false, 0, 77⟩ 5 6 7),
    (0x30F1C9000140009000300000, .por ⟨true, 4, 114⟩ 1 2 3),
    (0x31025D000440015000600000, .pxor ⟨false, 0, 151⟩ 4 5 6),
    (0x3142F1000740004000000000, .pnot ⟨false, 0, 188⟩ 7 1),
    (0x31BF8440014000C000000000, .pget ⟨true, 7, 225⟩ (.w 1) 3),
    (0x31C01900048FFEC000000000, .pset ⟨false, 0, 6⟩ 4 (.imm (-5))),
    (0x3200AC40054001C000000000, .pfirst ⟨false, 0, 43⟩ (.w 5) 7),
    (0x326D40401340008000000000, .pcnt ⟨true, 3, 80⟩ (.w 19) 2)] = true := by decide

theorem test_wordsPredicate2 : decodes [
    (0x3000012C0210012523456789, .icmp ⟨false, 0, 0⟩ .n64 .ge 2 (.w 4) (.long 0x123456789))] = true := by decide

theorem test_wordsScalarFp1 : decodes [
    (0x402410800310040401780000, .fadd ⟨true, 1, 4⟩ (.g 3) (.w 16) (.w 23)),
    (0x4040A4800610034401480000, .fsub ⟨false, 0, 41⟩ (.g 6) (.w 13) (.w 20)),
    (0x408138800210028401180000, .fmul ⟨false, 0, 78⟩ (.g 2) (.w 10) (.w 17)),
    (0x40F1CC80051001C400E80000, .ffma ⟨true, 4, 115⟩ (.g 5) (.w 7) (.w 14)),
    (0x410260800110010400B80000, .fdiv ⟨false, 0, 152⟩ (.g 1) (.w 4) (.w 11)),
    (0x4142F4800410004000080000, .fsqrt ⟨false, 0, 189⟩ (.g 4) (.w 1)),
    (0x41BF8840082001C401680000, .fmin ⟨true, 7, 226⟩ (.w 8) (.g 7) (.w 22)),
    (0x41C01C40052000C401380000, .fmax ⟨false, 0, 7⟩ (.w 5) (.g 3) (.w 19)),
    (0x4200B0400220018000080000, .fabs ⟨false, 0, 44⟩ (.w 2) (.g 6)),
    (0x426D4440101005C000080000, .fneg ⟨true, 3, 81⟩ (.w 16) (.w 23))] = true := by decide

theorem test_wordsScalarFp2 : decodes [
    (0x4281D8800210034000040000, .fcvtif ⟨false, 0, 118⟩ .i32 (.g 2) (.w 13)),
    (0x42C26C401420014000040000, .fcvtfi ⟨false, 0, 155⟩ .i32 (.w 20) (.g 5)),
    (0x433B00400A10044000040000, .fcvtfiz ⟨true, 6, 192⟩ .i32 (.w 10) (.w 17)),
    (0x43439480011001C000080000, .frcp ⟨false, 0, 229⟩ (.g 1) (.w 7)),
    (0x438028400E20010000080000, .fexp2 ⟨false, 0, 10⟩ (.w 14) (.g 4)),
    (0x43E8BC40041002C000080000, .flog2 ⟨true, 2, 47⟩ (.w 4) (.w 11))] = true := by decide

theorem test_wordsMemory : decodes [
    (0x502414800710006001F10000, .ld ⟨true, 1, 5⟩ .n8 (.g 7) (.w 1) (.imm (31))),
    (0x5040A8800310058400710000, .st ⟨false, 0, 42⟩ .n8 (.g 3) (.w 22) (.reg (.w 7))),
    (0x50813C80061004E200020000, .ldl ⟨false, 0, 79⟩ .i16 (.g 6) (.w 19) (.imm (-8192))),
    (0x50F1D0800210040400D20000, .stl ⟨true, 4, 116⟩ .i16 (.g 2) (.w 16) (.reg (.w 13))),
    (0x510264800572FEC401420000, .ldpw ⟨false, 0, 153⟩ .i16 (.g 5) (⟨3, 383⟩) (some (.w 20))),
    (0x5142F80000200063FFB00000, .pref ⟨false, 0, 190⟩ (.g 1) (.imm (-5))),
    (0x51BF8C000010046200000000, .zline ⟨true, 7, 227⟩ (.w 17) (.imm (-8192))),
    (0x51C02000001001E000300000, .wbline ⟨false, 0, 8⟩ (.w 7) (.imm (3))),
    (0x5200B400002001E001F00000, .invline ⟨false, 0, 45⟩ (.g 7) (.imm (31)))] = true := by decide

theorem test_wordsAtomic1 : decodes [
    (0x602418400B2000C400B60000, .aadd ⟨true, 1, 6⟩ .i64 .rlx .core (.w 11) (.g 3) (.reg (.w 11))),
    (0x6040AC40082001A200060240, .amin ⟨false, 0, 43⟩ .i64 .acq .clus (.w 8) (.g 6) (.imm (-8192))),
    (0x608140400520008401160480, .amax ⟨false, 0, 80⟩ .i64 .rel .die (.w 5) (.g 2) (.reg (.w 17))),
    (0x60F1D44002200161FFF506C0, .aminn ⟨true, 4, 117⟩ .n32 .ar .pkg (.w 2) (.g 5) (.imm (8191))),
    (0x610268401720004401750100, .amaxn ⟨false, 0, 154⟩ .n32 .rlx .sys (.w 23) (.g 1) (.reg (.w 23))),
    (0x6142FC401420012000360200, .aand ⟨false, 0, 191⟩ .i64 .acq .core (.w 20) (.g 4) (.imm (3))),
    (0x61BF9040112001C400560440, .aor ⟨true, 7, 228⟩ .i64 .rel .clus (.w 17) (.g 7) (.reg (.w 5))),
    (0x61C024400E2000E3FFB60680, .axor ⟨false, 0, 9⟩ .i64 .ar .die (.w 14) (.g 3) (.imm (-5))),
    (0x6200B8400B20018400B600C0, .aswp ⟨false, 0, 46⟩ .i64 .rlx .pkg (.w 11) (.g 6) (.reg (.w 11))),
    (0x626D4C40081002A001F60300, .acas ⟨true, 3, 83⟩ .i64 .acq .sys (.w 8) (.w 10) (.imm (31)))] = true := by decide

theorem test_wordsAtomic2 : decodes [
    (0x6281E0400520014401120000, .ldacq ⟨false, 0, 120⟩ .i16 .core (.w 5) (.g 5) (.reg (.w 17))),
    (0x62C274400220006200020040, .strel ⟨false, 0, 157⟩ .i16 .clus (.w 2) (.g 1) (.imm (-8192))),
    (0x633B08000000000000000680, .fence ⟨true, 6, 194⟩ .ar .die),
    (0x63439C400D200104017000C0, .waita ⟨false, 0, 231⟩ .pkg (.reg (.w 13)) (.g 4) (.reg (.w 23))),
    (0x638030000000000000000000, .gbar ⟨false, 0, 12⟩)] = true := by decide

theorem test_wordsVectorInteger1 : decodes [
    (0x70241CC0043003E3FFD20000, .vadd ⟨true, 1, 7⟩ .i16 4 15 (.imm (-3))),
    (0x7040B0C005300423FFD20000, .vsub ⟨false, 0, 44⟩ .i16 5 16 (.imm (-3))),
    (0x708144C006300463FFD20000, .vadds ⟨false, 0, 81⟩ .i16 6 17 (.imm (-3))),
    (0x70F1D8C0073004A3FFD30000, .vaddsn ⟨true, 4, 118⟩ .n16 7 18 (.imm (-3))),
    (0x71026CC0083004E3FFD20000, .vsubs ⟨false, 0, 155⟩ .i16 8 19 (.imm (-3))),
    (0x714300C009300523FFD20000, .vmul ⟨false, 0, 192⟩ .i16 9 20 (.imm (-3))),
    (0x71BF94C00A300563FFD20000, .vmulh ⟨true, 7, 229⟩ .i16 10 21 (.imm (-3))),
    (0x71C028C00B3005A3FFD40000, .vmulhr ⟨false, 0, 10⟩ 11 22 (.imm (-3))),
    (0x7200BCC00C3005E3FFD20000, .vmad ⟨false, 0, 47⟩ .i16 12 23 (.imm (-3))),
    (0x726D50C01C300023FFD10000, .vmacw ⟨true, 3, 84⟩ .n8 28 0 (.imm (-3)))] = true := by decide

theorem test_wordsVectorInteger2 : decodes [
    (0x7281E4C00E300663FFD00000, .vdot4 ⟨false, 0, 121⟩ .i8 14 25 (.imm (-3))),
    (0x72C278C00F3006A3FFD20000, .vmin ⟨false, 0, 158⟩ .i16 15 26 (.imm (-3))),
    (0x733B0CC0103006E3FFD20000, .vmax ⟨true, 6, 195⟩ .i16 16 27 (.imm (-3))),
    (0x7343A0C011300723FFD30000, .vminn ⟨false, 0, 232⟩ .n16 17 28 (.imm (-3))),
    (0x738034C012300763FFD30000, .vmaxn ⟨false, 0, 13⟩ .n16 18 29 (.imm (-3))),
    (0x73E8C8C01330078000020000, .vabs ⟨true, 2, 50⟩ .i16 19 30),
    (0x74015CC00930050400920000, .vand ⟨false, 0, 87⟩ .i16 9 20 (.reg (.w 9))),
    (0x7441F0C00A30054400020000, .vor ⟨false, 0, 124⟩ .i16 10 21 (.reg (.w 0))),
    (0x74B684C00B30058400F20000, .vxor ⟨true, 5, 161⟩ .i16 11 22 (.reg (.w 15))),
    (0x74C318C00C3005C400620000, .vshl ⟨false, 0, 198⟩ .i16 12 23 (.reg (.w 6)))] = true := by decide

theorem test_wordsVectorInteger3 : decodes [
    (0x7503ACC00D30060401530000, .vshr ⟨false, 0, 235⟩ .n16 13 24 (.reg (.w 21))),
    (0x756440C00E30064400C20000, .vsar ⟨true, 1, 16⟩ .i16 14 25 (.reg (.w 12))),
    (0x7580D4C00F30068400320000, .vrshr ⟨false, 0, 53⟩ .i16 15 26 (.reg (.w 3))),
    (0x75C168C0103006C000020001, .vnars ⟨false, 0, 90⟩ .i16 1 16 27),
    (0x7631FCC00630044000030001, .vnarn ⟨true, 4, 127⟩ .n16 1 6 17),
    (0x764290C01C3001C000020001, .vwid ⟨false, 0, 164⟩ .i16 1 28 7),
    (0x768324C01230074000030001, .vwidn ⟨false, 0, 201⟩ .n16 1 18 29),
    (0x76FFB900053004CC01A23000, .vcmp ⟨true, 7, 238⟩ .i16 .le 5 19 (.v 26)),
    (0x77004CC00930050C01D25000, .vsel ⟨false, 0, 19⟩ .i16 5 9 20 (.v 29)),
    (0x7740E0C00A00000400B20000, .vsplat ⟨false, 0, 56⟩ .i16 10 (.reg (.w 11)))] = true := by decide

theorem test_wordsVectorInteger4 : decodes [
    (0x77AD74C0003002CC01620000, .vperm ⟨true, 3, 93⟩ .i16 0 11 22),
    (0x77C208C00130030401120000, .vslide ⟨false, 0, 130⟩ .i16 1 12 (.reg (.w 17))),
    (0x78029CC00200000400320000, .viota ⟨false, 0, 167⟩ .i16 2 (.reg (.w 3))),
    (0x787B3040103000C000020000, .vredadd ⟨true, 6, 204⟩ .i16 (.w 16) 3),
    (0x7883C4800230064000020000, .vredmax ⟨false, 0, 241⟩ .i16 (.g 2) 25),
    (0x78C05840143003C000020000, .vredmin ⟨false, 0, 22⟩ .i16 (.w 20) 15),
    (0x7928EC400A30016001F20000, .vmovs ⟨true, 2, 59⟩ .i16 (.w 10) 5 (.imm (31))),
    (0x794180C01B00000000020000, .vclr ⟨false, 0, 96⟩ .i16 27)] = true := by decide

theorem test_wordsVectorFp1 : decodes [
    (0x802420C00630044C014A0000, .vfadd ⟨true, 1, 8⟩ .h16 6 17 (.v 20)),
    (0x8040B4C007300488007A0000, .vfsub ⟨false, 0, 45⟩ .h16 7 18 (.reg (.g 7))),
    (0x808148C0083004CC01AA0000, .vfmul ⟨false, 0, 82⟩ .h16 8 19 (.v 26)),
    (0x80F1DCC009300508005A0000, .vffma ⟨true, 4, 119⟩ .h16 9 20 (.reg (.g 5))),
    (0x810270C00A30054C000A0000, .vfmin ⟨false, 0, 156⟩ .h16 10 21 (.v 0)),
    (0x814304C00B300588003A0000, .vfmax ⟨false, 0, 193⟩ .h16 11 22 (.reg (.g 3))),
    (0x81BF98C00C3005C0000A0000, .vfabs ⟨true, 7, 230⟩ .h16 12 23),
    (0x81C02CC002300340000A0000, .vfneg ⟨false, 0, 11⟩ .h16 2 13),
    (0x8200C0C0183000C000080000, .vfrcp ⟨false, 0, 48⟩ 24 3),
    (0x826D54C00E30064000080000, .vfrsq ⟨true, 3, 85⟩ 14 25)] = true := by decide

theorem test_wordsVectorFp2 : decodes [
    (0x8281E8C0043003C000080000, .vfexp2 ⟨false, 0, 122⟩ 4 15),
    (0x82C27CC01A30014000080000, .vflog2 ⟨false, 0, 159⟩ 26 5),
    (0x833B1100053006CC012A4000, .vfcmp ⟨true, 6, 196⟩ .h16 .un 5 27 (.v 18)),
    (0x8343A4400530070000080000, .vfradd ⟨false, 0, 233⟩ (.w 5) 28),
    (0x838038401330048000080000, .vfrmax ⟨false, 0, 14⟩ (.w 19) 18),
    (0x83E8CCC01D30020000040000, .vcvtfi ⟨true, 2, 51⟩ .i32 29 8),
    (0x840160C01330078000050000, .vcvtif ⟨false, 0, 88⟩ .n32 19 30),
    (0x8441F4C00930050000080001, .vcvtfb ⟨false, 0, 125⟩ 1 9 20),
    (0x84B688C01F30028000080001, .vcvtfbs ⟨true, 5, 162⟩ 1 31 10),
    (0x84C31CC01530000000080001, .vcvtfh ⟨false, 0, 199⟩ 1 21 0)] = true := by decide

theorem test_wordsVectorFp3 : decodes [
    (0x8503B0C00B30058000080001, .vcvte4s ⟨false, 0, 236⟩ .f32 1 11 22),
    (0x856444C00130030000080001, .vcvte4o ⟨true, 1, 17⟩ .f32 1 1 12),
    (0x8580D8C01730008000080001, .vcvte5s ⟨false, 0, 54⟩ .f32 1 23 2),
    (0x85C16CC00D30060000080001, .vcvte5o ⟨false, 0, 91⟩ .f32 1 13 24),
    (0x863200C00330038000080001, .vcvtf4s ⟨true, 4, 128⟩ .f32 1 3 14),
    (0x864294C01930010000090001, .vwidf ⟨false, 0, 165⟩ .b16 1 25 4),
    (0x868328C00F300688001F0001, .vdecq ⟨false, 0, 202⟩ .b8 1 15 26 (.g 1)),
    (0x86FFBCC0103006C8004E0001, .vencq ⟨true, 7, 239⟩ 1 16 27 (.g 4)),
    (0x870050400D10050800790000, .lwadd ⟨false, 0, 20⟩ .b16 (.w 13) (.w 20) (.g 7)),
    (0x8740E4400A10044000080000, .lrnd ⟨false, 0, 57⟩ (.w 10) (.w 17))] = true := by decide

theorem test_wordsVectorFp4 : decodes [
    (0x87AD7800002000C000000000, .lclr ⟨true, 3, 94⟩ (.g 3))] = true := by decide

theorem test_wordsStreams1 : decodes [
    (0x902424C01310008400F20000, .vld ⟨true, 1, 9⟩ .i16 19 (.reg (.w 2)) (.reg (.w 15))),
    (0x9040B8C01410016000320001, .vld2 ⟨false, 0, 46⟩ .i16 1 20 (.reg (.w 5)) (.imm (3))),
    (0x90814CC01510020401520000, .vst ⟨false, 0, 83⟩ .i16 21 (.reg (.w 8)) (.reg (.w 21))),
    (0x90F1E0C016100163FFB20000, .vlds ⟨true, 4, 120⟩ .i16 22 (.w 5) (.imm (-5))),
    (0x910274C01710008400320000, .vsts ⟨false, 0, 157⟩ .i16 23 (.w 2) (.reg (.w 3))),
    (0x914308C0181005CC00E20000, .vgath ⟨false, 0, 194⟩ .i16 24 (.w 23) 14),
    (0x91BF9CC01910050C00F20000, .vscat ⟨true, 7, 231⟩ .i16 25 (.w 20) 15),
    (0x91C030C01A520BE2000E0000, .vldb ⟨false, 0, 12⟩ .b4 26 (.ring ⟨15, 2, 2⟩) (.imm (-8192))),
    (0x9200C4000050084000000000, .radvc ⟨false, 0, 49⟩ (⟨1, 2, 0⟩)),
    (0x926D580000500C8000000000, .radvp ⟨true, 3, 86⟩ (⟨2, 3, 0⟩))] = true := by decide

theorem test_wordsStreams2 : decodes [
    (0x9281EC800250050000000000, .rstat ⟨false, 0, 123⟩ (.g 2) (⟨4, 1, 0⟩)),
    (0x92C280400B30058000000440, .send ⟨false, 0, 160⟩ .rel .clus (.w 11) (some 22)),
    (0x933B14400110020401500000, .sendl ⟨true, 6, 197⟩ .rlx .core (.w 1) (.w 8) (.reg (.w 21))),
    (0x9343A8C01E6000C000080000, .vsred ⟨false, 0, 234⟩ .f32 30 3),
    (0x93803CC01460014C00A40000, .vsmac ⟨false, 0, 15⟩ .i32 20 5 10),
    (0x93E8D0C01560000000000000, .vsmov ⟨true, 2, 52⟩ 21 0),
    (0x940164000060004000000000, .chend ⟨false, 0, 89⟩ 1)] = true := by decide

theorem test_wordsMatrix : decodes [
    (0xA0242800002000C00009E000, .mlda ⟨true, 1, 10⟩ .b4 .b16 (.g 3)),
    (0xA040BC4017100504015E901B, .mgang ⟨false, 0, 47⟩ .b4 .b16 27 (.reg (.w 23)) (.w 20) (some (.w 21))),
    (0xA081520003100444000E901B, .mma ⟨false, 0, 84⟩ .b4 .b16 27 (.imm (3)) (.w 17) (some (.w 0))),
    (0xA0F1E440050000000000001B, .mzero ⟨true, 4, 121⟩ 27 (.reg (.w 5))),
    (0xA1027A1FFF2001400000001B, .mstf ⟨false, 0, 158⟩ 27 (.imm (8191)) (.g 5)),
    (0xA1430E3FFB1002C80010001B, .mstq ⟨false, 0, 195⟩ 27 (.imm (-5)) (.w 11) (.g 1)),
    (0xA1BFA0400B1002000000001B, .mstb ⟨true, 7, 232⟩ 27 (.reg (.w 11)) (.w 8)),
    (0xA1C03440151005800000001B, .mldc ⟨false, 0, 13⟩ 27 (.reg (.w 21)) (.w 22)),
    (0xA200C8000000000000000000, .mwait ⟨false, 0, 50⟩),
    (0xA26D5C400500000000000000, .mstat ⟨true, 3, 87⟩ (.w 5))] = true := by decide

theorem test_wordsCopy : decodes [
    (0xB0242C400C1004C400200000, .cpy ⟨true, 1, 11⟩ .core (.reg (.w 12)) (.w 19) (.w 2)),
    (0xB040C1402710050400000040, .cpy2 ⟨false, 0, 48⟩ .clus (.ring ⟨7, 2, 0⟩) (.w 20) (.w 0)),
    (0xB08154401210010400600080, .cpyg ⟨false, 0, 85⟩ .die (.reg (.w 18)) (.w 4) (.w 6)),
    (0xB0F1E9403D00000400A000C0, .cpyz ⟨true, 4, 122⟩ .pkg (.ring ⟨13, 3, 0⟩) (.w 10)),
    (0xB1027C400C10038401000100, .cpyb ⟨false, 0, 159⟩ .sys (.w 12) (.w 14) (.w 16)),
    (0xB14310000000002200000000, .cwait ⟨false, 0, 196⟩ (.imm (-8192))),
    (0xB1BFA4800100002000300000, .cstat ⟨true, 7, 233⟩ (.g 1) (.imm (3))),
    (0xB1C038400B00002001F00000, .ccancel ⟨false, 0, 14⟩ (.w 11) (.imm (31)))] = true := by decide

theorem test_wordsRake : decodes [
    (0xC02430000010004000000002, .rkdecl ⟨true, 1, 12⟩ 2 (.w 1)),
    (0xC040C4000000000000000002, .rksweep ⟨false, 0, 49⟩ 2),
    (0xC08158000087FFC401500002, .rkwake ⟨false, 0, 86⟩ 2 (.imm (8191)) (.reg (.w 21))),
    (0xC0F1EC000000000000000000, .rknext ⟨true, 4, 123⟩),
    (0xC10280000000000000000002, .rkwait ⟨false, 0, 160⟩ 2),
    (0xC14314401600000000000002, .rkstat ⟨false, 0, 197⟩ 2 (.w 22))] = true := by decide

theorem test_wordsWork1 : decodes [
    (0xD0243440052000C401100000, .spawn ⟨true, 1, 13⟩ (.w 5) (.g 3) (.reg (.w 17))),
    (0xD040C8400220018000000000, .launch ⟨false, 0, 50⟩ (.w 2) (.g 6)),
    (0xD0815C40101005E1FFF00000, .glaunch ⟨false, 0, 87⟩ (.w 16) (.w 23) (.imm (8191))),
    (0xD0F1F0400D8FFEC000003000, .cancel ⟨true, 4, 124⟩ .phase (.w 13) (.imm (-5))),
    (0xD10284400C10038401000000, .bind ⟨false, 0, 161⟩ (.w 12) (.w 14) (.w 16)),
    (0xD14318800100000400500000, .unbind ⟨false, 0, 198⟩ (.g 1) (.reg (.w 5))),
    (0xD1BFAC400E1003C000001000, .compl ⟨true, 7, 235⟩ .launch (.w 14) (.reg (.w 15))),
    (0xD1C040400410004800702080, .kindle ⟨false, 0, 16⟩ .smoored .die (.w 4) (.reg (.w 1)) (.g 7)),
    (0xD200D4400188000000000000, .migrate ⟨false, 0, 53⟩ (.w 1) (.imm (-8192))),
    (0xD26D6880038000CC00100009, .tkcmt ⟨true, 3, 90⟩ 9 (.g 3) (.imm (3)) 1)] = true := by decide

theorem test_wordsWork2 : decodes [
    (0xD281FC800610044400200003, .tkwset ⟨false, 0, 127⟩ 3 (.g 6) (.reg (.w 17)) (.w 2)),
    (0xD2C29080028FFEC000000003, .tkwclr ⟨false, 0, 164⟩ 3 (.g 2) (.imm (-5))),
    (0xD33B2400001005E200000000, .notify ⟨true, 6, 201⟩ (.w 23) (.imm (-8192))),
    (0xD343B8000000000000000000, .idle ⟨false, 0, 238⟩)] = true := by decide

theorem test_wordsSystem1 : decodes [
    (0xE02438400DA00C0000000000, .srd ⟨true, 1, 14⟩ (.w 13) .caps),
    (0xE040CE80288007C000000000, .swr ⟨false, 0, 51⟩ .stallbank (.imm (31))),
    (0xE08160000010044800401000, .tlbinv ⟨false, 0, 88⟩ .ctx (.w 17) (.g 4)),
    (0xE0F1F4000010014000000000, .seed ⟨true, 4, 125⟩ (.reg (.w 5))),
    (0xE10288400E00000000000000, .rand ⟨false, 0, 162⟩ (.w 14)),
    (0xE1431C800788000400100000, .lturn ⟨false, 0, 199⟩ (.g 7) (.imm (-8192)) (.reg (.w 1))),
    (0xE1BFB080031002C000000000, .pwrreq ⟨true, 7, 236⟩ (.g 3) (.reg (.w 11))),
    (0xE1C0444008100561FFF00000, .railsel ⟨false, 0, 17⟩ (.w 8) (.reg (.w 21)) (.imm (8191))),
    (0xE200D800001001C000000000, .trmark ⟨false, 0, 54⟩ (.reg (.w 7))),
    (0xE26D6C00008FFDC000000000, .bkpt ⟨true, 3, 91⟩ (-9))] = true := by decide

theorem test_wordsSystem2 : decodes [
    (0xE28200000000000000000000, .eret ⟨false, 0, 128⟩),
    (0xE2C294401310008000000006, .pinset ⟨false, 0, 165⟩ 6 (.w 19) (.w 2)),
    (0xE33B2840088000C000000000, .dlyrd ⟨true, 6, 202⟩ (.w 8) (.imm (3))),
    (0xE343BC000010034000000000, .dlyclr ⟨false, 0, 239⟩ (.reg (.w 13))),
    (0xE3805080011005C000000000, .mcrd ⟨false, 0, 20⟩ (.g 1) (.reg (.w 23))),
    (0xE3E8E4000000000000000000, .halt ⟨true, 2, 57⟩),
    (0xE40178000000000000000000, .csync ⟨false, 0, 94⟩)] = true := by decide

end Sys2Proof.Tests
end

section
/-!
The register window: CALL, CALLR and RET turn it, and raise the spill and the fill trap (R56 to R60, R187).
-/
namespace Sys2Proof.Machine.RegisterLaws

/-! ### How an instruction that runs is executed -/

/-- With a true guard a scalar instruction ends in what its effect settles to (R168). -/
theorem scalar_of_runs {s : State} {h : Hdr} (hr : Runs s h) (k : State → Eff State) : scalar s h k = settle s .scalar (k s) := by
  obtain ⟨hbank, hguard⟩ := hr
  have hcoal : inCoal s = false := by simpa [inCoal] using hbank
  simp [scalar, hcoal, hguard]

/-- In a user task an instruction forbidden to service tasks is a scalar one. -/
theorem userOnly_of_runs {s : State} {h : Hdr} (hr : Runs s h) (hu : s.core.bank = .user) (k : State → Eff State) :
    userOnly s h k = settle s .scalar (k s) := by
  have hservice : inService s = false := by simp [inService, hu]
  simp [userOnly, hservice, scalar_of_runs hr]

/-- In a privileged task a privileged instruction is a scalar one (R175). -/
theorem privOnly_of_runs {s : State} {h : Hdr} (hr : Runs s h) (hp : privileged s = true) (k : State → Eff State) :
    privOnly s h k = settle s .scalar (k s) := by
  have hcoal : inCoal s = false := by simpa [inCoal] using hr.1
  simp [privOnly, hcoal, hp, scalar_of_runs hr]

@[simp] theorem settle_ok (s t : State) (u : UnitCode) : settle s u (.ok t) = t := rfl

/-- A fault of the instruction at the PC is raised at that PC (R321). -/
@[simp] theorem settle_fault (s : State) (u : UnitCode) (c : FCode) (a : Word) :
    settle s u (.error (.fault c a)) = raise s u c a := rfl

/-- Outside a loop the check of R188 passes. -/
theorem noLoop_of_off {s : State} (hl : s.core.loop.on = false) : noLoop s = .ok () := by
  simp [noLoop, need, hl]

theorem exec_call {s : State} {h : Hdr} (off : BitVec 20) (hr : Runs s h) (hu : s.core.bank = .user) (hl : s.core.loop.on = false) :
    exec (.call h off) s = .next (settle s .scalar (callTo s (s.core.pc + 12 * off.signExtend 64))) := by
  change Host.Outcome.next (userOnly s h fun s => do noLoop s; callTo s (target s off)) = _
  rw [userOnly_of_runs hr hu, noLoop_of_off hl]
  rfl

theorem exec_callr {s : State} {h : Hdr} (a : WG) (hr : Runs s h) (hu : s.core.bank = .user) (hl : s.core.loop.on = false) :
    exec (.callr h a) s = .next (settle s .scalar (callTo s (readWG s a))) := by
  change Host.Outcome.next (userOnly s h fun s => do noLoop s; callTo s (readWG s a)) = _
  rw [userOnly_of_runs hr hu, noLoop_of_off hl]
  rfl

theorem exec_ret {s : State} {h : Hdr} (hr : Runs s h) (hu : s.core.bank = .user) (hl : s.core.loop.on = false) :
    exec (.ret h) s = .next (settle s .scalar (retTo s)) := by
  change Host.Outcome.next (userOnly s h fun s => do noLoop s; retTo s) = _
  rw [userOnly_of_runs hr hu, noLoop_of_off hl]
  rfl

/-! ### The cases of a call and of a return -/

/-- A trap whose pin entry is valid enters the service entries at their head while they have room (R25, R142). -/
theorem raiseTrap_of_pinned {s : State} {cause : Nat} (hc : cause < 8) (hp : (s.core.pins[cause]).isSome) (hq : s.core.svcq.length < 4)
    (tcode : BitVec 16) (info : Word) (resume : Option Word) :
    raiseTrap s cause tcode info resume = .ok (raiseOwn s ⟨BitVec.ofNat 8 cause, tcode, info, resume, true⟩) := by
  obtain ⟨pin, hpin⟩ := Option.isSome_iff_exists.1 hp
  have hroom : svcRoom s = true := by simpa [svcRoom] using hq
  simp [raiseTrap, hc, hpin, hroom]

theorem callTo_resident {s : State} (hn : s.core.below.length < 7) (p : Word) :
    callTo s p = .ok (toPc (onCore s fun c => turnForward c (s.core.pc + 12)) p) := by
  simp [callTo, Nat.not_le.2 hn]

theorem callTo_spills {s : State} (hn : 7 ≤ s.core.below.length) (hroom : s.core.wstack.toNat + 136 ≤ s.core.wlimit.toNat) (p : Word) :
    callTo s p = raiseTrap s 1 0 (s.core.wstack.zeroExtend 64) (some s.core.pc) := by
  simp [callTo, hn, Nat.not_lt.2 hroom]

theorem callTo_pastLimit {s : State} (hn : 7 ≤ s.core.below.length) (hlim : s.core.wlimit.toNat < s.core.wstack.toNat + 136) (p : Word) :
    callTo s p = .error (.fault .lmAddr (s.core.wstack.zeroExtend 64)) := by
  simp [callTo, hn, hlim]

theorem retTo_resident {s : State} {f : Frame} {r : List Frame} (hb : s.core.below = f :: r) :
    retTo s = .ok (toPc (onCore s turnBack) (s.core.win.link.zeroExtend 64)) := by
  simp [retTo, hb]

theorem retTo_fills {s : State} (hb : s.core.below = []) (hd : s.core.wdepth ≠ 0) :
    retTo s = raiseTrap s 2 0 ((s.core.wstack - 136).zeroExtend 64) (some s.core.pc) := by
  simp only [retTo, hb, List.isEmpty_nil, if_true, if_neg hd]

theorem retTo_firstWindow {s : State} (hb : s.core.below = []) (hd : s.core.wdepth = 0) :
    retTo s = .error (.fault .illegalInsn s.core.pc) := by
  simp [retTo, hb, hd]

/-! ### The registers of a turned window -/

/-- The caller's frame becomes the current one; of the rest the outgoing registers alone change (R187). -/
theorem turnBack_cons {c : Core} {f : Frame} {r : List Frame} (hb : c.below = f :: r) :
    turnBack c = { c with win := f, below := r, out := (turnBack c).out } := by
  simp [turnBack, hb]

/-- Window registers of a user task that lie in the current window's own cells (R50). -/
theorem readWG_own {s : State} (hu : s.core.bank = .user) (n : Fin 24) (h : n.val < 16) : readWG s (.w n) = s.core.win.w[n.val] := by
  simp [readWG, hu, h]

/-- The outgoing registers of a user task (R50). -/
theorem readWG_out {s : State} (hu : s.core.bank = .user) (n : Fin 24) (h : ¬ n.val < 16) :
    readWG s (.w n) = s.core.out[n.val - 16] := by
  simp [readWG, hu, h]

/-- The caller's w16 to w23 read as w0 to w7 in the window a call makes, and every other register of it is zero (R187). -/
theorem readWG_turnForward {s : State} (hu : s.core.bank = .user) (ret p : Word) (n : Fin 24) :
    readWG (toPc (onCore s fun c => turnForward c ret) p) (.w n) =
      if h : n.val < 8 then readWG s (.w ⟨n.val + 16, by omega⟩) else 0 := by
  have ht : (toPc (onCore s fun c => turnForward c ret) p).core.bank = .user := hu
  by_cases h16 : n.val < 16
  · rw [readWG_own ht n h16]
    by_cases h8 : n.val < 8
    · simp [turnForward, h8, readWG_out hu]
    · simp [turnForward, h8]
  · rw [readWG_out ht n h16]
    simp [turnForward, show ¬ n.val < 8 by omega]

/-- The callee's w0 to w7 read as w16 to w23 in the window that a return goes back to (R187). -/
theorem readWG_turnBack {s : State} {f : Frame} {r : List Frame} (hu : s.core.bank = .user) (hb : s.core.below = f :: r) (p : Word)
    (n : Fin 8) :
    readWG (toPc (onCore s turnBack) p) (.w ⟨n.val + 16, by omega⟩) = readWG s (.w ⟨n.val, by omega⟩) := by
  have ht : (toPc (onCore s turnBack) p).core.bank = .user := by simp [turnBack, hb, hu]
  rw [readWG_out ht _ (by simp), readWG_own hu _ (by simp; omega)]
  simp [turnBack, hb]

/-! ### The obligation -/

/-- What a call to `goal` makes of a state while a hardware window is free (R56, R187). -/
def Called (s : State) (goal : Word) (t : State) : Prop :=
  t = { s with core := t.core } ∧ t.core.pc = goal ∧ t.core.below = s.core.win :: s.core.below ∧
  t.core.win.link = (s.core.pc + 12).extractLsb' 0 56 ∧
  (∀ n : Fin 24, readWG t (.w n) = if h : n.val < 8 then readWG s (.w ⟨n.val + 16, by omega⟩) else 0) ∧
  t.core = { s.core with win := t.core.win, out := t.core.out, below := t.core.below, pc := goal, srcPc := s.core.pc,
                         blocked := none, early := [] }

theorem called_turnForward {s : State} (hu : s.core.bank = .user) (goal : Word) :
    Called s goal (toPc (onCore s fun c => turnForward c (s.core.pc + 12)) goal) :=
  ⟨rfl, rfl, rfl, rfl, readWG_turnForward hu _ goal, rfl⟩

theorem windowTurns : WindowTurns := by
  intro s h off a hr hu hl
  refine ⟨fun hn => ⟨?call, ?callr⟩, ?ret⟩
  case call => exact ⟨_, by rw [exec_call off hr hu hl, callTo_resident hn, settle_ok], called_turnForward hu _⟩
  case callr => exact ⟨_, by rw [exec_callr a hr hu hl, callTo_resident hn, settle_ok], called_turnForward hu _⟩
  case ret =>
    intro f r hb
    refine ⟨toPc (onCore s turnBack) (s.core.win.link.zeroExtend 64), by rw [exec_ret hr hu hl, retTo_resident hb, settle_ok],
      rfl, rfl, ?_, ?_, readWG_turnBack hu hb _, ?_⟩ <;> rw [toPc_core, onCore_core, turnBack_cons hb]

theorem windowTraps : WindowTraps := by
  intro s h off hr hu hl hq
  refine ⟨fun hn hroom hp => ?spill, fun hn hlim => ?limit, fun hb hd hp => ?fill, fun hb hd => ?first⟩
  case spill =>
    rw [exec_call off hr hu hl, callTo_spills hn hroom, raiseTrap_of_pinned (by decide) hp hq]
    rfl
  case limit => rw [exec_call off hr hu hl, callTo_pastLimit hn hlim, settle_fault]
  case fill =>
    rw [exec_ret hr hu hl, retTo_fills hb hd, raiseTrap_of_pinned (by decide) hp hq]
    rfl
  case first => rw [exec_ret hr hu hl, retTo_firstWindow hb hd, settle_fault]

/-- Settles O7: a call and a return are the turn of the window where it is resident, and else the trap or the fault of their case. -/
theorem callsTurnTheWindow : Obligations.CallsTurnTheWindow := ⟨windowTurns, windowTraps⟩

end Sys2Proof.Machine.RegisterLaws
end

section
/-!
SRD and SWR: what reading and writing a special register does, and what it leaves alone (R61 to R67, R281).
-/
namespace Sys2Proof.Machine.RegisterLaws

/-! ### Moving on -/

/-- The PC that follows in a user task, by the cases of the loop (R188). -/
theorem nextPc_user {c : Core} (hu : c.bank = .user) : nextPc c =
    if c.loop.on = true ∧ c.pc + 12 = c.loop.stop then (if c.loop.rem = 1 then c.pc + 12 else c.loop.start) else c.pc + 12 := by
  unfold nextPc
  grind

/-- The loop state that follows in a user task (R188). -/
theorem nextLoop_user {c : Core} (hu : c.bank = .user) : nextLoop c =
    if c.loop.on = true ∧ c.pc + 12 = c.loop.stop then
      (if c.loop.rem = 1 then { c.loop with rem := 0, on := false } else { c.loop with rem := c.loop.rem - 1 })
    else c.loop := by
  simp only [nextLoop, hu, true_and]

theorem advance_pc {s : State} (hb : s.core.bank ≠ .coal) : (advance s).core.pc = nextPc s.core := by
  cases hbank : s.core.bank with
  | coal => exact absurd hbank hb
  | service => simp [advance_service s hbank, nextPc, hbank]
  | user =>
    rw [advance_user s hbank, nextPc_user hbank]
    split_ifs <;> rfl

theorem advance_loop {s : State} (hb : s.core.bank ≠ .coal) : (advance s).core.loop = nextLoop s.core := by
  cases hbank : s.core.bank with
  | coal => exact absurd hbank hb
  | service => simp [advance_service s hbank, nextLoop, hbank]
  | user =>
    rw [advance_user s hbank, nextLoop_user hbank]
    split_ifs <;> rfl

/-- In a service task nothing of the loop moves. -/
theorem advance_core_service {s : State} (hs : s.core.bank = .service) :
    (advance s).core = { s.core with pc := (advance s).core.pc, srcPc := s.core.pc, blocked := none, early := [] } := by
  rw [advance_service s hs]
  rfl

/-! ### A general register written -/

/-- A register written changes the words of the windows and the globals at most (R50, R55). -/
theorem writeWG_core (s : State) (d : WG) (x : Word) :
    (writeWG s d x).core =
      { s.core with win := ⟨(writeWG s d x).core.win.w, s.core.win.link⟩
                    out := (writeWG s d x).core.out
                    g := (writeWG s d x).core.g
                    svc := { s.core.svc with w := (writeWG s d x).core.svc.w, g := (writeWG s d x).core.svc.g } } := by
  unfold writeWG
  repeat' split
  all_goals rfl

/-- A user task's register stands outside the service bank. -/
theorem writeWG_core_user {s : State} (hu : s.core.bank = .user) (d : WG) (x : Word) :
    (writeWG s d x).core = { s.core with win := ⟨(writeWG s d x).core.win.w, s.core.win.link⟩
                                         out := (writeWG s d x).core.out
                                         g := (writeWG s d x).core.g } := by
  have hsvc : (writeWG s d x).core.svc = s.core.svc := by
    cases d <;> simp only [writeWG, hu] <;> split <;> rfl
  rw [writeWG_core, hsvc]

/-- A service task's register stands in the service bank (R55). -/
theorem writeWG_core_service {s : State} (hs : s.core.bank = .service) (d : WG) (x : Word) :
    (writeWG s d x).core =
      { s.core with svc := { s.core.svc with w := (writeWG s d x).core.svc.w, g := (writeWG s d x).core.svc.g } } := by
  have hown : (writeWG s d x).core.win = s.core.win ∧ (writeWG s d x).core.out = s.core.out ∧ (writeWG s d x).core.g = s.core.g := by
    cases d with
    | w n => simp only [writeWG, hs]; exact ⟨rfl, rfl, rfl⟩
    | g n => simp only [writeWG, hs]; split <;> exact ⟨rfl, rfl, rfl⟩
  obtain ⟨hwin, hout, hg⟩ := hown
  rw [writeWG_core, hwin, hout, hg]

/-- A register written and the PC moved on: the one effect of an instruction whose result is one general register. -/
theorem wroteReg_advance_writeWG {s : State} (hb : s.core.bank ≠ .coal) (d : WG) (x : Word) :
    WroteReg s (advance (writeWG s d x)) d x := by
  have hb' : (writeWG s d x).core.bank ≠ .coal := by rwa [writeWG_bank]
  refine ⟨⟨?outside, ?pc, ?loop⟩, ⟨fun hu => ?user, fun hs => ?service, hb⟩, fun r => ?reads⟩
  case outside => rw [advance_outside, writeWG_outside]
  case pc =>
    rw [advance_pc hb', writeWG_core]
    rfl
  case loop =>
    rw [advance_loop hb', writeWG_core]
    rfl
  case user =>
    rw [advance_core _ hb', writeWG_core_user hu]
  case service =>
    rw [advance_core_service (by rwa [writeWG_bank]), writeWG_core_service hs]
  case reads => rw [readWG_advance, readWG_writeWG s d r x hb]

/-! ### A special register written -/

/-- The special registers whose value SWR keeps stand in these fields of the core, and a write touches no other (R61 to R66). -/
theorem writeSpecial_core (s : State) (r : SReg) (x : Word) :
    (writeSpecial s r x).core =
      { s.core with wstack := if r = .wstack then x.extractLsb' 0 24 else s.core.wstack
                    wlimit := if r = .wspill then x.extractLsb' 24 24 else s.core.wlimit
                    wdepth := if r = .wspill then x.extractLsb' 8 16 else s.core.wdepth
                    win := { s.core.win with
                      link := if r = .link ∧ inService s = false then x.extractLsb' 0 56 else s.core.win.link }
                    svc := { s.core.svc with
                      link := if r = .link ∧ inService s = true then x.extractLsb' 0 56 else s.core.svc.link
                      launchScratch := if r = .launch ∧ inService s = true then some (x.extractLsb' 0 40) else s.core.svc.launchScratch
                      trapPc := if r = .trappc ∧ inService s = true then x.extractLsb' 0 56 else s.core.svc.trapPc
                      resume := if r = .trappc ∧ inService s = true then none else s.core.svc.resume }
                    stallBank := if r = .stallbank then x.extractLsb' 0 32 else s.core.stallBank
                    stallRake := if r = .stalleng then x.extractLsb' 48 16 else s.core.stallRake
                    stallCopy := if r = .stalleng then x.extractLsb' 32 16 else s.core.stallCopy
                    stallMatrix := if r = .stalleng then x.extractLsb' 16 16 else s.core.stallMatrix
                    stallVector := if r = .stalleng then x.extractLsb' 0 16 else s.core.stallVector } := by
  cases r <;> cases hs : inService s <;> simp [writeSpecial, hs]

theorem writeSpecial_outside (s : State) (r : SReg) (x : Word) :
    writeSpecial s r x = { s with core := (writeSpecial s r x).core } := by
  cases r <;> cases hs : inService s <;> simp [writeSpecial, hs, onCore]

@[simp] theorem writeSpecial_mem (s : State) (r : SReg) (x : Word) : (writeSpecial s r x).mem = s.mem := by
  rw [writeSpecial_outside]

@[simp] theorem writeSpecial_bank (s : State) (r : SReg) (x : Word) : (writeSpecial s r x).core.bank = s.core.bank := by
  rw [writeSpecial_core]

/-- No special register is a general one (R50, R62). -/
@[simp] theorem readWG_writeSpecial (s : State) (r : SReg) (x : Word) (q : WG) : readWG (writeSpecial s r x) q = readWG s q := by
  cases q <;> simp only [readWG, writeSpecial_core]

/-- SWR's write and step, under the checks of its register's access (R62). -/
theorem exec_swr_unfolded (s : State) (h : Hdr) (r : SReg) (a : WGI) :
    exec (.swr h r a) s =
      .next (if SReg.privWrite r then privOnly s h fun s => .ok (advance (writeSpecial s r (readWGI s a)))
             else scalar s h fun s => .ok (advance (writeSpecial s r (readWGI s a)))) := rfl

/-- What SWR of a register does that the task may write (R62). -/
theorem exec_swr {s : State} {h : Hdr} {r : SReg} (hr : Runs s h) (hp : SReg.privWrite r = true → privileged s = true) (a : WGI) :
    exec (.swr h r a) s = .next (advance (writeSpecial s r (readWGI s a))) := by
  cases hw : SReg.privWrite r with
  | true => rw [exec_swr_unfolded, if_pos hw, privOnly_of_runs hr (hp hw), settle_ok]
  | false => rw [exec_swr_unfolded, if_neg (by simp [hw]), scalar_of_runs hr, settle_ok]

/-- The core after SWR: the register's fields written, and what moves with the PC. -/
theorem advance_writeSpecial_core {s : State} (hb : s.core.bank ≠ .coal) (r : SReg) (x : Word) :
    (advance (writeSpecial s r x)).core =
      { (writeSpecial s r x).core with srcPc := s.core.pc, pc := nextPc s.core, blocked := none, early := []
                                       loop := nextLoop s.core, loopBuf := (advance (writeSpecial s r x)).core.loopBuf } := by
  have hb' : (writeSpecial s r x).core.bank ≠ .coal := by rwa [writeSpecial_bank]
  rw [advance_core _ hb', advance_pc hb', advance_loop hb', writeSpecial_core]
  rfl

/-! ### What SRD reads -/

/-- STALLENG reads whole what SWR wrote whole (R66). -/
theorem stalleng_parts (x : Word) : x.extractLsb' 48 16 ++ x.extractLsb' 32 16 ++ x.extractLsb' 16 16 ++ x.extractLsb' 0 16 = x := by
  rw [BitVec.extractLsb'_append_extractLsb'_eq_extractLsb' (by rfl), BitVec.extractLsb'_append_extractLsb'_eq_extractLsb' (by rfl),
    BitVec.extractLsb'_append_extractLsb'_eq_extractLsb' (by rfl)]
  exact BitVec.extractLsb'_eq_self

theorem readSpecial_stalleng (s : State) :
    readSpecial s .stalleng = s.core.stallRake ++ s.core.stallCopy ++ s.core.stallMatrix ++ s.core.stallVector := rfl

theorem readSpecial_link (s : State) :
    readSpecial s .link = (if s.core.bank = .service then s.core.svc.link else s.core.win.link).zeroExtend 64 := by
  simp [readSpecial, inService]

/-- What SRD does (R281). -/
theorem exec_srd {s : State} {h : Hdr} (hr : Runs s h) (d : WG) (r : SReg) :
    exec (.srd h d r) s = .next (advance (writeWG s d (readSpecial s r))) := by
  change Host.Outcome.next (scalar s h fun s => .ok (advance (writeWG s d (readSpecial s r)))) = _
  rw [scalar_of_runs hr, settle_ok]

/-- In a user task the trap registers read zero (R64). -/
theorem trapWord_user {s : State} (hu : s.core.bank = .user) (x : Word) : trapWord s x = 0 := by
  simp [trapWord, inService, hu]

/-! ### The obligation -/

/-- Settles O40: SRD is one general register written, and SWR is the write of the register's own fields with the PC moved on. -/
theorem specialRegisters : Obligations.SpecialRegisters := by
  intro s h d a r hr x
  have hb : s.core.bank ≠ .coal := hr.1
  have hreads : ∀ r' q, readWG (advance (writeSpecial s r' x)) q = readWG s q := by simp
  have hmem : ∀ r', (advance (writeSpecial s r' x)).mem = s.mem := by simp
  refine ⟨?srd, ⟨rfl, rfl, rfl, rfl, fun hu => ?traps⟩, fun hw hp => ?swr, ?link, ?stallbank, ?stalleng⟩
  case srd =>
    exact ⟨_, exec_srd hr d r, wroteReg_advance_writeWG hb d (readSpecial s r)⟩
  case traps => exact ⟨trapWord_user hu _, trapWord_user hu _, trapWord_user hu _⟩
  case swr =>
    refine ⟨_, exec_swr hr (fun _ => hp) a, ?pc, ?wstack, ?wlimit, ?wdepth, ?trapPc, hmem r, hreads r⟩ <;>
      rw [advance_writeSpecial_core hb, writeSpecial_core]
    case trapPc => simp [inService, x]
  case link =>
    refine ⟨_, exec_swr hr (fun hw => absurd hw (by decide)) a, ?_, ?_, hmem _, hreads _⟩
    · rw [advance_writeSpecial_core hb]
    · rw [readSpecial_link, advance_writeSpecial_core hb, writeSpecial_core]
      by_cases hs : s.core.bank = .service <;> simp [inService, hs, x]
  case stallbank =>
    refine ⟨_, exec_swr hr (fun hw => absurd hw (by decide)) a, ?_, hreads _⟩
    rw [advance_writeSpecial_core hb, writeSpecial_core]
    rfl
  case stalleng =>
    refine ⟨_, exec_swr hr (fun hw => absurd hw (by decide)) a, ?_, hreads _⟩
    rw [readSpecial_stalleng, advance_writeSpecial_core hb, writeSpecial_core]
    exact stalleng_parts x

end Sys2Proof.Machine.RegisterLaws
end

section
/-!
The forms of the state that every step keeps: memory and flash canonical (log 4), every core listed once (log 1).
-/
set_option Elab.async false
namespace Sys2Proof.Machine.FormLaws

/-! ### The forms, and the primitive updates that keep them -/

/-- The parts of a state on which its forms rest, in the forms of `s₀`: the focus core's number, the other cores, memory and flash. -/
def PartsInForm (s₀ : State) (i : Nat) (rest : List (Nat × Core)) (mem flash : List Host.Cell) : Prop :=
  (Sound s₀ → Memory.wf mem = true ∧ Memory.wf flash = true) ∧
  (CoresNumbered s₀ → (i :: rest.map Prod.fst).Nodup ∧ ∀ p ∈ rest, p.2.id = p.1)

/-- A state that has the forms that `s₀` has. -/
def StaysInForm (s₀ s : State) : Prop := PartsInForm s₀ s.core.id s.rest s.mem s.flash

theorem StaysInForm.refl (s : State) : StaysInForm s s := ⟨id, id⟩

theorem StaysInForm.trans {s t u : State} (h : StaysInForm s t) (k : StaysInForm t u) : StaysInForm s u :=
  ⟨k.1 ∘ h.1, k.2 ∘ h.2⟩

section
variable {s₀ s : State}

/-- A state has the forms of another one that agrees with it in the parts on which they rest. -/
theorem StaysInForm.of_eq {t : State} (h : StaysInForm s₀ s) (hi : t.core.id = s.core.id := by rfl) (hr : t.rest = s.rest := by rfl)
    (hm : t.mem = s.mem := by rfl) (hf : t.flash = s.flash := by rfl) : StaysInForm s₀ t := by
  unfold StaysInForm
  rw [hi, hr, hm, hf]
  exact h

/-- Memory replaced by one that is canonical where the old one is. -/
theorem StaysInForm.withMem {m : List Host.Cell} (h : StaysInForm s₀ s) (hm : Memory.wf s.mem = true → Memory.wf m = true) :
    StaysInForm s₀ { s with mem := m } :=
  ⟨fun hs => ⟨hm (h.1 hs).1, (h.1 hs).2⟩, h.2⟩

/-- Flash replaced by one that is canonical where the old one is. -/
theorem StaysInForm.withFlash {m : List Host.Cell} (h : StaysInForm s₀ s) (hm : Memory.wf s.flash = true → Memory.wf m = true) :
    StaysInForm s₀ { s with flash := m } :=
  ⟨fun hs => ⟨(h.1 hs).1, hm (h.1 hs).2⟩, h.2⟩

theorem StaysInForm.after_memSetAll {l : List (Nat × Byte)} (h : StaysInForm s₀ s) : StaysInForm s₀ { s with mem := memSetAll s.mem l } :=
  h.withMem fun hm => memSetAll_wf hm l
theorem StaysInForm.after_memWrite {k n x : Nat} (h : StaysInForm s₀ s) : StaysInForm s₀ { s with mem := memWrite s.mem k n x } :=
  h.withMem fun hm => memWrite_wf hm k n x
theorem StaysInForm.after_memClear {lo hi : Nat} (h : StaysInForm s₀ s) : StaysInForm s₀ { s with mem := memClear s.mem lo hi } :=
  h.withMem fun hm => memClear_wf hm lo hi

theorem StaysInForm.ite {c : Prop} [Decidable c] {t u : State} (ht : StaysInForm s₀ t) (hu : StaysInForm s₀ u) :
    StaysInForm s₀ (if c then t else u) := by
  split
  · exact ht
  · exact hu

theorem StaysInForm.foldl {α : Type} {f : State → α → State} {l : List α} (h : StaysInForm s₀ s)
    (hf : ∀ t x, StaysInForm s₀ t → StaysInForm s₀ (f t x)) : StaysInForm s₀ (l.foldl f s) := by
  induction l generalizing s with
  | nil => exact h
  | cons x r ih => exact ih (hf s x h)

/-! ### Cores and clusters -/

theorem map_fst_assocSet {α : Type} (l : List (Nat × α)) (k : Nat) (x : α) :
    (assocSet l k x).map Prod.fst = if k ∈ l.map Prod.fst then l.map Prod.fst else l.map Prod.fst ++ [k] := by
  fun_induction assocSet l k x <;> grind

theorem mem_assocSet {α : Type} {l : List (Nat × α)} {k : Nat} {x : α} {p : Nat × α} (h : p ∈ assocSet l k x) : p = (k, x) ∨ p ∈ l := by
  fun_induction assocSet l k x <;> grind

theorem map_fst_assocDel {α : Type} (l : List (Nat × α)) (k : Nat) : (assocDel l k).map Prod.fst = (l.map Prod.fst).filter (· != k) := by
  simp only [assocDel, List.filter_map]
  rfl

/-- Cores listed once stay so where one is put in place of the one of its number, or after them. -/
theorem numbered_assocSet {i k : Nat} {l : List (Nat × Core)} {c : Core} (hn : (i :: l.map Prod.fst).Nodup) (hi : ∀ p ∈ l, p.2.id = p.1)
    (hk : k ≠ i) (hc : c.id = k) : (i :: (assocSet l k c).map Prod.fst).Nodup ∧ ∀ p ∈ assocSet l k c, p.2.id = p.1 := by
  refine ⟨?nodup, fun p hp => ?numbers⟩
  case nodup =>
    rw [map_fst_assocSet]
    split
    · exact hn
    · rw [← List.cons_append, List.nodup_append]
      grind
  case numbers =>
    obtain rfl | hp := mem_assocSet hp
    · exact hc
    · exact hi p hp

theorem StaysInForm.after_setCore {c : Core} (h : StaysInForm s₀ s) : StaysInForm s₀ (setCore s c) := by
  unfold setCore
  split
  · next hc => exact ⟨h.1, fun hn => by simpa [hc] using h.2 hn⟩
  · next hc => exact ⟨h.1, fun hn => numbered_assocSet (h.2 hn).1 (h.2 hn).2 (Ne.symm hc) rfl⟩

theorem StaysInForm.after_modCore {k : Nat} {f : Core → Core} (h : StaysInForm s₀ s) : StaysInForm s₀ (modCore s k f) :=
  h.after_setCore

/-- A change of the focus core keeps the forms where it keeps the core's number. -/
theorem StaysInForm.after_onCore {f : Core → Core} (h : StaysInForm s₀ s) (hf : ∀ c, (f c).id = c.id := by intro; rfl) : StaysInForm s₀ (onCore s f) :=
  ⟨h.1, fun hn => by simpa [hf] using h.2 hn⟩

/-- A change of every core keeps the forms where it keeps every core's number. -/
theorem StaysInForm.after_mapCores {f : Core → Core} (h : StaysInForm s₀ s) (hf : ∀ c, (f c).id = c.id := by intro; rfl) :
    StaysInForm s₀ (mapCores s f) := by
  refine ⟨h.1, fun hn => ⟨?nodup, ?numbers⟩⟩
  case nodup => simpa [mapCores, hf, Function.comp_def] using (h.2 hn).1
  case numbers =>
    simp only [mapCores, List.mem_map]
    rintro _ ⟨p, hp, rfl⟩
    exact (hf p.2).trans ((h.2 hn).2 p hp)

theorem StaysInForm.after_focus {k : Nat} (h : StaysInForm s₀ s) : StaysInForm s₀ (focus s k) := by
  unfold focus
  split
  · exact h
  · next hk =>
    refine ⟨h.1, fun hn => ?_⟩
    obtain ⟨hnodup, hnum⟩ := h.2 hn
    rw [getCore_id]
    refine numbered_assocSet ?_ (fun p hp => hnum p (List.mem_of_mem_filter hp)) hk rfl
    rw [map_fst_assocDel]
    exact List.nodup_cons.2 ⟨by simp, (List.nodup_cons.1 hnodup).2.filter _⟩

theorem StaysInForm.after_setCluster {c : Nat} {x : Cluster} (h : StaysInForm s₀ s) : StaysInForm s₀ (setCluster s c x) := h
theorem StaysInForm.after_modCluster {c : Nat} {f : Cluster → Cluster} (h : StaysInForm s₀ s) : StaysInForm s₀ (modCluster s c f) := h
theorem StaysInForm.after_modCtx {i : CtxId} {f : Ctx → Ctx} (h : StaysInForm s₀ s) : StaysInForm s₀ (modCtx s i f) := h
theorem StaysInForm.after_modQueue {i : CtxId} {q : BitVec 4} {f : CmdQueue → CmdQueue} (h : StaysInForm s₀ s) :
    StaysInForm s₀ (modQueue s i q f) := h
theorem StaysInForm.after_modLaunch {i : CtxId} {l : Lid} {f : Launch → Launch} (h : StaysInForm s₀ s) :
    StaysInForm s₀ (modLaunch s i l f) := h
theorem StaysInForm.after_modGraph {i : CtxId} {g : BitVec 32} {f : Graph → Graph} (h : StaysInForm s₀ s) :
    StaysInForm s₀ (modGraph s i g f) := h
theorem StaysInForm.after_countUp {i : CtxId} {l : Lid} {n : Nat} (h : StaysInForm s₀ s) : StaysInForm s₀ (countUp s i l n) := h
theorem StaysInForm.after_countDown {i : CtxId} {l : Lid} {n : Nat} (h : StaysInForm s₀ s) : StaysInForm s₀ (countDown s i l n) := h
theorem StaysInForm.after_countOps {n : Nat} (h : StaysInForm s₀ s) : StaysInForm s₀ (countOps s n) := h
theorem StaysInForm.after_countBytes {n : Nat} (h : StaysInForm s₀ s) : StaysInForm s₀ (countBytes s n) := h
theorem StaysInForm.after_charge {n : Nat} (h : StaysInForm s₀ s) : StaysInForm s₀ (charge s n) := h

end

/-! ### Operations that may stop -/

/-- A stop whose translations have left states in the forms of `s₀`. -/
def StopsInForm (s₀ : State) : Stop → Prop
  | .after t e => StaysInForm s₀ t ∧ StopsInForm s₀ e
  | .fault _ _ => True
  | .wait _ => True
  | .cold _ => True
  | .asleep _ => True

/-- An operation that ends with an answer of which `q` holds, or stops in the forms of `s₀`. -/
def EndsInForm {α : Type} (s₀ : State) (q : α → Prop) : Eff α → Prop
  | .ok x => q x
  | .error e => StopsInForm s₀ e

section
variable {s₀ s : State} {α β : Type} {q : α → Prop} {p : β → Prop}

@[simp] theorem stopsInForm_after {t : State} {e : Stop} : StopsInForm s₀ (.after t e) ↔ StaysInForm s₀ t ∧ StopsInForm s₀ e := Iff.rfl
@[simp] theorem stopsInForm_fault {c : FCode} {a : Word} : StopsInForm s₀ (.fault c a) := trivial
@[simp] theorem stopsInForm_wait {w : Wait} : StopsInForm s₀ (.wait w) := trivial
@[simp] theorem stopsInForm_cold {m : PageMove} : StopsInForm s₀ (.cold m) := trivial
@[simp] theorem stopsInForm_asleep {ch : Nat} : StopsInForm s₀ (.asleep ch) := trivial
@[simp] theorem endsInForm_ok {x : α} : EndsInForm s₀ q (.ok x) ↔ q x := Iff.rfl
@[simp] theorem endsInForm_pure {x : α} : EndsInForm s₀ q (pure x) ↔ q x := Iff.rfl
@[simp] theorem endsInForm_error {e : Stop} : EndsInForm s₀ q (.error e : Eff α) ↔ StopsInForm s₀ e := Iff.rfl

theorem endsInForm_fault {c : FCode} {a : Word} : EndsInForm s₀ q (.error (.fault c a) : Eff α) := trivial

theorem stopsInForm_bare (e : Stop) : StopsInForm s₀ e.bare := by
  induction e with
  | after t e ih => exact ih
  | _ => trivial

theorem StopsInForm.state {e : Stop} (he : StopsInForm s₀ e) (h : StaysInForm s₀ s) : StaysInForm s₀ (e.state s) := by
  induction e generalizing s with
  | after t e ih => exact ih he.2 he.1
  | _ => exact h

theorem EndsInForm.bind {x : Eff β} {k : β → Eff α} (hx : EndsInForm s₀ p x) (hk : ∀ a, p a → EndsInForm s₀ q (k a)) :
    EndsInForm s₀ q (x >>= k) := by
  cases x with
  | error e => exact hx
  | ok a => exact hk a hx

theorem EndsInForm.ok {x : Eff α} {a : α} (hx : EndsInForm s₀ q x) (h : x = .ok a) : q a := by
  subst h
  exact hx

theorem EndsInForm.error {x : Eff α} {e : Stop} (hx : EndsInForm s₀ q x) (h : x = .error e) : StopsInForm s₀ e := by
  subst h
  exact hx

theorem EndsInForm.after_keeping {x : Eff α} (hx : EndsInForm s₀ q x) (h : StaysInForm s₀ s) : EndsInForm s₀ q (keeping s x) := by
  cases x with
  | error e => exact ⟨h, hx⟩
  | ok a => exact hx

theorem EndsInForm.ite {c : Prop} [Decidable c] {x y : Eff α} (hx : EndsInForm s₀ q x) (hy : EndsInForm s₀ q y) :
    EndsInForm s₀ q (if c then x else y) := by
  split
  · exact hx
  · exact hy

theorem endsInForm_need {ok : Bool} {c : FCode} {a : Word} {q : Unit → Prop} (hq : q ()) : EndsInForm s₀ q (need ok c a) := by
  unfold need
  split
  · exact hq
  · trivial

theorem endsInForm_waitFor {ok : Bool} {w : Wait} {q : Unit → Prop} (hq : q ()) : EndsInForm s₀ q (waitFor ok w) := by
  unfold waitFor
  split
  · exact hq
  · trivial

theorem endsInForm_issueRoom {n : Nat} {q : Unit → Prop} (hq : q ()) : EndsInForm s₀ q (issueRoom s n) := endsInForm_waitFor hq

end

/-! ### Translation, and where an access lies -/
section
variable {s₀ s : State}

theorem physStop_inForm {w : Acc} {p n : Nat} {fa : Word} {e : Stop} (he : physStop s w p n fa = some e) : StopsInForm s₀ e := by
  simp only [physStop] at he
  split at he
  · obtain rfl := Option.some.inj he
    trivial
  · split at he
    · obtain rfl := Option.some.inj he
      trivial
    · obtain ⟨ch, _, rfl⟩ := Option.map_eq_some_iff.1 he
      trivial

theorem leafFor_inForm {w : Acc} {va : Nat} {fa : Word} : EndsInForm s₀ (fun _ => True) (leafFor s w va fa) := by
  simp only [leafFor]
  split
  · trivial
  · refine .ite trivial ?_
    split
    · trivial
    · split
      · next he =>
        obtain ⟨a, _, ha⟩ := List.exists_of_findSome?_eq_some he
        exact physStop_inForm ha
      · split <;> trivial

theorem StaysInForm.after_keepTlb {w : Acc} {t : Tlb} (h : StaysInForm s₀ s) : StaysInForm s₀ (keepTlb s w t) := by
  simp only [keepTlb]
  split
  · exact h.after_modCore.of_eq
  · exact h

theorem StaysInForm.after_translate {w : Acc} {va n : Nat} {write : Bool} {fa : Word} (h : StaysInForm s₀ s) :
    EndsInForm s₀ (fun r => StaysInForm s₀ r.2.2) (translate s w va n write fa) := by
  unfold translate
  split
  · next he => exact leafFor_inForm.error he
  · refine .ite trivial (.ite trivial (.ite trivial ?_))
    dsimp only
    split
    · next he => exact physStop_inForm he
    · exact (h.ite h.after_memWrite).after_keepTlb

theorem StaysInForm.after_granules {w : Acc} {write : Bool} {n a len : Nat} (h : StaysInForm s₀ s) :
    EndsInForm s₀ (fun r => StaysInForm s₀ r.2) (granules s w write n a len) := by
  induction n generalizing s a len with
  | zero => exact h
  | succ n ih =>
    unfold granules
    refine .ite h ?_
    dsimp only
    split
    · next he => exact h.after_translate.error he
    · next he =>
      have h1 := h.after_translate.ok he
      split
      · next hr => exact ((ih h1).after_keeping h1).error hr
      · next hr => exact ((ih h1).after_keeping h1).ok (q := fun r => StaysInForm s₀ r.2) hr

theorem checkWindow_inForm {a : Word} {n align : Nat} : EndsInForm s₀ (fun _ => True) (checkWindow a n align) := by
  unfold checkWindow
  split
  · trivial
  · split_ifs <;> trivial

theorem peerStop_inForm {me k : Nat} {ctx : CtxId} {fa : Word} {e : Stop} (he : peerStop s me k ctx fa = some e) : StopsInForm s₀ e := by
  unfold peerStop at he
  split_ifs at he <;> obtain rfl := Option.some.inj he <;> trivial

theorem StaysInForm.after_place {w : Acc} {a : Word} {n align : Nat} {write : Bool} (h : StaysInForm s₀ s) :
    EndsInForm s₀ (fun r => StaysInForm s₀ r.2) (place s w a n align write) := by
  fun_cases place s w a n align write
  case case1 he => exact checkWindow_inForm.error he
  case case2 => exact h.after_granules
  case case4 he => exact peerStop_inForm he
  case case5 | case7 => exact h
  all_goals exact endsInForm_fault

theorem StaysInForm.after_resolve {w : Acc} {a : Word} {n align : Nat} {write : Bool} (h : StaysInForm s₀ s) :
    EndsInForm s₀ (fun r => StaysInForm s₀ r.2) (resolve s w a n align write) := by
  unfold resolve
  split
  · next he => exact h.after_place.error he
  · next he =>
    have h1 := h.after_place.ok he
    exact .ite ⟨h1, trivial⟩ h1

/-! ### Lines, the directory, writes at the homes -/

theorem StaysInForm.after_dropLine {k line : Nat} (h : StaysInForm s₀ s) : StaysInForm s₀ (dropLine s k line) := h.after_modCore

theorem StaysInForm.after_putDir {d : Nat} {l : List DirEntry} (h : StaysInForm s₀ s) : StaysInForm s₀ (putDir s d l) := h

theorem StaysInForm.after_askDir {d : Nat} {r : DirReq} (h : StaysInForm s₀ s) : StaysInForm s₀ (askDir s d r) := h

theorem StaysInForm.after_modMask {k list : Nat} {f : Nat → Nat} (h : StaysInForm s₀ s) : StaysInForm s₀ (modMask s k list f) := by
  unfold modMask
  split
  · exact h
  · exact h.after_memWrite

theorem StaysInForm.after_dropEntry {d line : Nat} (h : StaysInForm s₀ s) : StaysInForm s₀ (dropEntry s d line) := by
  refine StaysInForm.after_putDir ?_
  split
  · exact h.after_modMask.ite h
  · exact h

theorem StaysInForm.after_removeSharer {k line : Nat} (h : StaysInForm s₀ s) : StaysInForm s₀ (removeSharer s k line) := by
  simp only [removeSharer]
  refine h.ite ?_
  split
  · exact h
  · exact h.ite (h.after_modMask.ite h.after_putDir)

theorem StaysInForm.after_noRoute {k : Nat} {ctx : CtxId} {a : Nat} (h : StaysInForm s₀ s) : StaysInForm s₀ (noRoute s k ctx a) := h

theorem StaysInForm.after_recallZero {l : List Nat} (h : StaysInForm s₀ s) : StaysInForm s₀ (recallZero s l) :=
  (h.after_mapCores).ite h

theorem StaysInForm.after_homePut {l : List (Nat × Byte)} (h : StaysInForm s₀ s) : StaysInForm s₀ (homePut s l) :=
  h.after_memSetAll.after_recallZero

theorem StaysInForm.after_putNum {k n x : Nat} (h : StaysInForm s₀ s) : StaysInForm s₀ (putNum s k n x) :=
  h.after_memWrite.after_recallZero

theorem StaysInForm.after_writeHome {k : Nat} {ctx : CtxId} {l : List (Nat × Byte)} (h : StaysInForm s₀ s) :
    StaysInForm s₀ (writeHome s k ctx l) := by
  simp only [writeHome]
  split
  · exact h.after_homePut
  · exact h.after_homePut.after_noRoute

theorem StaysInForm.after_writeBackLine {k line : Nat} (h : StaysInForm s₀ s) : StaysInForm s₀ (writeBackLine s k line) := by
  unfold writeBackLine
  split
  · exact h.after_writeHome
  · exact h

theorem StaysInForm.after_evictLine {k line : Nat} (h : StaysInForm s₀ s) : StaysInForm s₀ (evictLine s k line) :=
  h.after_writeBackLine.after_dropLine.after_removeSharer

theorem StaysInForm.after_makeWay {k line : Nat} {zero : Bool} (h : StaysInForm s₀ s) : StaysInForm s₀ (makeWay s k line zero) := by
  simp only [makeWay]
  split
  · exact StaysInForm.after_evictLine h
  · exact h

/-! ### Loads and stores -/

theorem StaysInForm.after_respond {n : Nat} {l : Option Nat} (h : StaysInForm s₀ s) : StaysInForm s₀ (respond s n l) := h.after_onCore

theorem StaysInForm.after_countAccess {key : Nat} (h : StaysInForm s₀ s) : StaysInForm s₀ (countAccess s key) := by
  unfold countAccess
  split
  · exact h.after_respond
  · exact h

theorem StaysInForm.after_touchLine {line : Nat} {need : Nat → Bool} {counted : Bool} (h : StaysInForm s₀ s) :
    StaysInForm s₀ (touchLine s line need counted) := by
  have h1 : ∀ b : Prop, [Decidable b] → StaysInForm s₀ (if b then countBytes s 128 else s) := fun b _ => h.after_countBytes.ite h
  simp only [touchLine]
  refine .ite (h.ite ?remote) (h.ite ?own)
  case remote => exact ((h1 _).after_makeWay.after_onCore).after_respond
  case own => exact ((h1 _).after_makeWay.after_onCore).after_respond.after_askDir

theorem StaysInForm.after_touchLoad {l : List Spot} (h : StaysInForm s₀ s) : StaysInForm s₀ (touchLoad s l) := by
  have h1 : ∀ (f : Nat → Nat → Bool) (m : List Nat), StaysInForm s₀ (m.foldl (fun acc line => touchLine acc line (f line) true) s) :=
    fun f m => h.foldl fun _ _ ht => ht.after_touchLine
  simp only [touchLoad]
  split
  · exact h1 _ _
  · exact (h1 _ _).after_countBytes.after_countAccess

theorem StaysInForm.after_load {a : Word} {n align : Nat} (h : StaysInForm s₀ s) :
    EndsInForm s₀ (fun r => StaysInForm s₀ r.2) (load s a n align) := by
  unfold load
  split
  · next he => exact h.after_resolve.error he
  · next he => exact (h.after_resolve.ok he).after_touchLoad

theorem StaysInForm.after_readEarly {k key : Nat} (h : StaysInForm s₀ s) : StaysInForm s₀ (readEarly s k key) := h.after_modCore

theorem StaysInForm.after_pushStore {l : List (Spot × Byte)} {z whole : Bool} (h : StaysInForm s₀ s) :
    EndsInForm s₀ (StaysInForm s₀) (pushStore s l z whole) :=
  .ite trivial (h.after_countBytes.after_onCore)

theorem StaysInForm.after_store {a : Word} {n align x : Nat} (h : StaysInForm s₀ s) :
    EndsInForm s₀ (StaysInForm s₀) (store s a n align x) := by
  unfold store
  split
  · next he => exact h.after_resolve.error he
  · next he => exact (h.after_resolve.ok he).after_pushStore

theorem StaysInForm.after_readyRemote {k line : Nat} {ctx : CtxId} {zero : Bool} (h : StaysInForm s₀ s) :
    StaysInForm s₀ (readyRemote s k ctx zero line) :=
  h.after_makeWay.after_writeBackLine.after_modCore.ite h.after_makeWay

theorem StaysInForm.after_ownStore {k line : Nat} {ctx : CtxId} {zero : Bool} (h : StaysInForm s₀ s) :
    StaysInForm s₀ (ownStore s k zero ctx line) :=
  h.after_makeWay.after_modCore.after_askDir

theorem StaysInForm.after_performStore {k : Nat} {p : PendStore} (h : StaysInForm s₀ s) : StaysInForm s₀ (performStore s k p) :=
  ((h.after_writeHome.foldl fun _ _ ht => ht.after_readyRemote).after_modCore).foldl fun _ _ ht => ht.after_ownStore

theorem StaysInForm.after_drainOne {k : Nat} (h : StaysInForm s₀ s) : StaysInForm s₀ (drainOne s k) := by
  unfold drainOne
  split
  · exact h
  · exact h.after_modCore.after_performStore

theorem StaysInForm.after_drainStep {k : Nat} (h : StaysInForm s₀ s) : StaysInForm s₀ (drainStep s k) := by
  unfold drainStep
  split
  · exact h
  · have h1 : StaysInForm s₀ { s with free := s.free + 1 } := h
    exact h.ite (h.after_drainOne.ite h1.after_modCore.after_performStore)

theorem StaysInForm.after_drainN {k n : Nat} (h : StaysInForm s₀ s) : StaysInForm s₀ (drainN s k n) := by
  induction n generalizing s with
  | zero => exact h
  | succ n ih => exact ih h.after_drainOne

theorem StaysInForm.after_drainAll {k : Nat} (h : StaysInForm s₀ s) : StaysInForm s₀ (drainAll s k) := h.after_drainN

theorem StaysInForm.after_flushRemote {k : Nat} (h : StaysInForm s₀ s) : StaysInForm s₀ (flushRemote s k) :=
  h.foldl fun _ _ ht => ht.after_writeHome

theorem StaysInForm.after_release {k : Nat} {sc : Scope} (h : StaysInForm s₀ s) : StaysInForm s₀ (release s k sc) :=
  h.after_drainAll.after_flushRemote.after_modCore.ite h.after_drainAll

theorem StaysInForm.after_acquire {k : Nat} {sc : Scope} (h : StaysInForm s₀ s) : StaysInForm s₀ (acquire s k sc) :=
  h.after_flushRemote.after_modCore.ite h

theorem StaysInForm.after_unitRead {w : Acc} {a : Word} {n align : Nat} (h : StaysInForm s₀ s) :
    EndsInForm s₀ (fun r => StaysInForm s₀ r.2) (unitRead s w a n align) := by
  unfold unitRead
  split
  · next he => exact h.after_resolve.error he
  · next he => exact h.after_resolve.ok (q := fun r => StaysInForm s₀ r.2) he

theorem StaysInForm.after_unitPut {k : Nat} {l : List (Nat × Byte)} (h : StaysInForm s₀ s) : StaysInForm s₀ (unitPut s k l) :=
  (h.after_homePut.foldl fun _ _ ht => ht.after_makeWay).after_modCore

theorem StaysInForm.after_hubRead {w : Acc} {a : Word} {n align : Nat} (h : StaysInForm s₀ s) :
    EndsInForm s₀ (fun r => StaysInForm s₀ r.2) (hubRead s w a n align) := by
  unfold hubRead
  split
  · next he => exact h.after_resolve.error he
  · next he => exact h.after_resolve.ok (q := fun r => StaysInForm s₀ r.2) he

theorem StaysInForm.after_hubWrite {w : Acc} {a : Word} {align : Nat} {l : List Byte} (h : StaysInForm s₀ s) :
    EndsInForm s₀ (StaysInForm s₀) (hubWrite s w a align l) := by
  unfold hubWrite
  split
  · next he => exact h.after_resolve.error he
  · next he => exact (h.after_resolve.ok he).after_homePut

end
end Sys2Proof.Machine.FormLaws
end

section
/-!
The forms through the copy engine, the matrix engine and the operations on launches, faults and traps.
-/
set_option Elab.async false
namespace Sys2Proof.Machine.FormLaws

variable {s₀ s : State}

/-! ### Fields on which the forms do not rest -/

theorem StaysInForm.with_free {n : Nat} (h : StaysInForm s₀ s) : StaysInForm s₀ { s with free := n } := h
theorem StaysInForm.with_graphs {l : List Graph} (h : StaysInForm s₀ s) : StaysInForm s₀ { s with graphs := l } := h
theorem StaysInForm.with_launches {l : List Launch} (h : StaysInForm s₀ s) : StaysInForm s₀ { s with launches := l } := h
theorem StaysInForm.with_hub {x : Hub} (h : StaysInForm s₀ s) : StaysInForm s₀ { s with hub := x } := h
theorem StaysInForm.with_cuts {l : List Cut} (h : StaysInForm s₀ s) : StaysInForm s₀ { s with cuts := l } := h
theorem StaysInForm.with_agenda {l : List Happening} (h : StaysInForm s₀ s) : StaysInForm s₀ { s with agenda := l } := h

/-! ### The copy engine -/

theorem StaysInForm.after_copyGone {k : Nat} {x : Copy} (h : StaysInForm s₀ s) : StaysInForm s₀ (copyGone s k x) :=
  h.after_modCore.after_countDown

theorem StaysInForm.after_beatDest {w : Acc} {c : Copy} {rank q n : Nat} (h : StaysInForm s₀ s) :
    EndsInForm s₀ (fun r => StaysInForm s₀ r.2) (beatDest s w c rank q n) := by
  unfold beatDest
  split
  · exact h
  · exact .ite h.after_resolve h.after_resolve

theorem StaysInForm.after_arrive {k key b : Nat} {sc : Scope} (h : StaysInForm s₀ s) : StaysInForm s₀ (arrive s k key b sc) :=
  (h.after_release.ite h).after_memWrite

theorem StaysInForm.after_moveBeat {c : Copy} {b : Nat} {pick : Nat → Nat → Bool} (h : StaysInForm s₀ s) :
    EndsInForm s₀ (fun r => StaysInForm s₀ r.2.2.2) (moveBeat s c b pick) := by
  unfold moveBeat
  dsimp only
  split
  · exact h.after_unitRead.bind fun _ h1 => (h1.after_beatDest.after_keeping h1).bind fun _ h2 => h2.after_unitPut
  · exact (h.after_beatDest.after_keeping h).bind fun _ h2 => h2.after_unitPut

theorem StaysInForm.after_tallyBeat {c : Copy} {n : Nat} (h : StaysInForm s₀ s) : StaysInForm s₀ (tallyBeat s c n) := h.after_modLaunch

theorem StaysInForm.after_beatDone {k i b n rank : Nat} {c : Copy} (h : StaysInForm s₀ s) :
    StaysInForm s₀ (beatDone s k i c b n rank) := by
  unfold beatDone
  dsimp only
  split
  · exact h.after_modCore.after_tallyBeat
  · split
    · exact h.after_modCore.after_tallyBeat.after_arrive
    · exact h.after_modCore.after_tallyBeat

theorem EndsInForm.map {α β : Type} {q : α → Prop} {p : β → Prop} {x : Eff α} {f : α → β} (hx : EndsInForm s₀ q x)
    (hf : ∀ a, q a → p (f a)) : EndsInForm s₀ p (x.map f) := by
  cases x with
  | error e => exact hx
  | ok a => exact hf a hx

theorem StaysInForm.after_finishBeat {k i b : Nat} {c : Copy} (h : StaysInForm s₀ s) :
    EndsInForm s₀ (StaysInForm s₀) (finishBeat s k i c b) :=
  h.after_moveBeat.map fun _ h1 => h1.after_beatDone

theorem StaysInForm.after_landBytes {k i b : Nat} {c : Copy} {pick : Nat → Nat → Bool} (h : StaysInForm s₀ s) :
    EndsInForm s₀ (StaysInForm s₀) (landBytes s k i c b pick) :=
  h.after_moveBeat.map fun _ h1 => h1.after_modCore

theorem StaysInForm.after_settleWord {key n : Nat} (h : StaysInForm s₀ s) : StaysInForm s₀ (settleWord s key n) := by
  refine h.ite (h.foldl fun t x ht => ?_)
  split
  · exact ht
  · refine StaysInForm.ite ?_ ht
    split
    · next he => exact ht.after_landBytes.ok he
    · exact ht

theorem StaysInForm.after_stopAtChunk {k i n : Nat} (h : StaysInForm s₀ s) : StaysInForm s₀ (stopAtChunk s k i n) := by
  induction n generalizing s with
  | zero => exact h
  | succ n ih =>
    unfold stopAtChunk
    split
    · exact h
    · refine h.after_modCore.after_copyGone.ite ?_
      split
      · next he => exact ih (h.after_finishBeat.ok he)
      · exact h.after_modCore.after_copyGone

theorem StaysInForm.after_endCopies {k : Nat} {p : Copy → Bool} (h : StaysInForm s₀ s) : StaysInForm s₀ (endCopies s k p) := by
  refine (h.after_modCore.foldl fun _ _ ht => ht.after_copyGone).foldl fun t x ht => StaysInForm.ite ?_ ht
  split
  · exact ht.after_stopAtChunk
  · exact ht

/-! ### The matrix engine -/

/-- An engine's operation that ends with a state in the forms of `s₀`, where it ends with one. -/
def GivesInForm {ε : Type} (s₀ : State) (x : Except ε State) : Prop := ∀ t, x = .ok t → StaysInForm s₀ t

theorem givesInForm_ok {ε : Type} (h : StaysInForm s₀ s) : GivesInForm s₀ (.ok s : Except ε State) := by
  rintro _ ⟨⟩
  exact h

theorem givesInForm_error {ε : Type} {e : ε} : GivesInForm s₀ (.error e) := by
  simp [GivesInForm]

theorem GivesInForm.ite {ε : Type} {c : Prop} [Decidable c] {x y : Except ε State} (hx : GivesInForm s₀ x) (hy : GivesInForm s₀ y) :
    GivesInForm s₀ (if c then x else y) := by
  split
  · exact hx
  · exact hy

theorem givesInForm_bind {ε α : Type} {x : Except ε α} {k : α → Except ε State} (hk : ∀ a, GivesInForm s₀ (k a)) :
    GivesInForm s₀ (x >>= k) := by
  cases x with
  | error e => exact givesInForm_error
  | ok a => exact hk a

theorem StaysInForm.after_copyOut {k : Nat} {m : MatrixCmd} (h : StaysInForm s₀ s) : GivesInForm s₀ (copyOut s k m) :=
  .ite givesInForm_error (.ite givesInForm_error (givesInForm_bind fun _ => givesInForm_ok h.after_memSetAll))

theorem StaysInForm.after_copyIn {k : Nat} {m : MatrixCmd} (h : StaysInForm s₀ s) : GivesInForm s₀ (copyIn s k m) :=
  .ite givesInForm_error (.ite (givesInForm_ok h.after_modCore) (givesInForm_bind fun _ => givesInForm_ok h.after_modCore))

theorem StaysInForm.after_multiply {k : Nat} {ta tb : Ty} {m : MatrixCmd} (h : StaysInForm s₀ s) :
    GivesInForm s₀ (multiply s k ta tb m) := by
  unfold multiply
  split
  · exact givesInForm_error
  · exact .ite givesInForm_error (givesInForm_bind fun _ => givesInForm_ok h.after_modCore)

theorem StaysInForm.after_performMatrix {k : Nat} {m : MatrixCmd} (h : StaysInForm s₀ s) : GivesInForm s₀ (performMatrix s k m) := by
  unfold performMatrix
  split
  · exact givesInForm_bind fun _ => givesInForm_ok h.after_modCore
  · exact h.after_multiply
  · exact h.after_copyOut
  · exact h.after_copyOut
  · exact h.after_copyOut
  · exact h.after_copyIn
  · exact h.after_copyIn
  · exact givesInForm_ok h

theorem StaysInForm.after_gangShare {k : Nat} {ta : Ty} {l : List Latch} {m : MatrixCmd} (h : StaysInForm s₀ s) :
    GivesInForm s₀ (gangShare s ta l k m) :=
  givesInForm_bind fun _ => givesInForm_ok h.after_modCore

theorem StaysInForm.after_gangAll {ta : Ty} {l : List Latch} {r : List (Nat × MatrixCmd)} (h : StaysInForm s₀ s) :
    GivesInForm s₀ (gangAll s ta l r) := by
  induction r generalizing s with
  | nil => exact givesInForm_ok h
  | cons x r ih =>
    unfold gangAll
    split
    · exact givesInForm_error
    · next he => exact ih (h.after_gangShare _ he)

theorem StaysInForm.after_tallyMatrix {m : MatrixCmd} {g : Nat} (h : StaysInForm s₀ s) : StaysInForm s₀ (tallyMatrix s m g) :=
  h.after_modLaunch

theorem StaysInForm.after_matrixGone {k : Nat} {m : MatrixCmd} (h : StaysInForm s₀ s) : StaysInForm s₀ (matrixGone s k m) :=
  h.after_modCore.after_countDown

theorem StaysInForm.after_finishGang {g : Gang} {ta : Ty} (h : StaysInForm s₀ s) : StaysInForm s₀ (finishGang s g ta).1 := by
  simp only [finishGang]
  have h1 : ∀ l : List (Nat × MatrixCmd), StaysInForm s₀ (l.foldl (fun acc p => matrixGone acc p.1 p.2) s) :=
    fun l => h.foldl fun _ _ ht => ht.after_matrixGone
  split
  · next he => exact ((h1 _).after_gangAll _ he).foldl fun _ _ ht => ht.after_tallyMatrix
  · exact h1 _

theorem StaysInForm.after_finishMatrix {k : Nat} (h : StaysInForm s₀ s) : StaysInForm s₀ (finishMatrix s k).1 := by
  unfold finishMatrix
  split
  · exact h
  · split
    · exact h.after_finishGang
    · split
      · next he => exact (h.after_performMatrix _ he).after_matrixGone.after_tallyMatrix
      · exact h.after_matrixGone

/-! ### Trace records and the journal -/

theorem StaysInForm.after_traceRec {k : Nat} {kind : BitVec 4} {l : List Word} (h : StaysInForm s₀ s) :
    StaysInForm s₀ (traceRec s k kind l) := h

theorem StaysInForm.after_journalWrite {d : BitVec 128} {ctx : CtxId} {q : BitVec 4} {st : BitVec 2} {status : BitVec 16} {evt : Bool}
    (h : StaysInForm s₀ s) : StaysInForm s₀ (journalWrite s d ctx q st status evt) := by
  simp only [journalWrite]
  split
  · exact h
  · exact h.after_putNum.of_eq

theorem StaysInForm.after_journalFlushN {n : Nat} (h : StaysInForm s₀ s) : StaysInForm s₀ (journalFlushN s n) := by
  induction n generalizing s with
  | zero => exact h
  | succ n ih =>
    unfold journalFlushN
    split
    · exact h
    · exact h.ite (ih (StaysInForm.after_journalWrite h))

theorem StaysInForm.after_journalFlush (h : StaysInForm s₀ s) : StaysInForm s₀ (journalFlush s) := h.after_journalFlushN

theorem StaysInForm.after_journalEvent {ctx : CtxId} {e : BitVec 16} (h : StaysInForm s₀ s) : StaysInForm s₀ (journalEvent s ctx e) :=
  StaysInForm.after_journalFlush h

theorem StaysInForm.after_journalAccept {d : BitVec 128} {ctx : CtxId} {q : BitVec 4} (h : StaysInForm s₀ s) :
    StaysInForm s₀ (journalAccept s d ctx q) :=
  h.after_journalWrite.of_eq

theorem StaysInForm.after_journalMark {q : Word} {st : BitVec 2} {e : BitVec 16} (h : StaysInForm s₀ s) :
    StaysInForm s₀ (journalMark s q st e) :=
  h.ite h.after_putNum

theorem StaysInForm.after_journalStart {q : Option Word} (h : StaysInForm s₀ s) : StaysInForm s₀ (journalStart s q) := by
  unfold journalStart
  split
  · exact h.after_journalMark
  · exact h

theorem StaysInForm.after_journalEnd {q : Option Word} {st : BitVec 2} {e : BitVec 16} (h : StaysInForm s₀ s) :
    StaysInForm s₀ (journalEnd s q st e) := by
  unfold journalEnd
  split
  · next q =>
    have h1 : StaysInForm s₀ (journalMark s q st e) := h.after_journalMark
    exact StaysInForm.after_journalFlush h1.of_eq
  · exact h

/-! ### The end of a launch -/

theorem StaysInForm.after_appendRecord {ctx : CtxId} {r : FaultRec} (h : StaysInForm s₀ s) : StaysInForm s₀ (appendRecord s ctx r) := by
  unfold appendRecord
  split
  · exact h
  · exact h.after_modCtx.ite h.after_putNum.after_modCtx

theorem StaysInForm.after_addGuilt {ctx : CtxId} (h : StaysInForm s₀ s) : StaysInForm s₀ (addGuilt s ctx) := h.after_modCtx

theorem StaysInForm.after_setErr {ctx : CtxId} {q : BitVec 4} {e : BitVec 16} (h : StaysInForm s₀ s) : StaysInForm s₀ (setErr s ctx q e) :=
  h.after_modQueue

@[simp] theorem clearTask_id (c : Core) : (clearTask c).id = c.id := by
  unfold clearTask
  split <;> rfl
@[simp] theorem releaseTables_id (gone : CtxId × Lid → Bool) (c : Core) : (releaseTables gone c).id = c.id := rfl
@[simp] theorem endOnCore_id (ctx : CtxId) (lid : Lid) (c : Core) : (endOnCore ctx lid c).id = c.id := by
  simp only [endOnCore, releaseTables_id]
  split
  · split
    · exact clearTask_id c
    · rfl
  · rfl

theorem StaysInForm.after_stopEngines {k : Nat} {mine : OpRec → Bool} (h : StaysInForm s₀ s) : StaysInForm s₀ (stopEngines s k mine) := by
  refine StaysInForm.after_endCopies ?_
  split
  · exact h.after_finishMatrix.ite h
  · exact h

theorem StaysInForm.after_stopWork {ctx : CtxId} {lid : Lid} {k : Nat} (h : StaysInForm s₀ s) : StaysInForm s₀ (stopWork ctx lid s k) := by
  refine StaysInForm.after_stopEngines ?_
  split
  · exact h.after_release.ite h
  · exact h

theorem StaysInForm.after_dropPending {ctx : CtxId} {i : BitVec 32} {g : Bool} (h : StaysInForm s₀ s) :
    StaysInForm s₀ (dropPending s ctx i g) := h

theorem StaysInForm.after_leaveLevels {l : Launch} {e : Option (BitVec 16)} (h : StaysInForm s₀ s) :
    StaysInForm s₀ (leaveLevels s l e) := by
  refine StaysInForm.after_modQueue (StaysInForm.after_modCtx ?_)
  split
  · exact h.after_modGraph
  · exact h

theorem StaysInForm.after_claimCores {st : Nat} {w : CtxId × Lid} {l : List Nat} (h : StaysInForm s₀ s) :
    StaysInForm s₀ (claimCores s st w l) :=
  .ite (h.foldl fun _ _ ht => ht.after_modCore) h

theorem StaysInForm.after_claimFreed {ctx : CtxId} {lid : Lid} {l : List Nat} (h : StaysInForm s₀ s) :
    StaysInForm s₀ (claimFreed ctx lid l s) :=
  h.foldl fun _ _ ht => ht.after_claimCores

theorem StaysInForm.after_retireLaunch {l : Launch} {st : BitVec 2} {e : BitVec 16} (h : StaysInForm s₀ s) :
    StaysInForm s₀ (retireLaunch s l st e) := by
  have h0 : StaysInForm s₀ (((allCores s).map Core.id).foldl (stopWork l.ctx l.lid) s) := h.foldl fun _ _ ht => ht.after_stopWork
  have h1 := h0.after_mapCores (f := endOnCore l.ctx l.lid) (endOnCore_id l.ctx l.lid)
  exact h1.after_dropPending.after_claimFreed.after_leaveLevels.after_journalEnd.of_eq

theorem StaysInForm.after_faultLaunch {ctx : CtxId} {r : FaultRec} {c : FCode} (h : StaysInForm s₀ s) :
    StaysInForm s₀ (faultLaunch s ctx r c) := by
  unfold faultLaunch
  split
  · exact h
  · exact (h.after_appendRecord.ite h.after_appendRecord.after_addGuilt).after_setErr.after_retireLaunch

/-! ### Machine checks and faults -/

theorem StaysInForm.after_killContext {ctx : CtxId} (h : StaysInForm s₀ s) : StaysInForm s₀ (killContext s ctx) := by
  refine StaysInForm.foldl (StaysInForm.after_modCtx ?_) fun _ _ ht => ht.after_faultLaunch
  exact StaysInForm.with_graphs h.after_mapCores

theorem StaysInForm.after_haltCore {k : Nat} {src : BitVec 8} {bank : BitVec 16} {fc : BitVec 8} {x a : Word} (h : StaysInForm s₀ s) :
    StaysInForm s₀ (haltCore s k src bank fc x a) := h.after_modCore

theorem StaysInForm.after_machineCheck {k : Nat} {src : BitVec 8} {bank : BitVec 16} {fc : BitVec 8} {x a : Word} {ctx : CtxId}
    (h : StaysInForm s₀ s) : StaysInForm s₀ (machineCheck s k src bank fc x a ctx) :=
  h.after_haltCore.after_killContext

theorem StaysInForm.after_raiseAt {pc : Word} {u : UnitCode} {c : FCode} {a : Word} (h : StaysInForm s₀ s) :
    StaysInForm s₀ (raiseAt s pc u c a) := by
  unfold raiseAt
  refine h.after_machineCheck.ite ?_
  split
  · exact h.after_machineCheck
  · split
    · exact h.after_faultLaunch
    · exact h
  · split
    · exact h.after_faultLaunch
    · exact h

theorem StaysInForm.after_raise {u : UnitCode} {c : FCode} {a : Word} (h : StaysInForm s₀ s) : StaysInForm s₀ (raise s u c a) :=
  h.after_raiseAt

theorem StaysInForm.after_raiseEngine {o : OpRec} {u : UnitCode} {c : FCode} {a : Word} (h : StaysInForm s₀ s) :
    StaysInForm s₀ (raiseEngine s o u c a) :=
  h.after_machineCheck.ite h.after_faultLaunch

theorem StaysInForm.after_standIn {w : Wait} (h : StaysInForm s₀ s) : StaysInForm s₀ (standIn s w) := h.after_onCore

theorem StaysInForm.after_issueMove {i : Nat} (h : StaysInForm s₀ s) : StaysInForm s₀ (issueMove s i) := by
  unfold issueMove
  split
  · exact h.ite h.after_putNum.of_eq
  · exact h

theorem StaysInForm.after_pumpMoves (h : StaysInForm s₀ s) : StaysInForm s₀ (pumpMoves s) := h.foldl fun _ _ ht => ht.after_issueMove

theorem StaysInForm.after_askFetch {m : PageMove} {w : Waiter} (h : StaysInForm s₀ s) : StaysInForm s₀ (askFetch s m w) :=
  .ite h (StaysInForm.after_pumpMoves h)

theorem StaysInForm.after_askChannel {ch : Nat} (h : StaysInForm s₀ s) : StaysInForm s₀ (askChannel s ch) := h.ite h

theorem StaysInForm.after_stopAt {pc : Word} {u : UnitCode} {e : Stop} (h : StaysInForm s₀ s) (he : StopsInForm s₀ e) :
    StaysInForm s₀ (stopAt s pc u e) := by
  induction e generalizing s with
  | fault c a => exact h.after_raiseAt
  | wait w => exact h.after_standIn
  | cold m => exact h.after_askFetch.after_standIn
  | asleep ch => exact h.after_askChannel.after_standIn
  | after t e ih => exact ih he.1 he.2

theorem StaysInForm.after_settle {u : UnitCode} {r : Eff State} (h : StaysInForm s₀ s) (hr : EndsInForm s₀ (StaysInForm s₀) r) :
    StaysInForm s₀ (settle s u r) := by
  cases r with
  | ok t => exact hr
  | error e => exact h.after_stopAt hr

/-! ### The PC, traps -/

theorem StaysInForm.after_toPc {pc : Word} (h : StaysInForm s₀ s) : StaysInForm s₀ (toPc s pc) := h.after_onCore

theorem StaysInForm.after_advance (h : StaysInForm s₀ s) : StaysInForm s₀ (advance s) := by
  unfold advance
  split
  · exact h.after_onCore
  · exact h.after_toPc
  · exact .ite (h.after_toPc.after_onCore.ite h.after_toPc.after_onCore) h.after_toPc

theorem StaysInForm.after_jumpTo {pc : Word} (h : StaysInForm s₀ s) : StaysInForm s₀ (jumpTo s pc) :=
  h.after_toPc.after_onCore.ite h.after_toPc

theorem StaysInForm.after_raiseOwn {r : SvcReq} (h : StaysInForm s₀ s) : StaysInForm s₀ (raiseOwn s r) := h.after_onCore

theorem StaysInForm.after_takeTrap {r : SvcReq} {p : Pin} (h : StaysInForm s₀ s) : StaysInForm s₀ (takeTrap s r p) := h.after_onCore

theorem StaysInForm.after_returnTrap (h : StaysInForm s₀ s) : StaysInForm s₀ (returnTrap s) := h.after_onCore

end Sys2Proof.Machine.FormLaws
end

section
/-!
The forms through the instructions of classes 0x0, 0x1, 0x2, 0x5, 0x6 and 0xA.
-/
set_option Elab.async false
namespace Sys2Proof.Machine.FormLaws

variable {s₀ s : State}

/-- A step whose next state, where there is one, has the forms of `s₀`. -/
def NextInForm (s₀ : State) (o : Host.Outcome State Fault Refusal) : Prop := ∀ t, o = .next t → StaysInForm s₀ t

theorem StaysInForm.next (h : StaysInForm s₀ s) : NextInForm s₀ (.next s) := by
  rintro _ ⟨⟩
  exact h

/-! ### Registers, guards, the vector queue -/

theorem StaysInForm.after_writeWG {d : WG} {x : Word} (h : StaysInForm s₀ s) : StaysInForm s₀ (writeWG s d x) := by
  rw [writeWG_outside]
  exact h.of_eq (writeWG_id s d x)

theorem StaysInForm.after_writeV {n : V} {x : VReg} (h : StaysInForm s₀ s) : StaysInForm s₀ (writeV s n x) := by
  unfold writeV
  split <;> exact h.after_onCore

theorem StaysInForm.after_writeP {n : P} {x : Word} (h : StaysInForm s₀ s) : StaysInForm s₀ (writeP s n x) := by
  unfold writeP
  refine h.ite ?_
  split
  · exact h.after_onCore
  · exact h.after_onCore
  · exact h.after_onCore.ite h

theorem StaysInForm.after_illegal (h : StaysInForm s₀ s) : StaysInForm s₀ (illegal s) := h.after_raise

theorem StaysInForm.after_illegalOperand (h : StaysInForm s₀ s) : StaysInForm s₀ (illegalOperand s) := h.after_raise

theorem StaysInForm.after_scalar {hd : Hdr} {k : State → Eff State} (h : StaysInForm s₀ s) (hk : EndsInForm s₀ (StaysInForm s₀) (k s)) :
    StaysInForm s₀ (scalar s hd k) :=
  h.after_illegal.ite ((h.after_settle hk).ite h.after_advance)

theorem StaysInForm.after_userOnly {hd : Hdr} {k : State → Eff State} (h : StaysInForm s₀ s)
    (hk : EndsInForm s₀ (StaysInForm s₀) (k s)) : StaysInForm s₀ (userOnly s hd k) :=
  h.after_illegal.ite (h.after_scalar hk)

theorem StaysInForm.after_privOnly {hd : Hdr} {k : State → Eff State} (h : StaysInForm s₀ s)
    (hk : EndsInForm s₀ (StaysInForm s₀) (k s)) : StaysInForm s₀ (privOnly s hd k) :=
  h.after_illegal.ite ((h.after_scalar hk).ite h.after_illegal)

theorem StaysInForm.exec_scalar {hd : Hdr} {k : State → Eff State} (h : StaysInForm s₀ s) (hk : EndsInForm s₀ (StaysInForm s₀) (k s)) :
    NextInForm s₀ (.next (scalar s hd k)) := (h.after_scalar hk).next

theorem StaysInForm.exec_userOnly {hd : Hdr} {k : State → Eff State} (h : StaysInForm s₀ s)
    (hk : EndsInForm s₀ (StaysInForm s₀) (k s)) : NextInForm s₀ (.next (userOnly s hd k)) := (h.after_userOnly hk).next

theorem StaysInForm.exec_privOnly {hd : Hdr} {k : State → Eff State} (h : StaysInForm s₀ s)
    (hk : EndsInForm s₀ (StaysInForm s₀) (k s)) : NextInForm s₀ (.next (privOnly s hd k)) := (h.after_privOnly hk).next

theorem StaysInForm.after_stallOn {q : StallQueue} (h : StaysInForm s₀ s) : StaysInForm s₀ (stallOn s q) := by
  refine StaysInForm.after_standIn (StaysInForm.with_free (StaysInForm.after_onCore h fun c => ?_))
  cases q <;> rfl

theorem StaysInForm.after_pushVec {todo : Option VecTodo} (h : StaysInForm s₀ s) : StaysInForm s₀ (pushVec s todo) :=
  h.after_onCore.after_charge

theorem StaysInForm.after_askFor {e : Stop} (h : StaysInForm s₀ s) (he : StopsInForm s₀ e) : StaysInForm s₀ (askFor s e) := by
  induction e generalizing s with
  | fault c a => exact h
  | wait w => exact h
  | cold m => exact h.after_askFetch
  | asleep ch => exact h.after_askChannel
  | after t e ih => exact ih he.1 he.2

theorem StaysInForm.after_issueVec {i : Instr} {r : Eff State} (h : StaysInForm s₀ s) (hr : EndsInForm s₀ (StaysInForm s₀) r) :
    StaysInForm s₀ (issueVec s i r) := by
  unfold issueVec
  refine h.after_stallOn.ite ?_
  split
  · next he => exact h.after_stopAt ((endsInForm_issueRoom (q := fun _ => True) trivial).error he)
  · split
    · exact h.after_pushVec.after_advance.ite (h.after_stopAt hr)
    · exact h.after_pushVec.after_advance.ite (StopsInForm.state hr h).after_standIn
    · exact h.after_pushVec.after_advance.ite ((h.after_askFor hr).after_pushVec.after_advance.ite (h.after_stopAt hr))
  · next t _ =>
    have ht : StaysInForm s₀ t := hr
    exact h.after_pushVec.after_advance.ite (ht.after_pushVec.after_advance.ite ht.after_pushVec)

theorem StaysInForm.after_vector {i : Instr} {hd : Hdr} {bad : Bool} {ops : Nat} {k : State → Eff State} (h : StaysInForm s₀ s)
    (hk : EndsInForm s₀ (StaysInForm s₀) (k s)) : StaysInForm s₀ (vector i s hd bad ops k) := by
  have hr : EndsInForm s₀ (StaysInForm s₀) ((k s).map fun t => countOps t ops) := by
    refine hk.map fun t ht => ?_
    exact ht.after_countOps
  simp only [vector]
  split
  · exact h.after_illegal
  · exact h.after_illegalOperand.ite (h.after_settle hr)
  · exact h.after_issueVec hr

/-! ### What instructions of several classes share about tasks -/

theorem StaysInForm.after_endTask (h : StaysInForm s₀ s) : StaysInForm s₀ (endTask s) := by
  unfold endTask
  split
  · exact h
  · next t _ =>
    have h1 : StaysInForm s₀ (countDown (onCore (release s s.core.id .sys) clearTask) t.info.ctx t.info.lid 1) :=
      (h.after_release.after_onCore clearTask_id).after_countDown
    exact h1.with_free.after_faultLaunch.ite h1

theorem StaysInForm.after_raiseTrap {cause : Nat} {tc : BitVec 16} {info : Word} {resume : Option Word} (h : StaysInForm s₀ s) :
    EndsInForm s₀ (StaysInForm s₀) (raiseTrap s cause tc info resume) := by
  unfold raiseTrap
  split
  · trivial
  · exact .ite h.after_raiseOwn trivial

theorem localTarget_inForm {a : Word} {n align : Nat} : EndsInForm s₀ (fun _ => True) (localTarget s a n align) := by
  fun_cases localTarget s a n align
  case case1 he => exact checkWindow_inForm.error he
  case case5 he => exact peerStop_inForm he
  all_goals trivial

theorem ownTarget_inForm {a : Word} {n align : Nat} {peer : Bool} : EndsInForm s₀ (fun _ => True) (ownTarget s a n align peer) := by
  fun_cases ownTarget s a n align peer
  case case1 he => exact checkWindow_inForm.error he
  all_goals trivial

/-! ### Class 0x5: loads and stores -/

theorem StaysInForm.after_loadTo {t : Ty} {d : WG} {a : Word} {align : Nat} (h : StaysInForm s₀ s) :
    EndsInForm s₀ (StaysInForm s₀) (loadTo s t d a align) :=
  h.after_load.bind fun _ h1 => h1.after_writeWG.after_advance

theorem StaysInForm.after_storeFrom {t : Ty} {d : WG} {a : Word} {align : Nat} (h : StaysInForm s₀ s) :
    EndsInForm s₀ (StaysInForm s₀) (storeFrom s t d a align) :=
  h.after_store.bind fun _ h1 => h1.after_advance

theorem localGeneric_inForm {a : Word} : EndsInForm s₀ (fun _ => True) (localGeneric a) :=
  (endsInForm_need (q := fun _ => True) trivial).bind fun _ _ => trivial

theorem StaysInForm.exec_ld {hd : Hdr} {t : Ty} {d a : WG} {b : WGI} (h : StaysInForm s₀ s) : NextInForm s₀ (execLd hd t d a b s) :=
  h.exec_scalar h.after_loadTo

theorem StaysInForm.exec_st {hd : Hdr} {t : Ty} {d a : WG} {b : WGI} (h : StaysInForm s₀ s) : NextInForm s₀ (execSt hd t d a b s) :=
  h.exec_scalar h.after_storeFrom

theorem StaysInForm.exec_ldl {hd : Hdr} {t : Ty} {d a : WG} {b : WGI} (h : StaysInForm s₀ s) : NextInForm s₀ (execLdl hd t d a b s) :=
  h.exec_scalar (localGeneric_inForm.bind fun _ _ => h.after_loadTo)

theorem StaysInForm.exec_stl {hd : Hdr} {t : Ty} {d a : WG} {b : WGI} (h : StaysInForm s₀ s) : NextInForm s₀ (execStl hd t d a b s) :=
  h.exec_scalar (localGeneric_inForm.bind fun _ _ => h.after_storeFrom)

theorem StaysInForm.after_resolveEach {l : List Word} (h : StaysInForm s₀ s) :
    EndsInForm s₀ (fun r => StaysInForm s₀ r.2) (resolveEach s l) := by
  induction l generalizing s with
  | nil => exact h
  | cons a r ih =>
    unfold resolveEach
    split
    · next he => exact h.after_resolve.error he
    · next he =>
      have h1 := h.after_resolve.ok he
      split
      · next hr => exact ((ih h1).after_keeping h1).error hr
      · next hr => exact ((ih h1).after_keeping h1).ok (q := fun r => StaysInForm s₀ r.2) hr

theorem StaysInForm.after_readWindow {w : Fin 8} {off n : Nat} (h : StaysInForm s₀ s) :
    EndsInForm s₀ (fun r => StaysInForm s₀ r.2) (readWindow s w off n) := by
  unfold readWindow
  split
  · trivial
  · refine .ite ?_ trivial
    dsimp only
    split
    · next he => exact h.after_resolveEach.error he
    · next he => exact (h.after_resolveEach.ok he).after_touchLoad

theorem StaysInForm.exec_ldpw {hd : Hdr} {t : Ty} {d : WG} {a : PWin} {b : Option WG} (h : StaysInForm s₀ s) :
    NextInForm s₀ (execLdpw hd t d a b s) :=
  h.exec_scalar (h.after_readWindow.bind fun _ h1 => h1.after_writeWG.after_advance)

theorem StaysInForm.exec_idxt {hd : Hdr} {d b : WG} {a : PWin} (h : StaysInForm s₀ s) : NextInForm s₀ (execIdxt hd d a b s) :=
  h.exec_scalar (h.after_readWindow.bind fun _ h1 => h1.after_writeWG.after_advance)

theorem StaysInForm.after_prefetchAs {w : Acc} {a : Word} (h : StaysInForm s₀ s) : StaysInForm s₀ (prefetchAs s w a) := by
  unfold prefetchAs
  refine .ite ?_ h
  split
  · exact h.ite h.after_touchLine
  · exact h.ite h

theorem StaysInForm.exec_pref {hd : Hdr} {a : WG} {b : WGI} (h : StaysInForm s₀ s) : NextInForm s₀ (execPref hd a b s) :=
  h.exec_scalar h.after_prefetchAs.after_advance

theorem StaysInForm.exec_zline {hd : Hdr} {a : WG} {b : WGI} (h : StaysInForm s₀ s) : NextInForm s₀ (execZline hd a b s) :=
  h.exec_scalar (h.after_resolve.bind fun _ h1 => h1.after_pushStore.bind fun _ h2 => h2.after_advance)

theorem StaysInForm.after_lineTarget {a : Word} (h : StaysInForm s₀ s) : EndsInForm s₀ (fun r => StaysInForm s₀ r.2) (lineTarget s a) := by
  unfold lineTarget
  split
  · trivial
  · exact h
  · exact h
  · split
    · exact h
    · next he => exact h.after_translate.error he
    · next he => exact h.after_translate.ok (q := fun r => StaysInForm s₀ r.2.2) he

theorem StaysInForm.after_cleanLine {k line : Nat} (h : StaysInForm s₀ s) : StaysInForm s₀ (cleanLine s k line) :=
  h.after_writeBackLine.after_modCore

theorem StaysInForm.exec_wbline {hd : Hdr} {a : WG} {b : WGI} (h : StaysInForm s₀ s) : NextInForm s₀ (execWbline hd a b s) := by
  refine h.exec_scalar (h.after_lineTarget.bind fun r h1 => ?_)
  obtain ⟨x, s1⟩ := r
  cases x with
  | none => exact h1.after_advance
  | some line => exact h1.after_drainAll.after_cleanLine.after_advance

theorem StaysInForm.exec_invline {hd : Hdr} {a : WG} {b : WGI} (h : StaysInForm s₀ s) : NextInForm s₀ (execInvline hd a b s) := by
  refine h.exec_scalar (h.after_lineTarget.bind fun r h1 => ?_)
  obtain ⟨x, s1⟩ := r
  cases x with
  | none => exact h1.after_advance
  | some line => exact h1.after_drainAll.after_evictLine.after_advance

/-! ### Classes 0x1 and 0x2: one general register, or one predicate, written -/

theorem StaysInForm.exec_scalarOp {hd : Hdr} {d : WG} {f : State → Word} (h : StaysInForm s₀ s) : NextInForm s₀ (scalarOp hd d f s) :=
  h.exec_scalar h.after_writeWG.after_advance

theorem StaysInForm.exec_predOp {hd : Hdr} {d : P} {f : State → Word} (h : StaysInForm s₀ s) : NextInForm s₀ (predOp hd d f s) :=
  h.exec_scalar h.after_writeP.after_advance

/-! ### Class 0x6: atomics and synchronisation -/

theorem StaysInForm.after_drainLine {k line : Nat} (h : StaysInForm s₀ s) : StaysInForm s₀ (drainLine s k line) := h.after_drainN

theorem StaysInForm.after_beforeAtomic {rel acq : Bool} {sc : Scope} {key : Nat} (h : StaysInForm s₀ s) :
    StaysInForm s₀ (beforeAtomic s rel acq sc key) := by
  have h1 : ∀ b : Prop, [Decidable b] →
      StaysInForm s₀ (if rel then release s s.core.id sc else if b then drainLine s s.core.id (key / 128) else drainAll s s.core.id) :=
    fun b _ => h.after_release.ite (h.after_drainLine.ite h.after_drainAll)
  exact (h1 _).after_acquire.ite (h1 _)

theorem StaysInForm.after_recallLine {line : Nat} (h : StaysInForm s₀ s) : StaysInForm s₀ (recallLine s line) := by
  refine StaysInForm.after_dropEntry (h.after_writeBackLine.after_dropLine.after_mapCores fun c => ?_)
  split <;> rfl

theorem StaysInForm.after_tally {key n : Nat} (h : StaysInForm s₀ s) : StaysInForm s₀ (tally s key n) := h.after_countBytes.ite h

theorem StaysInForm.after_atHome {key n : Nat} (h : StaysInForm s₀ s) : StaysInForm s₀ (atHome s key n) := by
  have h1 : StaysInForm s₀ (if key < 2 ^ 48 then recallLine s (key / 128) else s) := h.after_recallLine.ite h
  unfold atHome
  dsimp only
  split
  · exact h1.after_settleWord.after_tally.after_respond
  · exact h1.after_settleWord.after_tally

theorem StaysInForm.after_atomicAt {t : Ty} {ord : Ord} {sc : Scope} {a : Word} {f : Nat → Option Nat} (h : StaysInForm s₀ s) :
    EndsInForm s₀ (fun r => StaysInForm s₀ r.2) (atomicAt s t ord sc a f) := by
  refine h.after_resolve.bind fun r h1 => ?_
  obtain ⟨l, s1⟩ := r
  cases l with
  | nil => exact h1
  | cons x l =>
    refine .ite ⟨h1, trivial⟩ ?_
    dsimp only
    split
    · exact h1.after_beforeAtomic.after_atHome.after_memWrite
    · exact h1.after_beforeAtomic.after_atHome

theorem StaysInForm.exec_rmw {hd : Hdr} {t : Ty} {ord : Ord} {sc : Scope} {d a : WG} {b : WGI} {f : Int → Int → Int}
    (h : StaysInForm s₀ s) : NextInForm s₀ (rmw hd t ord sc d a b f s) :=
  h.exec_scalar (h.after_atomicAt.bind fun _ h1 => h1.after_writeWG.after_advance)

theorem StaysInForm.exec_acas {hd : Hdr} {t : Ty} {ord : Ord} {sc : Scope} {d a : WG} {b : WGI} (h : StaysInForm s₀ s) :
    NextInForm s₀ (execAcas hd t ord sc d a b s) :=
  h.exec_scalar (h.after_atomicAt.bind fun _ h1 => h1.after_writeWG.after_advance)

theorem StaysInForm.after_tallyRead {key n : Nat} (h : StaysInForm s₀ s) : StaysInForm s₀ (tallyRead s key n) := h.ite h.after_tally

theorem StaysInForm.exec_ldacq {hd : Hdr} {t : Ty} {sc : Scope} {d a : WG} {b : WGI} (h : StaysInForm s₀ s) :
    NextInForm s₀ (execLdacq hd t sc d a b s) := by
  refine h.exec_scalar (.ite (h.after_resolve.bind fun r h1 => ?_) h.after_loadTo)
  dsimp only
  split
  · exact .ite ⟨h1, trivial⟩ h1.after_drainLine.after_acquire.after_tallyRead.after_countAccess.after_writeWG.after_advance
  · exact h1.after_acquire.after_touchLoad.after_writeWG.after_advance

theorem StaysInForm.exec_strel {hd : Hdr} {t : Ty} {sc : Scope} {d a : WG} {b : WGI} (h : StaysInForm s₀ s) :
    NextInForm s₀ (execStrel hd t sc d a b s) := by
  refine h.exec_scalar (h.after_resolve.bind fun r h1 => ?_)
  refine .ite ⟨h1, trivial⟩ (.ite ?far (h1.after_release.after_pushStore.bind fun _ h2 => h2.after_advance))
  have h3 := h1.after_release (k := r.2.core.id) (sc := sc) |>.foldl (l := linesOf r.1)
    (f := fun acc line => evictLine acc (release r.2 r.2.core.id sc).core.id line) fun _ _ ht => ht.after_evictLine
  refine (StaysInForm.after_writeHome ?_).after_advance
  split
  · exact h3.after_tally
  · exact h3

theorem StaysInForm.exec_fence {hd : Hdr} {ord : Ord} {sc : Scope} (h : StaysInForm s₀ s) : NextInForm s₀ (execFence hd ord sc s) := by
  have h1 : StaysInForm s₀ (if ordRel ord then release s s.core.id sc else s) := h.after_release.ite h
  exact h.exec_scalar (h1.after_acquire.ite h1).after_advance

theorem StaysInForm.exec_waita {hd : Hdr} {sc : Scope} {d b : WGI} {a : WG} (h : StaysInForm s₀ s) :
    NextInForm s₀ (execWaita hd sc d a b s) :=
  h.exec_userOnly (localTarget_inForm.bind fun _ _ =>
    (endsInForm_waitFor (q := fun _ => True) trivial).bind fun _ _ => h.after_acquire.after_advance)

theorem StaysInForm.after_leaveBarrier (h : StaysInForm s₀ s) : StaysInForm s₀ (leaveBarrier s) := by
  simp only [leaveBarrier]
  split
  · exact h.after_onCore.after_advance
  · exact h.after_onCore
  · exact h.after_onCore.after_onCore.after_advance.after_onCore

theorem StaysInForm.after_passBarrier {g : Gang} {ctx : CtxId} {lid : Lid} {k : Nat} (h : StaysInForm s₀ s) :
    StaysInForm s₀ (passBarrier g ctx lid s k) :=
  h.after_focus.after_leaveBarrier.ite h

theorem StaysInForm.exec_gbar {hd : Hdr} (h : StaysInForm s₀ s) : NextInForm s₀ (execGbar hd s) := by
  refine h.exec_userOnly ?_
  split
  · exact h.after_advance
  · split
    · exact h.after_advance
    · have h1 := (h.after_release (k := s.core.id) (sc := .clus)).after_onCore
        (f := fun c => { c with atBarrier := true, blocked := some .gang })
      exact .ite h1 (h1.foldl fun _ _ ht => ht.after_passBarrier).after_focus

/-! ### Class 0x0: control -/

theorem StaysInForm.after_branch {off : BitVec 20} {b : Bool} (h : StaysInForm s₀ s) : StaysInForm s₀ (branch s off b) :=
  h.after_jumpTo.ite h.after_advance

theorem StaysInForm.exec_illegal {rest : BitVec 86} (h : StaysInForm s₀ s) : NextInForm s₀ (execIllegal rest s) := h.after_illegal.next

theorem StaysInForm.exec_nop {hd : Hdr} (h : StaysInForm s₀ s) : NextInForm s₀ (execNop hd s) := h.exec_scalar h.after_advance

theorem StaysInForm.exec_br {hd : Hdr} {off : BitVec 20} (h : StaysInForm s₀ s) : NextInForm s₀ (execBr hd off s) :=
  h.exec_scalar h.after_branch

theorem StaysInForm.exec_brz {hd : Hdr} {off : BitVec 20} {a : WG} (h : StaysInForm s₀ s) : NextInForm s₀ (execBrz hd off a s) :=
  h.exec_scalar h.after_branch

theorem StaysInForm.exec_brnz {hd : Hdr} {off : BitVec 20} {a : WG} (h : StaysInForm s₀ s) : NextInForm s₀ (execBrnz hd off a s) :=
  h.exec_scalar h.after_branch

theorem StaysInForm.exec_brdec {hd : Hdr} {off : BitVec 20} {d : WG} (h : StaysInForm s₀ s) : NextInForm s₀ (execBrdec hd off d s) :=
  h.exec_scalar h.after_writeWG.after_branch

theorem StaysInForm.exec_jmp {hd : Hdr} {a : WG} (h : StaysInForm s₀ s) : NextInForm s₀ (execJmp hd a s) :=
  h.exec_scalar h.after_jumpTo

@[simp] theorem turnBack_id (c : Core) : (turnBack c).id = c.id := by
  unfold turnBack
  split <;> rfl

theorem StaysInForm.after_callTo {t : Word} (h : StaysInForm s₀ s) : EndsInForm s₀ (StaysInForm s₀) (callTo s t) :=
  .ite (.ite trivial h.after_raiseTrap) h.after_onCore.after_toPc

theorem StaysInForm.after_retTo (h : StaysInForm s₀ s) : EndsInForm s₀ (StaysInForm s₀) (retTo s) :=
  .ite (.ite trivial h.after_raiseTrap) (h.after_onCore turnBack_id).after_toPc

theorem noLoop_inForm : EndsInForm s₀ (fun _ => True) (noLoop s) := endsInForm_need trivial

theorem StaysInForm.exec_call {hd : Hdr} {off : BitVec 20} (h : StaysInForm s₀ s) : NextInForm s₀ (execCall hd off s) :=
  h.exec_userOnly (noLoop_inForm.bind fun _ _ => h.after_callTo)

theorem StaysInForm.exec_callr {hd : Hdr} {a : WG} (h : StaysInForm s₀ s) : NextInForm s₀ (execCallr hd a s) :=
  h.exec_userOnly (noLoop_inForm.bind fun _ _ => h.after_callTo)

theorem StaysInForm.exec_ret {hd : Hdr} (h : StaysInForm s₀ s) : NextInForm s₀ (execRet hd s) :=
  h.exec_userOnly (noLoop_inForm.bind fun _ _ => h.after_retTo)

theorem StaysInForm.exec_loop {hd : Hdr} {off : BitVec 20} {a : WGI} (h : StaysInForm s₀ s) : NextInForm s₀ (execLoop hd off a s) :=
  h.exec_userOnly (noLoop_inForm.bind fun _ _ => .ite h.after_toPc h.after_onCore.after_toPc)

theorem StaysInForm.exec_lbrk {hd : Hdr} (h : StaysInForm s₀ s) : NextInForm s₀ (execLbrk hd s) :=
  h.exec_scalar ((endsInForm_need (q := fun _ => True) trivial).bind fun _ _ => h.after_onCore.after_toPc)

theorem StaysInForm.exec_fork {hd : Hdr} {off : BitVec 20} {d a : WG} {b : WGI} (h : StaysInForm s₀ s) :
    NextInForm s₀ (execFork hd off d a b s) := by
  refine h.exec_userOnly (localTarget_inForm.bind fun key _ => ?_)
  refine .ite h.after_writeWG.after_advance ((endsInForm_issueRoom (q := fun _ => True) trivial).bind fun _ _ => ?_)
  have h1 : StaysInForm s₀ (settleWord (release s s.core.id .clus) key 4) := h.after_release.after_settleWord
  dsimp only
  split
  · exact h1.after_writeWG.after_advance
  · exact h1.after_memWrite.after_onCore.after_charge.after_writeWG.after_advance

theorem StaysInForm.exec_join {hd : Hdr} {a : WG} (h : StaysInForm s₀ s) : NextInForm s₀ (execJoin hd a s) := by
  refine h.exec_userOnly (localTarget_inForm.bind fun key _ => ?_)
  have h1 : StaysInForm s₀ (settleWord (release s s.core.id .clus) key 16) := h.after_release.after_settleWord
  exact .ite h1.after_endTask (.ite h1.after_memWrite.after_jumpTo h1.after_memWrite.after_endTask)

theorem StaysInForm.exec_endTask {hd : Hdr} (h : StaysInForm s₀ s) : NextInForm s₀ (execEndTask hd s) :=
  h.exec_userOnly h.after_endTask

theorem StaysInForm.exec_step {hd : Hdr} (h : StaysInForm s₀ s) : NextInForm s₀ (execStep hd s) := by
  refine h.exec_userOnly ?_
  split
  · exact h.after_advance
  · exact h.after_onCore.after_advance

theorem StaysInForm.exec_trap {hd : Hdr} {a : WGI} (h : StaysInForm s₀ s) : NextInForm s₀ (execTrap hd a s) :=
  h.exec_scalar ((endsInForm_need (q := fun _ => True) trivial).bind fun _ _ =>
    h.after_raiseTrap.bind fun _ h1 => h1.after_advance)

/-! ### Class 0xA: matrix commands -/

theorem StaysInForm.after_issueCmd {put : Core → Core} (h : StaysInForm s₀ s) (hp : ∀ c, (put c).id = c.id := by intro; rfl) :
    EndsInForm s₀ (StaysInForm s₀) (issueCmd s put) :=
  (endsInForm_issueRoom (q := fun _ => True) trivial).bind fun _ _ => (h.after_charge.after_onCore hp).after_advance

theorem StaysInForm.exec_issueMatrix {hd : Hdr} {op : MOp} {hm1 : BitVec 6} {d a b : State → Word} (h : StaysInForm s₀ s) :
    NextInForm s₀ (issueMatrix hd op hm1 d a b s) :=
  (h.after_stallOn.ite (h.after_scalar h.after_issueCmd)).next

theorem StaysInForm.exec_mwait {hd : Hdr} (h : StaysInForm s₀ s) : NextInForm s₀ (execMwait hd s) :=
  h.exec_scalar ((endsInForm_waitFor (q := fun _ => True) trivial).bind fun _ _ => h.after_acquire.after_advance)

theorem StaysInForm.exec_mstat {hd : Hdr} {d : WG} (h : StaysInForm s₀ s) : NextInForm s₀ (execMstat hd d s) :=
  h.exec_scalar h.after_writeWG.after_advance

end Sys2Proof.Machine.FormLaws
end

section
/-!
The forms through the vector instructions, vector memory, rings, copies, messages, streams, the rake and the power requests
(classes 0x4, 0x7 to 0x9, 0xB, 0xC).
-/
set_option Elab.async false
namespace Sys2Proof.Machine.FormLaws

variable {s₀ s : State}

/-! ### Vector instructions that write registers -/

theorem StaysInForm.exec_vector {i : Instr} {hd : Hdr} {bad : Bool} {ops : Nat} {k : State → Eff State} (h : StaysInForm s₀ s)
    (hk : EndsInForm s₀ (StaysInForm s₀) (k s)) : NextInForm s₀ (.next (vector i s hd bad ops k)) := (h.after_vector hk).next

theorem StaysInForm.exec_vecOpN {i : Instr} {n : Nat} {hd : Hdr} {bad : Bool} {w : Nat} {d : V} {new : State → Nat → Nat}
    (h : StaysInForm s₀ s) : NextInForm s₀ (vecOpN i n hd bad w d new s) :=
  h.exec_vector h.after_writeV.after_advance

theorem StaysInForm.exec_vecPart {i : Instr} {hd : Hdr} {bad : Bool} {w : Nat} {d : V} {part : Nat → Bool} {new : State → Nat → Nat}
    (h : StaysInForm s₀ s) : NextInForm s₀ (vecPart i hd bad w d part new s) :=
  h.exec_vector h.after_writeV.after_advance

theorem StaysInForm.exec_vecScalar {i : Instr} {hd : Hdr} {w : Nat} {d : WG} {f : State → Word} (h : StaysInForm s₀ s) :
    NextInForm s₀ (vecScalar i hd w d f s) :=
  h.exec_vector h.after_writeWG.after_advance

theorem StaysInForm.exec_vmacw {hd : Hdr} {t : Ty} {d a : V} {b : VS} (h : StaysInForm s₀ s) : NextInForm s₀ (execVmacw hd t d a b s) :=
  h.exec_vector (h.foldl fun _ _ ht => ht.after_writeV).after_advance

theorem StaysInForm.exec_vcmp {hd : Hdr} {t : Ty} {c : Cond} {d : P} {a : V} {b : VS} (h : StaysInForm s₀ s) :
    NextInForm s₀ (execVcmp hd t c d a b s) :=
  h.exec_vector h.after_writeP.after_advance

theorem StaysInForm.exec_vfcmp {hd : Hdr} {t : Ty} {c : FCond} {d : P} {a : V} {b : VWG} (h : StaysInForm s₀ s) :
    NextInForm s₀ (execVfcmp hd t c d a b s) :=
  h.exec_vector h.after_writeP.after_advance

theorem StaysInForm.exec_vmovs {hd : Hdr} {t : Ty} {d : WG} {a : V} {b : WGI} (h : StaysInForm s₀ s) :
    NextInForm s₀ (execVmovs hd t d a b s) :=
  h.exec_vector (h.after_writeWG.ite h).after_advance

theorem StaysInForm.exec_vcvtfbs {hd : Hdr} {p : BitVec 6} {d a : V} (h : StaysInForm s₀ s) : NextInForm s₀ (execVcvtfbs hd p d a s) :=
  h.exec_vector h.after_writeV.after_onCore.after_advance

theorem StaysInForm.exec_vdecq {hd : Hdr} {t : Ty} {p : BitVec 6} {d a : V} {b : WG} (h : StaysInForm s₀ s) :
    NextInForm s₀ (execVdecq hd t p d a b s) := by
  refine h.exec_vector ?_
  dsimp only
  split
  · trivial
  · exact h.after_writeV.after_advance

/-! ### The long accumulator -/

theorem StaysInForm.exec_longOp {i : Instr} {hd : Hdr} {k : State → Eff State} (h : StaysInForm s₀ s)
    (hk : EndsInForm s₀ (StaysInForm s₀) (k s)) : NextInForm s₀ (.next (longOp i s hd k)) := by
  have hr : EndsInForm s₀ (StaysInForm s₀) ((k s).map fun t => countOps t 1) := by
    refine hk.map fun t ht => ?_
    exact ht.after_countOps
  exact (h.after_illegal.ite ((h.after_issueVec hr).ite h.after_advance)).next

theorem longAt_inForm {a : Word} : EndsInForm s₀ (fun _ => True) (longAt s a) := by
  unfold longAt
  refine .ite trivial ?_
  split
  · next he => exact checkWindow_inForm.error he
  · split <;> trivial

theorem StaysInForm.exec_lwadd {hd : Hdr} {t : Ty} {d a b : WG} (h : StaysInForm s₀ s) : NextInForm s₀ (execLwadd hd t d a b s) :=
  h.exec_longOp (longAt_inForm.bind fun _ _ => h.after_drainAll.after_memWrite.after_advance)

theorem StaysInForm.exec_lrnd {hd : Hdr} {d a : WG} (h : StaysInForm s₀ s) : NextInForm s₀ (execLrnd hd d a s) :=
  h.exec_longOp (longAt_inForm.bind fun _ _ => h.after_drainAll.after_writeWG.after_advance)

theorem StaysInForm.exec_lclr {hd : Hdr} {a : WG} (h : StaysInForm s₀ s) : NextInForm s₀ (execLclr hd a s) :=
  h.exec_longOp (longAt_inForm.bind fun _ _ => h.after_drainAll.after_memWrite.after_advance)

/-! ### Vector memory and rings -/

theorem StaysInForm.after_userVector {i : Instr} {k : State → Eff State} (h : StaysInForm s₀ s)
    (hk : EndsInForm s₀ (StaysInForm s₀) (k s)) : StaysInForm s₀ (userVector i s k) := by
  unfold userVector
  split
  · exact h.after_illegal
  · exact h.after_illegal
  · exact h.after_issueVec hk

theorem StaysInForm.exec_userVector {i : Instr} {k : State → Eff State} (h : StaysInForm s₀ s)
    (hk : EndsInForm s₀ (StaysInForm s₀) (k s)) : NextInForm s₀ (.next (userVector i s k)) := (h.after_userVector hk).next

theorem StaysInForm.after_resolveLanes {e align : Nat} {write : Bool} {l : List (Nat × Word)} (h : StaysInForm s₀ s) :
    EndsInForm s₀ (fun r => StaysInForm s₀ r.2) (resolveLanes s e align write l) := by
  induction l generalizing s with
  | nil => exact h
  | cons x r ih =>
    unfold resolveLanes
    split
    · next he => exact h.after_resolve.error he
    · next he =>
      have h1 := h.after_resolve.ok he
      split
      · next hr => exact ((ih h1).after_keeping h1).error hr
      · next hr => exact ((ih h1).after_keeping h1).ok (q := fun r => StaysInForm s₀ r.2) hr

theorem wholeAligned_inForm {a : Word} {e : Nat} {l : List (Nat × Word)} : EndsInForm s₀ (fun _ => True) (wholeAligned a e l) := by
  unfold wholeAligned
  refine .ite trivial ?_
  split
  · trivial
  · split
    · next he => exact checkWindow_inForm.error he
    · trivial

theorem StaysInForm.after_wholeLanes {hd : Hdr} {t : Ty} {a : Word} {write : Bool} (h : StaysInForm s₀ s) :
    EndsInForm s₀ (fun r => StaysInForm s₀ r.2) (wholeLanes s hd t a write) :=
  wholeAligned_inForm.bind fun _ _ => h.after_resolveLanes

theorem StaysInForm.after_touchLanes {l : List (Nat × List Spot)} (h : StaysInForm s₀ s) : StaysInForm s₀ (touchLanes s l) :=
  h.after_touchLoad

theorem StaysInForm.after_touchEach {l : List (Nat × List Spot)} (h : StaysInForm s₀ s) : StaysInForm s₀ (touchEach s l) :=
  h.foldl fun _ _ ht => ht.after_touchLoad

theorem StaysInForm.after_storeLanes {w : Nat} {x : VReg} {l : List (Nat × List Spot)} {whole : Bool} (h : StaysInForm s₀ s) :
    EndsInForm s₀ (StaysInForm s₀) (storeLanes s w x l whole) :=
  .ite h h.after_pushStore

theorem ringValid_inForm {r : RingEntry} {q : Ring} {n : Nat} : EndsInForm s₀ (fun _ => True) (ringValid r q n) := .ite trivial trivial

theorem ringWait_inForm {r : RingEntry} {q : Ring} {b : Bool} : EndsInForm s₀ (fun _ => True) (ringWait r q b) := endsInForm_waitFor trivial

theorem ringAccess_inForm {q : Ring} {n : Nat} {p : Bool} {b : Word} : EndsInForm s₀ (fun _ => True) (ringAccess s q n p b) :=
  ringValid_inForm.bind fun _ _ => (endsInForm_need (q := fun _ => True) trivial).bind fun _ _ =>
    .ite trivial (ringWait_inForm.bind fun _ _ => trivial)

theorem vecAddr_inForm {a : WGQ} {b : WGI} {p : Bool} : EndsInForm s₀ (fun _ => True) (vecAddr s a b p) := by
  unfold vecAddr
  split
  · trivial
  · exact ringAccess_inForm.bind fun _ _ => trivial

theorem pairAddr_inForm {a : WGQ} {b : WGI} {k : BitVec 6} : EndsInForm s₀ (fun _ => True) (pairAddr s a b k) := by
  unfold pairAddr
  split
  · trivial
  · exact ringAccess_inForm.bind fun _ _ => trivial

theorem StaysInForm.after_loadWhole {hd : Hdr} {t : Ty} {d : V} {a : Word} (h : StaysInForm s₀ s) :
    EndsInForm s₀ (StaysInForm s₀) (loadWhole s hd t d a) :=
  h.after_wholeLanes.bind fun _ h1 => h1.after_touchLanes.after_writeV

theorem StaysInForm.exec_vld {hd : Hdr} {t : Ty} {d : V} {a : WGQ} {b : WGI} (h : StaysInForm s₀ s) : NextInForm s₀ (execVld hd t d a b s) :=
  h.exec_userVector (vecAddr_inForm.bind fun _ _ => h.after_loadWhole.bind fun _ h1 => h1.after_advance)

theorem StaysInForm.exec_vld2 {hd : Hdr} {t : Ty} {k : BitVec 6} {d : V} {a : WGQ} {b : WGI} (h : StaysInForm s₀ s) :
    NextInForm s₀ (execVld2 hd t k d a b s) :=
  h.exec_userVector (pairAddr_inForm.bind fun _ _ => h.after_wholeLanes.bind fun _ h1 => (h1.after_wholeLanes.after_keeping h1).bind
    fun _ h2 => h2.after_touchLanes.after_touchLanes.after_writeV.after_writeV.after_onCore.after_advance)

theorem StaysInForm.exec_vst {hd : Hdr} {t : Ty} {d : V} {a : WGQ} {b : WGI} (h : StaysInForm s₀ s) : NextInForm s₀ (execVst hd t d a b s) :=
  h.exec_userVector (vecAddr_inForm.bind fun _ _ => h.after_wholeLanes.bind fun _ h1 => h1.after_storeLanes.bind fun _ h2 =>
    h2.after_advance)

theorem StaysInForm.after_loadEach {t : Ty} {d : V} {l : List (Nat × Word)} {touch : State → List (Nat × List Spot) → State}
    (h : StaysInForm s₀ s) (ht : ∀ u m, StaysInForm s₀ u → StaysInForm s₀ (touch u m)) :
    EndsInForm s₀ (StaysInForm s₀) (loadEach s t d l touch) :=
  h.after_resolveLanes.bind fun _ h1 => (ht _ _ h1).after_writeV

theorem StaysInForm.after_storeEach {t : Ty} {d : V} {l : List (Nat × Word)} (h : StaysInForm s₀ s) :
    EndsInForm s₀ (StaysInForm s₀) (storeEach s t d l) :=
  h.after_resolveLanes.bind fun _ h1 => h1.after_storeLanes

theorem StaysInForm.exec_vlds {hd : Hdr} {t : Ty} {d : V} {a : WG} {b : WGI} (h : StaysInForm s₀ s) : NextInForm s₀ (execVlds hd t d a b s) :=
  h.exec_userVector ((h.after_loadEach fun _ _ ht => ht.after_touchLanes).bind fun _ h1 => h1.after_advance)

theorem StaysInForm.exec_vsts {hd : Hdr} {t : Ty} {d : V} {a : WG} {b : WGI} (h : StaysInForm s₀ s) : NextInForm s₀ (execVsts hd t d a b s) :=
  h.exec_userVector (h.after_storeEach.bind fun _ h1 => h1.after_advance)

theorem StaysInForm.exec_vgath {hd : Hdr} {t : Ty} {d b : V} {a : WG} (h : StaysInForm s₀ s) : NextInForm s₀ (execVgath hd t d a b s) :=
  h.exec_userVector ((h.after_loadEach fun _ _ ht => ht.after_touchEach).bind fun _ h1 => h1.after_advance)

theorem StaysInForm.exec_vscat {hd : Hdr} {t : Ty} {d b : V} {a : WG} (h : StaysInForm s₀ s) : NextInForm s₀ (execVscat hd t d a b s) :=
  h.exec_userVector (h.after_storeEach.bind fun _ h1 => h1.after_advance)

theorem StaysInForm.exec_vldb {hd : Hdr} {t : Ty} {d : V} {a : WGQ} {b : WGI} (h : StaysInForm s₀ s) :
    NextInForm s₀ (execVldb hd t d a b s) := by
  refine h.exec_userVector (vecAddr_inForm.bind fun _ _ => h.after_wholeLanes.bind fun _ h1 => .ite ?_ h1.after_advance)
  refine (h1.after_resolve.after_keeping h1).bind fun _ h2 => ?_
  dsimp only
  split
  · exact ⟨h2, trivial⟩
  · exact h2.after_touchLanes.after_writeV.after_advance

theorem StaysInForm.exec_radvc {hd : Hdr} {a : Ring} (h : StaysInForm s₀ s) : NextInForm s₀ (execRadvc hd a s) :=
  h.exec_scalar (ringValid_inForm.bind fun _ _ => (endsInForm_waitFor (q := fun _ => True) trivial).bind fun _ _ =>
    h.after_onCore.after_advance)

theorem StaysInForm.exec_radvp {hd : Hdr} {a : Ring} (h : StaysInForm s₀ s) : NextInForm s₀ (execRadvp hd a s) :=
  h.exec_scalar (ringValid_inForm.bind fun _ _ => (endsInForm_waitFor (q := fun _ => True) trivial).bind fun _ _ =>
    h.after_onCore.after_advance)

theorem StaysInForm.exec_rstat {hd : Hdr} {d : WG} {a : Ring} (h : StaysInForm s₀ s) : NextInForm s₀ (execRstat hd d a s) :=
  h.exec_scalar h.after_writeWG.after_advance

/-! ### Copies -/

theorem copyDest_inForm {d : WGQ} : EndsInForm s₀ (fun _ => True) (copyDest s d) := by
  unfold copyDest
  split
  · trivial
  · exact ringValid_inForm.bind fun _ _ => ringWait_inForm.bind fun _ _ => trivial

theorem StaysInForm.exec_issueCopy {hd : Hdr} {kind : CopyKind} {sc : Scope} {d : WGQ} {src shape ctl : State → Word}
    (h : StaysInForm s₀ s) : NextInForm s₀ (issueCopy hd kind sc d src shape ctl s) :=
  (h.after_stallOn.ite (h.after_scalar (copyDest_inForm.bind fun _ _ => h.after_issueCmd))).next

theorem StaysInForm.exec_cwait {hd : Hdr} {b : WGI} (h : StaysInForm s₀ s) : NextInForm s₀ (execCwait hd b s) :=
  h.exec_scalar ((endsInForm_waitFor (q := fun _ => True) trivial).bind fun _ _ => h.after_acquire.after_advance)

theorem StaysInForm.exec_cstat {hd : Hdr} {d : WG} {b : WGI} (h : StaysInForm s₀ s) : NextInForm s₀ (execCstat hd d b s) :=
  h.exec_scalar h.after_writeWG.after_advance

theorem StaysInForm.after_stopCopies {k : Nat} {p : Copy → Bool} (h : StaysInForm s₀ s) : StaysInForm s₀ (stopCopies s k p) :=
  h.after_modCore.foldl fun _ _ ht => ht.after_copyGone

theorem StaysInForm.exec_ccancel {hd : Hdr} {d : WG} {b : WGI} (h : StaysInForm s₀ s) : NextInForm s₀ (execCcancel hd d b s) :=
  StaysInForm.next (h.after_stallOn.ite (h.after_scalar h.after_stopCopies.after_writeWG.after_advance))

/-! ### Messages and streams -/

theorem checkControl_inForm {w : Word} : EndsInForm s₀ (fun _ => True) (checkControl s w) :=
  (endsInForm_need (q := fun _ => True) trivial).bind fun _ _ => (endsInForm_need (q := fun _ => True) trivial).bind fun _ _ =>
    endsInForm_need trivial

theorem StaysInForm.with_network {l : List NetMsg} (h : StaysInForm s₀ s) : StaysInForm s₀ { s with network := l } := h

theorem StaysInForm.after_inject {w : Word} {rel : Bool} {sc : Scope} {l : List VReg} (h : StaysInForm s₀ s) :
    StaysInForm s₀ (inject s w rel sc l) :=
  h.with_network.after_onCore.after_traceRec.ite h.with_network.after_onCore

theorem StaysInForm.after_sendOn {ord : Ord} {sc : Scope} {w : Word} {beats : State → List VReg} (h : StaysInForm s₀ s) :
    EndsInForm s₀ (StaysInForm s₀) (sendOn s ord sc w beats) := by
  have h1 : StaysInForm s₀ (if ordRel ord then release s s.core.id sc else s) := h.after_release.ite h
  unfold sendOn
  split
  · trivial
  · exact h.after_onCore.after_advance
  · exact (endsInForm_need (q := fun _ => True) trivial).bind fun _ _ => .ite h1.after_inject h1.with_free.after_standIn

theorem StaysInForm.exec_send {hd : Hdr} {ord : Ord} {sc : Scope} {d : WG} {a : Option V} (h : StaysInForm s₀ s) :
    NextInForm s₀ (execSend hd ord sc d a s) :=
  (h.after_illegal.ite (h.after_scalar (.ite (checkControl_inForm.bind fun _ _ => h.after_sendOn) h.after_sendOn))).next

theorem StaysInForm.exec_sendl {hd : Hdr} {ord : Ord} {sc : Scope} {d a : WG} {b : WGI} (h : StaysInForm s₀ s) :
    NextInForm s₀ (execSendl hd ord sc d a b s) :=
  h.exec_scalar (.ite h.after_sendOn (checkControl_inForm.bind fun _ _ =>
    (endsInForm_need (q := fun _ => True) trivial).bind fun _ _ => ownTarget_inForm.bind fun _ _ => h.after_sendOn))

theorem streamOf_inForm {n : Chan} : EndsInForm s₀ (fun _ => True) (streamOf s n) := by
  unfold streamOf
  split
  · trivial
  · exact .ite trivial trivial

theorem StaysInForm.after_onStream {n : Chan} {f : Channel → Option Channel} (h : StaysInForm s₀ s) : StaysInForm s₀ (onStream s n f) := by
  unfold onStream
  split
  · exact h
  · exact h.after_onCore

theorem StaysInForm.after_streamAll {hd : Hdr} {ops : Nat} {d : V} {n : Chan} {f : Nat → Nat → Nat → Nat} (h : StaysInForm s₀ s) :
    EndsInForm s₀ (StaysInForm s₀) (streamAll s hd ops d n f) := by
  refine streamOf_inForm.bind fun ch _ => ?_
  cases ch with
  | none => exact h.after_advance
  | some m =>
    exact .ite (StaysInForm.ite h.after_countOps.after_writeV.after_onStream.after_advance
      h.after_countOps.after_writeV.after_onStream.after_onCore) h.after_advance

theorem StaysInForm.after_stream {i : Instr} {k : State → Eff State} (h : StaysInForm s₀ s)
    (hk : EndsInForm s₀ (StaysInForm s₀) (k s)) : StaysInForm s₀ (stream i s k) := by
  unfold stream
  split
  · exact h.after_illegal
  · exact h.after_illegal
  · exact h.after_issueVec hk

theorem StaysInForm.exec_vsred {hd : Hdr} {t : Ty} {d : V} {a : Chan} (h : StaysInForm s₀ s) : NextInForm s₀ (execVsred hd t d a s) :=
  StaysInForm.next (h.after_stream h.after_streamAll)

theorem StaysInForm.exec_vsmac {hd : Hdr} {t : Ty} {d b : V} {a : Chan} (h : StaysInForm s₀ s) : NextInForm s₀ (execVsmac hd t d a b s) :=
  StaysInForm.next (h.after_stream h.after_streamAll)

theorem StaysInForm.after_nextBeat {d : V} {a : Chan} (h : StaysInForm s₀ s) : EndsInForm s₀ (StaysInForm s₀) (nextBeat s d a) := by
  refine streamOf_inForm.bind fun ch _ => ?_
  cases ch with
  | none => exact h.after_writeV.after_advance
  | some m =>
    dsimp only
    split
    · exact h.after_writeV.after_onStream.after_advance
    · exact .ite h.after_writeV.after_advance trivial

theorem StaysInForm.exec_vsmov {hd : Hdr} {d : V} {a : Chan} (h : StaysInForm s₀ s) : NextInForm s₀ (execVsmov hd d a s) :=
  StaysInForm.next ((h.after_stream h.after_nextBeat).ite (h.after_settle (streamOf_inForm.bind fun _ _ => h.after_advance)))

theorem StaysInForm.exec_chend {hd : Hdr} {a : Chan} (h : StaysInForm s₀ s) : NextInForm s₀ (execChend hd a s) :=
  StaysInForm.next (h.after_illegal.ite (h.after_settle (streamOf_inForm.bind fun _ _ => .ite h.after_onStream.after_advance h.after_advance)))

/-! ### The rake -/

theorem setSkip_wf {m : List Host.Cell} (h : Memory.wf m = true) (k : Nat) (c : Clamp) (i : Nat) (b : Bool) :
    Memory.wf (setSkip m k c i b) = true := memSet_wf h _ _

theorem wakeCoal_wf {m m' : List Host.Cell} {k i : Nat} {c : Clamp} {cause : BitVec 8} (hw : wakeCoal m k c i cause = some m')
    (h : Memory.wf m = true) : Memory.wf m' = true := by
  unfold wakeCoal at hw
  dsimp only at hw
  split at hw
  · obtain rfl := Option.some.inj hw
    exact setSkip_wf (memSet_wf (memSet_wf h _ _) _ _) _ _ _ _
  · cases hw

theorem putLane_wf {m : List Host.Cell} (h : Memory.wf m = true) (k : Nat) (c : Clamp) (bank : CoalBank) (beat L : Nat) :
    Memory.wf (putLane m k c bank beat L) = true := by
  unfold putLane
  dsimp only
  split
  · exact setSkip_wf (memWrite_wf (memWrite_wf h _ _ _) _ _ _) _ _ _ _
  · exact h

theorem StaysInForm.after_wakeAtOnce {k n i : Nat} {c : Clamp} {cause : BitVec 8} {behind : Bool} (h : StaysInForm s₀ s) :
    StaysInForm s₀ (wakeAtOnce s k n c i cause behind) := by
  unfold wakeAtOnce
  split
  · exact h
  · next hw => exact (h.withMem (wakeCoal_wf hw)).after_modCore.ite (h.withMem (wakeCoal_wf hw))

theorem StaysInForm.after_wakeElement {k n i : Nat} {cause : BitVec 8} (h : StaysInForm s₀ s) :
    StaysInForm s₀ (wakeElement s k n i cause) := by
  unfold wakeElement
  dsimp only
  split
  · exact h
  · split
    · exact h.after_wakeAtOnce
    · refine h.after_wakeAtOnce.ite ?_
      split
      · exact h.after_wakeAtOnce
      · exact h.after_wakeAtOnce.ite (h.after_modCore.ite h.after_wakeAtOnce)

theorem StaysInForm.exec_issueRake {hd : Hdr} {cmd : State → RakeCmd} (h : StaysInForm s₀ s) : NextInForm s₀ (issueRake hd cmd s) :=
  StaysInForm.next (h.after_stallOn.ite (h.after_scalar h.after_issueCmd))

theorem StaysInForm.after_wakeFault (h : StaysInForm s₀ s) : StaysInForm s₀ (wakeFault s) := by
  unfold wakeFault
  split
  · exact h.after_faultLaunch
  · exact h.after_raise

theorem StaysInForm.after_rkwake {n : Nat} {i : Word} {cause : BitVec 8} (h : StaysInForm s₀ s) : StaysInForm s₀ (rkwake s n i cause) := by
  unfold rkwake
  split
  · exact h.after_wakeFault
  · exact h.after_wakeFault.ite h.after_drainAll.after_wakeElement.after_advance

theorem StaysInForm.exec_rkwake {hd : Hdr} {c : BitVec 6} {a b : WGI} (h : StaysInForm s₀ s) : NextInForm s₀ (execRkwake hd c a b s) :=
  StaysInForm.next (h.after_illegalOperand.ite (h.after_rkwake.ite h.after_advance))

theorem foldl_wf {α : Type} {f : List Host.Cell → α → List Host.Cell} (hf : ∀ m x, Memory.wf m = true → Memory.wf (f m x) = true)
    (l : List α) {m : List Host.Cell} (h : Memory.wf m = true) : Memory.wf (l.foldl f m) = true := by
  induction l generalizing m with
  | nil => exact h
  | cons x r ih => exact ih (hf m x h)

theorem StaysInForm.after_rknext (h : StaysInForm s₀ s) : StaysInForm s₀ (rknext s) := by
  unfold rknext
  dsimp only
  split
  · exact h
  · split
    · have h1 := fun c p => h.withMem (foldl_wf (fun m L hm => putLane_wf hm s.core.id c s.core.coal p L) (List.range 8))
      exact ((h1 _ _).after_onCore).foldl fun _ _ ht => ht.after_wakeAtOnce
    · exact h

theorem StaysInForm.exec_rknext {hd : Hdr} (h : StaysInForm s₀ s) : NextInForm s₀ (execRknext hd s) :=
  StaysInForm.next (.ite (h.after_illegalOperand.ite (h.after_rknext.after_advance.ite h.after_advance)) h.after_illegal)

theorem StaysInForm.exec_rkwait {hd : Hdr} {c : BitVec 6} (h : StaysInForm s₀ s) : NextInForm s₀ (execRkwait hd c s) :=
  h.exec_scalar ((endsInForm_waitFor (q := fun _ => True) trivial).bind fun _ _ => h.after_acquire.after_advance)

theorem StaysInForm.exec_rkstat {hd : Hdr} {c : BitVec 6} {d : WG} (h : StaysInForm s₀ s) : NextInForm s₀ (execRkstat hd c d s) :=
  h.exec_scalar h.after_writeWG.after_advance

theorem StaysInForm.after_performDecl {k n : Nat} {r : OpRec} (h : StaysInForm s₀ s) : GivesInForm s₀ (performDecl s k n r) :=
  givesInForm_bind fun _ => givesInForm_bind fun _ => givesInForm_ok h.after_modCore

theorem StaysInForm.after_performSweep {k n : Nat} {r : OpRec} (h : StaysInForm s₀ s) : GivesInForm s₀ (performSweep s k n r) := by
  unfold performSweep
  split
  · exact givesInForm_error
  · exact givesInForm_ok h.after_modCore

theorem StaysInForm.after_sampleBeat {k : Nat} (h : StaysInForm s₀ s) : StaysInForm s₀ (sampleBeat s k) := by
  unfold sampleBeat
  dsimp only
  split
  · exact h
  · exact h.ite h.after_modCore

theorem StaysInForm.after_endSweep {k : Nat} (h : StaysInForm s₀ s) : StaysInForm s₀ (endSweep s k) := by
  unfold endSweep
  dsimp only
  split
  · exact h
  · exact h.ite (h.after_modCore.ite h.after_modCore.after_countDown)

/-! ### Steps, boosts and wakes -/

theorem StaysInForm.after_retarget {c : Nat} (h : StaysInForm s₀ s) : StaysInForm s₀ (retarget s c) := h.ite h.after_setCluster

theorem StaysInForm.after_retargetAll (h : StaysInForm s₀ s) : StaysInForm s₀ (retargetAll s) := h.foldl fun _ _ ht => ht.after_retarget

theorem StaysInForm.after_grantBoost {n : Nat} (h : StaysInForm s₀ s) : StaysInForm s₀ (grantBoost s n) := by
  induction n generalizing s with
  | zero => exact h
  | succ n ih =>
    unfold grantBoost
    split
    · exact h
    · exact .ite (ih h.with_hub.after_retarget) h

theorem StaysInForm.after_requestStep {c : Nat} {step : BitVec 8} (h : StaysInForm s₀ s) : StaysInForm s₀ (requestStep s c step) :=
  h.after_modCluster.with_hub.after_retarget.after_grantBoost

theorem StaysInForm.after_rouse {c : Nat} (h : StaysInForm s₀ s) : StaysInForm s₀ (rouse s c) :=
  h.after_setCluster.ite (h.after_setCluster.ite h)

theorem StaysInForm.after_chooseCluster {r : WakeReq} {c : Nat} (h : StaysInForm s₀ s) : StaysInForm s₀ (chooseCluster r s c) :=
  h.after_modCluster

theorem StaysInForm.after_serveKindle {k : Kindle} (h : StaysInForm s₀ s) : StaysInForm s₀ (serveKindle s k).1 :=
  h.foldl fun _ _ ht => ht.after_chooseCluster

theorem StaysInForm.after_serveAll {l : List Kindle} (h : StaysInForm s₀ s) : StaysInForm s₀ (serveAll s l).1 := by
  induction l generalizing s with
  | nil => exact h
  | cons k r ih => exact ih h.after_serveKindle

theorem StaysInForm.after_serveKindles (h : StaysInForm s₀ s) : StaysInForm s₀ (serveKindles s) := h.after_serveAll.with_hub

theorem StaysInForm.after_askWake {r : WakeReq} {n : Nat} (h : StaysInForm s₀ s) : StaysInForm s₀ (askWake s r n) :=
  h.with_hub.after_serveKindles

end Sys2Proof.Machine.FormLaws
end

section
/-!
The forms through cuts, launches and the work instructions (Cut, Launch, Watch, Work).
-/
set_option Elab.async false
namespace Sys2Proof.Machine.FormLaws

variable {s₀ s : State}

theorem EndsInForm.after_bareStop {α : Type} {q : α → Prop} {x : Eff α} (hx : EndsInForm s₀ q x) : EndsInForm s₀ q (bareStop x) := by
  cases x with
  | error e => exact stopsInForm_bare e
  | ok a => exact hx

/-! ### Cuts -/

theorem StaysInForm.after_thaw {c : Cut} (h : StaysInForm s₀ s) : StaysInForm s₀ (thaw s c) := by
  refine h.after_mapCores fun k => ?_
  split
  · split <;> rfl
  · rfl

theorem StaysInForm.after_cutPart {r : StopReq} {ctx : CtxId} (h : StaysInForm s₀ s) : StaysInForm s₀ (cutPart r s ctx) := by
  unfold cutPart
  split
  · split
    · exact h
    · exact h.after_thaw.with_cuts.ite h.with_cuts
  · exact h.with_cuts

theorem StaysInForm.after_startCut {r : StopReq} (h : StaysInForm s₀ s) : StaysInForm s₀ (startCut s r) := h.foldl fun _ _ ht => ht.after_cutPart

theorem StaysInForm.after_acknowledge {i k : Nat} (h : StaysInForm s₀ s) : StaysInForm s₀ (acknowledge s i k) := by
  unfold acknowledge
  split
  · exact h
  · split
    · exact h
    · exact h.after_modCore.with_cuts.ite h

theorem StaysInForm.after_releaseBehind {i : Nat} {w : CtxId × Lid} (h : StaysInForm s₀ s) : StaysInForm s₀ (releaseBehind s i w) := by
  unfold releaseBehind
  split
  · exact h
  · exact (h.foldl fun _ _ ht => ht.after_modCore).with_cuts.ite h

theorem StaysInForm.after_stopRecord {k : Nat} (h : StaysInForm s₀ s) : StaysInForm s₀ (stopRecord s k) := h.after_traceRec.ite h

theorem copyLocal_wf {m : List Host.Cell} (h : Memory.wf m = true) (src dst : Nat) : Memory.wf (copyLocal m src dst) = true :=
  memSetAll_wf (memClear_wf h _ _) _

theorem writeRecord_wf {m : List Host.Cell} (h : Memory.wf m = true) (n i : Nat) (header : BitVec 512) (k : Nat) :
    Memory.wf (writeRecord n i header k m) = true :=
  copyLocal_wf (memWrite_wf h _ _ _) _ _

theorem StaysInForm.after_copyLocal {src dst : Nat} (h : StaysInForm s₀ s) : StaysInForm s₀ { s with mem := copyLocal s.mem src dst } :=
  h.withMem fun hm => copyLocal_wf hm src dst

theorem StaysInForm.after_resumeImage {img : Image} {k : Nat} (h : StaysInForm s₀ s) : StaysInForm s₀ (resumeImage s img k) :=
  h.after_raiseEngine.ite (h.after_acquire.after_copyLocal.ite h.after_acquire).after_modCore

theorem StaysInForm.after_passOn {k : Nat} (h : StaysInForm s₀ s) : StaysInForm s₀ (passOn s k) := h

/-! ### Launch packets -/

/-- A reader of packets keeps the forms. -/
def ReadsInForm (s₀ : State) (rd : Reader) : Prop :=
  ∀ s a n, StaysInForm s₀ s → EndsInForm s₀ (fun r => StaysInForm s₀ r.2) (rd s a n)

theorem coreReader_inForm : ReadsInForm s₀ coreReader := fun _ _ _ h => h.after_load

theorem hubReader_inForm {w : Acc} : ReadsInForm s₀ (hubReader w) := fun _ _ _ h => h.after_hubRead.map fun _ hr => hr

theorem StaysInForm.after_readBlocks {rd : Reader} {queued : Bool} {p : Nat} (h : StaysInForm s₀ s) (hrd : ReadsInForm s₀ rd) :
    EndsInForm s₀ (fun r => StaysInForm s₀ r.2) (readBlocks rd queued s p) := by
  refine .ite h ?_
  dsimp only
  refine .ite (.ite (.ite ?bad ?good) ?globals) ?windows
  case bad | good => exact h
  case globals => exact (hrd _ _ _ h).bind fun _ h2 => .ite h2 h2
  case windows =>
    exact (hrd _ _ _ h).bind fun _ h1 => .ite (.ite h1 h1) ((hrd _ _ _ h1).bind fun _ h2 => .ite h2 h2)

/-! ### Launches and graphs entered, levels of work -/

theorem StaysInForm.after_addPending {st : Nat} {ctx : CtxId} {ident : BitVec 32} {g : Bool} {prio : BitVec 6} (h : StaysInForm s₀ s) :
    StaysInForm s₀ (addPending s st ctx ident g prio) := h

theorem StaysInForm.after_refuse {st : Nat} (h : StaysInForm s₀ s) : StaysInForm s₀ (refuse s st) := h

theorem StaysInForm.after_joinLevels {i : Issuer} (h : StaysInForm s₀ s) : StaysInForm s₀ (joinLevels s i) := h.after_modCtx.after_modQueue

theorem StaysInForm.after_zeroGranule {root lo hi : Nat} (h : StaysInForm s₀ s) : StaysInForm s₀ (zeroGranule root s lo hi) := by
  unfold zeroGranule
  split
  · exact h
  · exact h.ite ((h.withFlash fun hf => memClear_wf hf _ _).ite h.after_memClear)

theorem StaysInForm.after_zeroWatch {ctx : CtxId} (h : StaysInForm s₀ s) : StaysInForm s₀ (zeroWatch s ctx) := by
  unfold zeroWatch
  split
  · exact h
  · exact h.ite (h.foldl fun _ _ ht => ht.after_zeroGranule)

theorem StaysInForm.after_enterLaunch {i : Issuer} {subs : List SubLaunch} {st : Nat} {target : BitVec 3} (h : StaysInForm s₀ s) :
    StaysInForm s₀ (enterLaunch s i subs st target) := by
  have h1 := h.after_zeroWatch (ctx := i.ctx)
  refine StaysInForm.after_addPending (StaysInForm.after_joinLevels ?_)
  split
  · exact h1.with_launches.after_modCtx.after_modGraph
  · exact h1.with_launches.after_modCtx

theorem StaysInForm.after_enterGraph {i : Issuer} {base : Word} {nodes walker : Nat} (h : StaysInForm s₀ s) :
    StaysInForm s₀ (enterGraph s i base nodes walker) :=
  h.after_zeroWatch.with_graphs.after_modCtx.after_joinLevels.after_addPending

theorem StaysInForm.with_links {l : Vector Link 8} (h : StaysInForm s₀ s) : StaysInForm s₀ { s with links := l } := h

theorem StaysInForm.after_closePhase {ctx : CtxId} {q : BitVec 4} {reopens : Bool} (h : StaysInForm s₀ s) :
    StaysInForm s₀ (closePhase s ctx q reopens) := h.after_modCtx.with_links

theorem StaysInForm.after_openPhase {ctx : CtxId} {q : BitVec 4} {num : BitVec 32} (h : StaysInForm s₀ s) :
    StaysInForm s₀ (openPhase s ctx q num) := h.after_modCtx.after_modQueue.with_links

theorem StaysInForm.after_retireGraph {g : Graph} {st : BitVec 2} {status : BitVec 16} (h : StaysInForm s₀ s) :
    StaysInForm s₀ (retireGraph s g st status) :=
  h.after_dropPending.after_modCtx.after_modQueue.after_journalEnd.with_graphs

theorem StaysInForm.after_cancelLaunches {l : List Launch} (h : StaysInForm s₀ s) : StaysInForm s₀ (cancelLaunches s l) :=
  h.foldl fun _ _ ht => ht.after_retireLaunch

theorem StaysInForm.after_cancelGraphs {l : List Graph} (h : StaysInForm s₀ s) : StaysInForm s₀ (cancelGraphs s l) :=
  h.foldl fun _ _ ht => ht.after_retireGraph

theorem StaysInForm.after_cancelWork {pl : Launch → Bool} {pg : Graph → Bool} (h : StaysInForm s₀ s) : StaysInForm s₀ (cancelWork s pl pg) :=
  h.after_cancelLaunches.after_cancelGraphs

theorem StaysInForm.after_cancelUnit {k : Nat} {ctx : CtxId} {act : BitVec 32} (h : StaysInForm s₀ s) :
    StaysInForm s₀ (cancelUnit s k ctx act) := by
  have h1 := ((h.after_release (k := k) (sc := .sys)).ite (c := unitRuns (getCore s k) ctx act = true) h).after_stopEngines (k := k)
    (mine := fun r => r.ctx == ctx && r.actid == act)
  have h2 := (h1.after_modCore (k := k) (f := dropUnit ctx act)).foldl (l := unitCounts (getCore s k) ctx act)
    fun _ r ht => ht.after_countDown (i := r.1) (l := r.2) (n := 1)
  unfold cancelUnit
  dsimp only
  split
  · exact h2.after_countDown.ite h2
  · exact h2

theorem StaysInForm.after_cancelSaved {k : Nat} {ctx : CtxId} {act : BitVec 32} (h : StaysInForm s₀ s) :
    StaysInForm s₀ (cancelSaved s k ctx act) := StaysInForm.foldl h.of_eq fun _ _ ht => ht.after_countDown

theorem StaysInForm.after_cancelled {lvl : Level} {ctx : CtxId} {a : Word} (h : StaysInForm s₀ s) :
    StaysInForm s₀ (cancelled s lvl ctx a).2 := by
  fun_cases cancelled s lvl ctx a
  case case1 => exact h.after_cancelUnit
  case case3 => exact h.after_cancelSaved
  case case4 => exact h.after_cancelLaunches
  case case6 => exact h.after_cancelWork
  case case8 => exact (h.after_cancelWork.foldl fun _ _ ht => ht.after_modQueue).after_modCtx
  case case11 => exact h.after_cancelWork.after_closePhase.after_modCtx.after_modQueue
  all_goals exact h

/-! ### The watch unit -/

theorem StaysInForm.after_notifyTarget {w : Acc} {tgt val : Word} (h : StaysInForm s₀ s) :
    EndsInForm s₀ (StaysInForm s₀) (notifyTarget s w tgt val) := by
  refine .ite h (.ite (.ite endsInForm_fault (.ite h.with_hub endsInForm_fault)) (.ite (.ite endsInForm_fault ?place) ?wake))
  case place =>
    split
    · next e he =>
      split
      · trivial
      · exact h.after_resolve.error he
    · next he =>
      have h1 := h.after_resolve.ok he
      exact h1.after_unitPut.ite h1.after_homePut
  case wake =>
    refine .ite endsInForm_fault (.ite endsInForm_fault (.ite endsInForm_fault ?_))
    split
    · trivial
    · exact .ite endsInForm_fault h.after_wakeElement

theorem StaysInForm.after_resolveAll {ctx : CtxId} {l : List (Word × Nat)} {stops : List (Word × Stop)} (h : StaysInForm s₀ s)
    (hs : ∀ p ∈ stops, StopsInForm s₀ p.2) (step : State × List (Word × Stop) → Word × Nat → State × List (Word × Stop))
    (hstep : ∀ acc p, step acc p = match resolve acc.1 (userAcc ctx) p.1 4 4 true with
      | .ok (_, t) => (t, acc.2)
      | .error e => (e.state acc.1, acc.2 ++ [(p.1, e.bare)])) :
    StaysInForm s₀ (l.foldl step (s, stops)).1 ∧ ∀ p ∈ (l.foldl step (s, stops)).2, StopsInForm s₀ p.2 := by
  induction l generalizing s stops with
  | nil => exact ⟨h, hs⟩
  | cons p r ih =>
    rw [List.foldl_cons, hstep]
    split
    · next he => exact ih (h.after_resolve.ok he) hs
    · next e he =>
      refine ih ((h.after_resolve.error he).state h) fun q hq => ?_
      obtain hq | hq := List.mem_append.1 hq
      · exact hs q hq
      · obtain rfl := List.mem_singleton.1 hq
        exact stopsInForm_bare e

theorem endsInForm_foldlM {α : Type} {f : State → α → Eff State} (hf : ∀ t x, StaysInForm s₀ t → EndsInForm s₀ (StaysInForm s₀) (f t x))
    (l : List α) (h : StaysInForm s₀ s) : EndsInForm s₀ (StaysInForm s₀) (l.foldlM f s) := by
  induction l generalizing s with
  | nil => exact h
  | cons x r ih => exact (hf s x h).bind fun _ ht => ih ht

theorem StaysInForm.after_logStores {ctx : CtxId} {l : List (Word × Nat)} (h : StaysInForm s₀ s) :
    EndsInForm s₀ (StaysInForm s₀) (logStores s ctx l) := by
  obtain ⟨h1, hstops⟩ := h.after_resolveAll (ctx := ctx) (l := l) (stops := []) (fun _ hp => by cases hp) _ fun _ _ => rfl
  unfold logStores
  dsimp only
  split
  · exact endsInForm_fault.after_keeping h1
  · next heq => exact EndsInForm.after_keeping (hstops _ (heq ▸ List.mem_cons_self)) h1
  · exact (endsInForm_foldlM (fun _ _ ht => ht.after_hubWrite) l h1).after_bareStop

theorem StaysInForm.after_readRow {ctx : CtxId} {a : Word} (h : StaysInForm s₀ s) :
    EndsInForm s₀ (fun r => StaysInForm s₀ r.2.2) (readRow s ctx a) := h.after_hubRead.bind fun _ h1 => h1

theorem StaysInForm.after_writeRow {ctx : CtxId} {a : Word} {n : Nat} {es : List Nat} (h : StaysInForm s₀ s) :
    EndsInForm s₀ (StaysInForm s₀) (writeRow s ctx a n es) := h.after_hubWrite.after_bareStop

/-- An answer that names no state, or one in the forms of `s₀`. -/
def AnyInForm (s₀ : State) (r : Option State) : Prop := ∀ t, r = some t → StaysInForm s₀ t

theorem anyInForm_none : AnyInForm s₀ none := fun _ ht => nomatch ht
theorem anyInForm_some (h : StaysInForm s₀ s) : AnyInForm s₀ (some s) := fun _ ht => Option.some.inj ht ▸ h

theorem StaysInForm.after_forkMap {ctx : CtxId} {src dst : Nat} (h : StaysInForm s₀ s) :
    EndsInForm s₀ (AnyInForm s₀) (forkMap s ctx src dst) := by
  refine h.after_hubRead.bind fun _ h1 => h1.after_hubRead.bind fun _ h2 => .ite anyInForm_none ?_
  refine h2.after_hubRead.bind fun _ h3 => .ite ?empty ?copied
  case empty => exact h3.after_hubWrite.bind fun _ h4 => anyInForm_some h4
  case copied =>
    exact h3.after_hubWrite.bind fun _ h4 => h4.after_hubWrite.bind fun _ h5 => h5.after_hubWrite.bind fun _ h6 => anyInForm_some h6

theorem StaysInForm.after_forkRow {ctx : CtxId} {base : BitVec 56} {n slot : Nat} (h : StaysInForm s₀ s) :
    EndsInForm s₀ (AnyInForm s₀) (forkRow s ctx base n slot) := by
  refine h.after_readRow.bind fun _ h1 => .ite anyInForm_none (h1.after_forkMap.bind fun r h2 => ?_)
  cases r with
  | none => exact anyInForm_none
  | some t => exact (h2 t rfl).after_writeRow.bind fun _ h3 => anyInForm_some h3

theorem StaysInForm.after_serveCommit {ctx : CtxId} {base : BitVec 56} {row : Word} {toks : List Nat} {dead : Bool} (h : StaysInForm s₀ s) :
    EndsInForm s₀ (fun r => StaysInForm s₀ r.2) (serveCommit s ctx base row toks dead) := by
  refine h.after_readRow.bind fun _ h1 => .ite h1 (h1.after_logStores.bind fun _ h2 => ?_)
  have hw : ∀ {r a es x t}, StaysInForm s₀ t → EndsInForm s₀ (fun r => StaysInForm s₀ r.2)
      (writeRow t ctx r a es >>= fun t => (.ok (x, t) : Eff (Word × State))) := fun ht => ht.after_writeRow.bind fun _ h3 => h3
  dsimp only
  split
  · exact hw h2
  · refine .ite (hw h2) (.ite (h2.after_forkRow.after_bareStop.bind fun r hr => ?fork) (.ite (h2.after_writeRow.bind fun s3 h3 => ?notify) (hw h2)))
    case fork =>
      cases r with
      | none => exact hw h2
      | some t => exact hw (hr t rfl)
    case notify =>
      have hn := fun w v => h3.after_notifyTarget (w := userAcc ctx) (tgt := w) (val := v)
      split
      · next he => exact (hn _ _).ok he
      · split
        · trivial
        · exact h3
        · exact .ite h3 trivial
        · exact stopsInForm_bare _

theorem StaysInForm.after_serveSet {ctx : CtxId} {base : BitVec 56} {row : Word} {idx : Nat} {image : List Byte} (h : StaysInForm s₀ s) :
    EndsInForm s₀ (fun r => StaysInForm s₀ r.2) (serveSet s ctx base row idx image) :=
  h.after_readRow.bind fun _ h1 => .ite (.ite h1 (h1.after_writeRow.bind fun _ h2 => h2)) (.ite h1 (h1.after_writeRow.bind fun _ h2 => h2))

theorem StaysInForm.after_serveClear {ctx : CtxId} {base : BitVec 56} {row : Word} {idx : Nat} (h : StaysInForm s₀ s) :
    EndsInForm s₀ (fun r => StaysInForm s₀ r.2) (serveClear s ctx base row idx) :=
  h.after_readRow.bind fun _ h1 => .ite (h1.after_writeRow.bind fun _ h2 => h2) (.ite h1 (h1.after_writeRow.bind fun _ h2 => h2))

theorem StaysInForm.after_serveWatch {r : WatchReq} {dead : Bool} (h : StaysInForm s₀ s) :
    EndsInForm s₀ (fun r => StaysInForm s₀ r.2) (serveWatch s r dead) := by
  cases r with
  | commit => exact h.after_serveCommit
  | setEntry => exact h.after_serveSet
  | clear => exact h.after_serveClear

theorem StaysInForm.after_handResult {k : Nat} {r : Except (FCode × Word) Word} (h : StaysInForm s₀ s) :
    StaysInForm s₀ (handResult s k r) := h.ite h.after_modCore

/-! ### The work instructions -/

theorem StaysInForm.after_answer {d : WG} {x : Word} (h : StaysInForm s₀ s) : StaysInForm s₀ (answer s d x) := h.after_writeWG.after_advance

theorem StaysInForm.exec_spawn {hd : Hdr} {d a : WG} {b : WGI} (h : StaysInForm s₀ s) : NextInForm s₀ (execSpawn hd d a b s) := by
  refine h.exec_scalar ?_
  split
  · exact h.after_answer
  · exact .ite h.after_answer ((endsInForm_issueRoom (q := fun _ => True) trivial).bind fun _ _ => h.after_onCore.after_charge.after_answer)

theorem StaysInForm.exec_launch {hd : Hdr} {d a : WG} (h : StaysInForm s₀ s) : NextInForm s₀ (execLaunch hd d a s) := by
  refine h.exec_scalar (h.after_load.bind fun _ h1 => .ite trivial ((h1.after_readBlocks coreReader_inForm).bind fun r h2 => ?_))
  obtain ⟨_ | sub, s2⟩ := r
  · trivial
  · exact .ite h2.after_release.after_refuse.after_answer h2.after_release.after_enterLaunch.after_answer

theorem StaysInForm.exec_glaunch {hd : Hdr} {d a : WG} {b : WGI} (h : StaysInForm s₀ s) : NextInForm s₀ (execGlaunch hd d a b s) :=
  h.exec_scalar ((endsInForm_need (q := fun _ => True) trivial).bind fun _ _ => (endsInForm_need (q := fun _ => True) trivial).bind
    fun _ _ => (endsInForm_need (q := fun _ => True) trivial).bind fun _ _ =>
      .ite h.after_release.after_refuse.after_answer h.after_release.after_enterGraph.after_answer)

theorem StaysInForm.exec_cancel {hd : Hdr} {lvl : Level} {d : WG} {a : WGI} (h : StaysInForm s₀ s) : NextInForm s₀ (execCancel hd lvl d a s) := by
  refine h.exec_scalar ?_
  dsimp only
  split
  · exact h.after_answer
  · exact h.after_answer.after_cancelled

theorem StaysInForm.exec_compl {hd : Hdr} {lvl : Level} {d : WG} {a : WGI} (h : StaysInForm s₀ s) : NextInForm s₀ (execCompl hd lvl d a s) :=
  h.exec_scalar (h.after_acquire.ite h).after_answer

theorem StaysInForm.exec_bind {hd : Hdr} {d a b : WG} (h : StaysInForm s₀ s) : NextInForm s₀ (execBind hd d a b s) :=
  h.exec_scalar ((endsInForm_need (q := fun _ => True) trivial).bind fun _ _ => h.after_onCore.after_answer)

theorem StaysInForm.exec_unbind {hd : Hdr} {d : WG} {b : WGI} (h : StaysInForm s₀ s) : NextInForm s₀ (execUnbind hd d b s) :=
  h.exec_scalar (.ite h.after_onCore.after_answer h.after_answer)

theorem hubRoute_inForm : EndsInForm s₀ (fun _ => True) (hubRoute s) := endsInForm_need trivial

theorem arrivalWord_inForm {b : Word} : EndsInForm s₀ (fun _ => True) (arrivalWord s b) := by
  refine .ite trivial (.ite trivial (.ite trivial ?_))
  dsimp only
  split
  · next he => exact peerStop_inForm he
  · trivial

theorem StaysInForm.exec_kindle {hd : Hdr} {cls : WakeClass} {sc : Scope} {d b : WG} {a : WGI} (h : StaysInForm s₀ s) :
    NextInForm s₀ (execKindle hd cls sc d a b s) :=
  h.exec_scalar (arrivalWord_inForm.bind fun _ _ => hubRoute_inForm.bind fun _ _ =>
    .ite h.after_answer (.ite h.after_answer h.after_answer.after_askWake))

theorem StaysInForm.after_holdEntry {st : Nat} {l : Launch} (h : StaysInForm s₀ s) : StaysInForm s₀ (holdEntry st s l) := h.ite h

theorem StaysInForm.after_saveInto {st : Nat} {l : List Image} (h : StaysInForm s₀ s) : StaysInForm s₀ (saveInto s st l) := h

theorem StaysInForm.after_putBack {i : Image} (h : StaysInForm s₀ s) : StaysInForm s₀ (putBack s i) := by
  unfold putBack
  split
  · exact h.after_holdEntry.after_saveInto
  · exact h

theorem StaysInForm.after_withdraw {ctx : CtxId} (h : StaysInForm s₀ s) : StaysInForm s₀ (withdraw s ctx) := by
  refine StaysInForm.after_modCtx (StaysInForm.foldl ?_ fun _ _ ht => ht.after_putBack)
  refine StaysInForm.after_mapCores (h.foldl fun _ _ ht => ht.after_thaw).with_cuts fun k => ?_
  split
  · split <;> rfl
  · rfl

theorem StaysInForm.exec_migrate {hd : Hdr} {d : WG} {a : WGI} (h : StaysInForm s₀ s) : NextInForm s₀ (execMigrate hd d a s) :=
  h.exec_scalar (hubRoute_inForm.bind fun _ _ => .ite h.after_answer (.ite h.after_answer (.ite h.after_answer.after_withdraw
    (.ite h.after_answer h.after_answer.after_modCtx.after_startCut))))

theorem StaysInForm.after_askWatch {r : WatchReq} {done : State → Word → Eff State} (h : StaysInForm s₀ s)
    (hd : ∀ t w, StaysInForm s₀ t → EndsInForm s₀ (StaysInForm s₀) (done t w)) : EndsInForm s₀ (StaysInForm s₀) (askWatch s r done) := by
  unfold askWatch
  split
  · exact hubRoute_inForm.bind fun _ _ => h.with_hub.after_onCore
  · trivial
  · trivial
  · exact hd _ _ h.after_onCore

theorem StaysInForm.after_committed {d : WG} {w : Word} (h : StaysInForm s₀ s) : EndsInForm s₀ (StaysInForm s₀) (committed d s w) :=
  .ite h.after_onCore.after_standIn (.ite (h.after_raiseTrap.bind fun _ h1 => h1.after_answer) h.after_answer)

theorem StaysInForm.exec_tkcmt {hd : Hdr} {cnt : BitVec 6} {d : WG} {a : WGI} {b : V} (h : StaysInForm s₀ s) :
    NextInForm s₀ (execTkcmt hd cnt d a b s) := by
  refine h.exec_userOnly ?_
  dsimp only
  split
  · exact h.after_onCore.after_committed
  · exact .ite h.after_answer ((h.after_release.ite h).after_askWatch fun _ _ ht => ht.after_committed)

theorem StaysInForm.exec_tkwset {hd : Hdr} {idx : BitVec 6} {d b : WG} {a : WGI} (h : StaysInForm s₀ s) :
    NextInForm s₀ (execTkwset hd idx d a b s) :=
  h.exec_scalar (.ite (ownTarget_inForm.bind fun _ _ => (endsInForm_need (q := fun _ => True) trivial).bind fun _ _ =>
    .ite h.after_answer (h.after_askWatch fun _ _ ht => ht.after_answer)) (h.after_askWatch fun _ _ ht => ht.after_answer))

theorem StaysInForm.exec_tkwclr {hd : Hdr} {idx : BitVec 6} {d : WG} {a : WGI} (h : StaysInForm s₀ s) :
    NextInForm s₀ (execTkwclr hd idx d a s) :=
  h.exec_scalar (.ite h.after_answer (h.after_askWatch fun _ _ ht => ht.after_answer))

theorem StaysInForm.exec_notify {hd : Hdr} {a : WG} {b : WGI} (h : StaysInForm s₀ s) : NextInForm s₀ (execNotify hd a b s) :=
  h.exec_scalar (h.after_release.after_notifyTarget.bind fun _ h1 => h1.after_advance)

theorem StaysInForm.exec_idle {hd : Hdr} (h : StaysInForm s₀ s) : NextInForm s₀ (execIdle hd s) :=
  h.exec_userOnly h.after_endTask.after_onCore

end Sys2Proof.Machine.FormLaws
end

section
/-!
The forms through the system instructions, and through the events of tasks, messages, the memory system and the engines.
-/
set_option Elab.async false
namespace Sys2Proof.Machine.FormLaws

variable {s₀ s : State}

/-! ### System instructions -/

theorem StaysInForm.after_writeSpecial {r : SReg} {x : Word} (h : StaysInForm s₀ s) : StaysInForm s₀ (writeSpecial s r x) := by
  unfold writeSpecial
  split
  case h_3 => exact h.after_onCore.ite h.after_onCore
  case h_4 | h_5 => exact h.after_onCore.ite h
  case h_1 | h_2 | h_6 | h_7 => exact h.after_onCore
  all_goals exact h

theorem StaysInForm.exec_srd {hd : Hdr} {d : WG} {a : SReg} (h : StaysInForm s₀ s) : NextInForm s₀ (execSrd hd d a s) :=
  h.exec_scalar h.after_answer

theorem StaysInForm.exec_swr {hd : Hdr} {d : SReg} {a : WGI} (h : StaysInForm s₀ s) : NextInForm s₀ (execSwr hd d a s) := by
  have hk : EndsInForm s₀ (StaysInForm s₀) (.ok (advance (writeSpecial s d (readWGI s a)))) := h.after_writeSpecial.after_advance
  exact StaysInForm.next ((h.after_privOnly hk).ite (h.after_scalar hk))

theorem StaysInForm.with_walks {l : List Walk} (h : StaysInForm s₀ s) : StaysInForm s₀ { s with walks := l } := h

theorem StaysInForm.exec_tlbinv {hd : Hdr} {k : InvKind} {a b : WG} (h : StaysInForm s₀ s) : NextInForm s₀ (execTlbinv hd k a b s) := by
  refine h.exec_privOnly ?_
  split
  · trivial
  · exact h.after_onCore.after_advance
  · exact (endsInForm_need (q := fun _ => True) trivial).bind fun _ _ => h.with_walks.after_onCore

theorem StaysInForm.exec_seed {hd : Hdr} {a : WGI} (h : StaysInForm s₀ s) : NextInForm s₀ (execSeed hd a s) :=
  h.exec_scalar h.after_onCore.after_advance

theorem StaysInForm.exec_rand {hd : Hdr} {d : WG} (h : StaysInForm s₀ s) : NextInForm s₀ (execRand hd d s) :=
  h.exec_scalar h.after_onCore.after_answer

theorem StaysInForm.exec_lturn {hd : Hdr} {d : WG} {a b : WGI} (h : StaysInForm s₀ s) : NextInForm s₀ (execLturn hd d a b s) := by
  refine h.exec_scalar ?_
  dsimp only
  split
  · exact h.with_links.after_answer
  · exact h.after_answer

theorem StaysInForm.exec_pwrreq {hd : Hdr} {d : WG} {a : WGI} (h : StaysInForm s₀ s) : NextInForm s₀ (execPwrreq hd d a s) :=
  h.exec_scalar (.ite h.after_answer.after_requestStep h.after_answer)

theorem StaysInForm.exec_railsel {hd : Hdr} {d : WG} {a b : WGI} (h : StaysInForm s₀ s) : NextInForm s₀ (execRailsel hd d a b s) :=
  h.exec_privOnly (.ite h.after_modCluster.after_answer h.after_answer)

theorem StaysInForm.exec_trmark {hd : Hdr} {a : WGI} (h : StaysInForm s₀ s) : NextInForm s₀ (execTrmark hd a s) :=
  h.exec_scalar (.ite h.after_traceRec.after_advance h.after_advance)

theorem StaysInForm.exec_bkpt {hd : Hdr} {a : BitVec 14} (h : StaysInForm s₀ s) : NextInForm s₀ (execBkpt hd a s) :=
  h.exec_scalar ((endsInForm_need (q := fun _ => True) trivial).bind fun _ _ => h.after_raiseTrap)

theorem StaysInForm.exec_eret {hd : Hdr} (h : StaysInForm s₀ s) : NextInForm s₀ (execEret hd s) :=
  StaysInForm.next (StaysInForm.ite (h.after_scalar (k := fun s => .ok (returnTrap s)) h.after_returnTrap) h.after_illegal)

theorem StaysInForm.exec_mcrd {hd : Hdr} {d : WG} {a : WGI} (h : StaysInForm s₀ s) : NextInForm s₀ (execMcrd hd d a s) :=
  h.exec_privOnly h.after_answer

theorem StaysInForm.exec_halt {hd : Hdr} (h : StaysInForm s₀ s) : NextInForm s₀ (execHalt hd s) :=
  h.exec_privOnly (h.after_returnTrap.ite h.after_endTask).after_onCore

theorem StaysInForm.exec_pinset {hd : Hdr} {idx : BitVec 6} {d a : WG} (h : StaysInForm s₀ s) : NextInForm s₀ (execPinset hd idx d a s) :=
  h.exec_privOnly (ownTarget_inForm.bind fun _ _ => (h.after_onCore.ite h).after_answer)

theorem StaysInForm.exec_dlyrd {hd : Hdr} {d : WG} {a : WGI} (h : StaysInForm s₀ s) : NextInForm s₀ (execDlyrd hd d a s) :=
  h.exec_scalar h.after_writeWG.after_answer

theorem StaysInForm.exec_dlyclr {hd : Hdr} {a : WGI} (h : StaysInForm s₀ s) : NextInForm s₀ (execDlyclr hd a s) :=
  h.exec_scalar h.after_onCore.after_advance

theorem StaysInForm.exec_csync {hd : Hdr} (h : StaysInForm s₀ s) : NextInForm s₀ (execCsync hd s) :=
  h.exec_scalar h.after_drainAll.after_onCore.after_advance

/-! ### Reset, and the start of tasks -/

theorem StaysInForm.after_resetDevice {fu : Fuses} (h : StaysInForm s₀ s) : StaysInForm s₀ (resetDevice s fu) :=
  ⟨fun hs => ⟨filter_wf (h.1 hs).1 _, (h.1 hs).2⟩, fun _ => ⟨List.nodup_singleton _, fun _ hp => nomatch hp⟩⟩

theorem StaysInForm.event_deviceReset (h : StaysInForm s₀ s) : NextInForm s₀ (execDeviceReset s) := by
  unfold execDeviceReset
  split
  · exact h.after_resetDevice.next
  · exact h.next

theorem StaysInForm.after_declareRings {k : Nat} {t : TaskInfo} {l : List (BitVec 128)} (h : StaysInForm s₀ s) :
    StaysInForm s₀ (declareRings s k t l).1 := by
  unfold declareRings
  dsimp only
  split
  · exact h
  · exact h.after_modCore

theorem StaysInForm.after_startAcquire {k : Nat} {t : TaskInfo} (h : StaysInForm s₀ s) : StaysInForm s₀ (startAcquire s k t) := by
  unfold startAcquire
  split
  · exact h.after_acquire.ite h
  · exact h.after_acquire.ite h

theorem StaysInForm.after_actRecord {k : Nat} (h : StaysInForm s₀ s) : StaysInForm s₀ (actRecord s k) := by
  unfold actRecord
  split
  · exact h
  · exact h.after_traceRec.ite h

theorem StaysInForm.after_startTask {k : Nat} {t : TaskInfo} (h : StaysInForm s₀ s) : StaysInForm s₀ (startTask s k t) := by
  unfold startTask
  dsimp only
  split
  · exact h.after_startAcquire.after_modCluster.after_declareRings.after_modCore.after_actRecord.after_faultLaunch
  · exact h.after_startAcquire.after_modCluster.after_declareRings.after_modCore.after_actRecord

theorem StaysInForm.after_startNext {k : Nat} (h : StaysInForm s₀ s) : StaysInForm s₀ (startNext s k) := by
  unfold startNext
  split
  · exact h.after_setCore.after_startTask
  · exact h

theorem StaysInForm.event_nextTaskChoice (h : StaysInForm s₀ s) : NextInForm s₀ (execNextTaskChoice s) := by
  unfold execNextTaskChoice
  split
  · refine StaysInForm.next ?_
    split
    · exact h
    · split
      · exact h.after_startNext
      · exact (h.foldl fun _ _ ht => ht.after_startNext.ite ht).ite h
  · exact h.next

theorem StaysInForm.event_steal (h : StaysInForm s₀ s) : NextInForm s₀ (execSteal s) := by
  unfold execSteal
  split
  · refine StaysInForm.next (StaysInForm.ite ?_ h)
    split
    · exact h.after_modCore.after_startTask
    · exact h
  · exact h.next

/-! ### Service tasks -/

theorem StaysInForm.after_spillWindow (h : StaysInForm s₀ s) : StaysInForm s₀ (spillWindow s) := by
  unfold spillWindow
  split
  · exact h
  · exact h.after_drainAll.after_memSetAll.after_onCore

theorem StaysInForm.after_fillWindow (h : StaysInForm s₀ s) : StaysInForm s₀ (fillWindow s) := h.after_onCore

theorem StaysInForm.after_enterService {r : SvcReq} {p : Pin} (h : StaysInForm s₀ s) : StaysInForm s₀ (enterService s r p) := by
  unfold enterService
  dsimp only
  split
  · exact h.after_machineCheck
  · exact (h.after_spillWindow.ite (h.after_fillWindow.ite h)).after_takeTrap

theorem StaysInForm.event_serviceTaskEntry (h : StaysInForm s₀ s) : NextInForm s₀ (execServiceTaskEntry s) := by
  unfold execServiceTaskEntry
  split
  · refine StaysInForm.next (StaysInForm.ite ?_ h)
    split
    · exact h
    · dsimp only
      split
      · exact h.after_modCore.after_modCluster.after_focus.after_enterService
      · exact h.after_modCore.after_modCluster.after_focus
  · exact h.next

theorem StaysInForm.event_stepWatchdogExpiry (h : StaysInForm s₀ s) : NextInForm s₀ (execStepWatchdogExpiry s) := by
  unfold execStepWatchdogExpiry
  split
  · refine StaysInForm.next ?_
    split
    · exact h.after_focus.after_raise.ite h
    · exact h
  · exact h.next

/-! ### Messages -/

theorem StaysInForm.after_dropCount {k : Nat} (h : StaysInForm s₀ s) : StaysInForm s₀ (dropCount s k) := h.after_modCore

theorem StaysInForm.after_putMsg {i : Nat} {m : NetMsg} (h : StaysInForm s₀ s) : StaysInForm s₀ (putMsg s i m) := h

theorem StaysInForm.after_enqueueHeader {k : Nat} {n : Chan} {ch : Channel} (h : StaysInForm s₀ s) :
    StaysInForm s₀ (enqueueHeader s k n ch) := h.after_modCore.after_rouse.after_countUp.ite h.after_modCore

theorem StaysInForm.after_acceptHeader {i : Nat} {m : NetMsg} {r : Route} (h : StaysInForm s₀ s) : StaysInForm s₀ (acceptHeader s i m r) :=
  h.after_modCore.after_putMsg.ite h.after_modCore.after_putMsg.after_enqueueHeader

theorem StaysInForm.after_headerArrives {i : Nat} {m : NetMsg} (h : StaysInForm s₀ s) : StaysInForm s₀ (headerArrives s i m) := by
  refine StaysInForm.ite h.with_network.after_noRoute ?_
  split
  · exact h.after_putMsg.after_dropCount
  · exact h.after_putMsg.after_dropCount.ite (h.ite h.after_acceptHeader)

theorem StaysInForm.event_messageHeaderArrival (h : StaysInForm s₀ s) : NextInForm s₀ (execMessageHeaderArrival s) := by
  unfold execMessageHeaderArrival
  split
  · refine StaysInForm.next ?_
    split
    · exact h.after_headerArrives.ite h
    · exact h
  · exact h.next

theorem StaysInForm.event_headerQueueEntry (h : StaysInForm s₀ s) : NextInForm s₀ (execHeaderQueueEntry s) := by
  unfold execHeaderQueueEntry
  split
  · refine StaysInForm.next ?_
    split
    · exact h.ite h.after_enqueueHeader
    · exact h
  · exact h.next

theorem StaysInForm.after_clampBeat {k n : Nat} {b : VReg} (h : StaysInForm s₀ s) : StaysInForm s₀ (clampBeat s k n b) := by
  unfold clampBeat
  split
  · exact h.after_dropCount
  · exact h.after_dropCount.ite h.after_wakeElement

theorem StaysInForm.after_beatEnters {k : Nat} {n : Chan} {hdr : MsgHdr} {b : VReg} (h : StaysInForm s₀ s) :
    StaysInForm s₀ (beatEnters s k n hdr b) := by
  unfold beatEnters
  split
  · exact h
  · dsimp only
    split
    · exact h.after_modCore.after_clampBeat.ite h.after_modCore
    · exact h.after_modCore

theorem StaysInForm.after_loseMessage {i : Nat} {m : NetMsg} (h : StaysInForm s₀ s) : StaysInForm s₀ (loseMessage s i m) := by
  refine StaysInForm.after_noRoute (StaysInForm.with_network ?_)
  split
  · exact h.after_modCore
  · exact h

theorem StaysInForm.event_messageBeatArrival (h : StaysInForm s₀ s) : NextInForm s₀ (execMessageBeatArrival s) := by
  unfold execMessageBeatArrival
  split
  · refine StaysInForm.next ?_
    split
    · refine h.after_loseMessage.ite ?_
      split
      · exact h.after_putMsg
      · exact h.after_putMsg.after_beatEnters.ite h
      · exact h
    · exact h
  · exact h.next

theorem StaysInForm.event_sendTailInjected (h : StaysInForm s₀ s) : NextInForm s₀ (execSendTailInjected s) := by
  unfold execSendTailInjected
  split
  · exact StaysInForm.next (h.after_modCore.ite h).with_free
  · exact h.next

/-! ### The memory system -/

theorem StaysInForm.event_storeBufferDrain (h : StaysInForm s₀ s) : NextInForm s₀ (execStoreBufferDrain s) := by
  unfold execStoreBufferDrain
  split
  · exact h.after_drainStep.next
  · exact h.next

theorem StaysInForm.event_memoryResponse (h : StaysInForm s₀ s) : NextInForm s₀ (execMemoryResponse s) := by
  unfold execMemoryResponse
  split
  · refine StaysInForm.next ?_
    split
    · exact h.after_modCore
    · exact h
  · exact h.next

theorem StaysInForm.after_setEntry {d : Nat} {e : DirEntry} (h : StaysInForm s₀ s) : StaysInForm s₀ (setEntry s d e) := h

theorem StaysInForm.after_dropLines {l : List Nat} {line : Nat} (h : StaysInForm s₀ s) : StaysInForm s₀ (dropLines s l line) :=
  h.foldl fun _ _ ht => ht.after_dropLine

theorem StaysInForm.after_makeRoom {d line : Nat} (h : StaysInForm s₀ s) : StaysInForm s₀ (makeRoom s d line) := by
  refine h.ite ?_
  split
  · exact h
  · exact h.with_free.after_dropLines.after_dropEntry

theorem StaysInForm.after_takeExclusive {d : Nat} {r : DirReq} (h : StaysInForm s₀ s) : StaysInForm s₀ (takeExclusive s d r) := by
  refine StaysInForm.after_setEntry ?_
  split
  · exact h.after_makeRoom
  · exact h.after_dropLines.after_dropEntry

theorem StaysInForm.after_toShared {k line : Nat} (h : StaysInForm s₀ s) : StaysInForm s₀ (toShared s k line) := h.after_modCore

theorem StaysInForm.after_addMask {k list : Nat} {l : List Nat} (h : StaysInForm s₀ s) : StaysInForm s₀ (addMask s k list l) := h.after_modMask

theorem StaysInForm.after_afterOverflow {d : Nat} {e : DirEntry} {r : DirReq} (h : StaysInForm s₀ s) : StaysInForm s₀ (afterOverflow s d e r) := by
  unfold afterOverflow
  dsimp only
  split
  · exact h.after_addMask.after_setEntry
  · exact h.after_setEntry

/-- What serving a request at a directory leaves has the forms of `s₀`. -/
def ServedInForm (s₀ : State) : Served → Prop
  | .done t => StaysInForm s₀ t
  | .raised t => StaysInForm s₀ t
  | .stays => True

theorem ServedInForm.ite {c : Prop} [Decidable c] {x y : Served} (hx : ServedInForm s₀ x) (hy : ServedInForm s₀ y) :
    ServedInForm s₀ (if c then x else y) := by
  split
  · exact hx
  · exact hy

theorem StaysInForm.after_addSharer {d : Nat} {r : DirReq} (h : StaysInForm s₀ s) : ServedInForm s₀ (addSharer s d r) := by
  unfold addSharer
  dsimp only
  split
  · exact h.after_makeRoom.after_setEntry
  · refine .ite h.after_addMask (.ite h (.ite (StaysInForm.foldl h fun _ _ ht => ht.after_toShared).after_setEntry (.ite h.after_afterOverflow ?_)))
    split
    · exact h.after_setEntry
    · exact .ite h.after_modCore.after_rouse trivial

theorem StaysInForm.with_dirReqs {l : Vector (List DirReq) 4} (h : StaysInForm s₀ s) : StaysInForm s₀ { s with dirReqs := l } := h

theorem StaysInForm.event_directoryRequest (h : StaysInForm s₀ s) : NextInForm s₀ (execDirectoryRequest s) := by
  unfold execDirectoryRequest
  split
  · refine StaysInForm.next ?_
    split
    · exact h
    · split
      · exact h
      · refine h.after_takeExclusive.with_dirReqs.ite ?_
        split
        · next he => exact (he ▸ h.after_addSharer : ServedInForm s₀ (.done _))
        · next he => exact (he ▸ h.after_addSharer : ServedInForm s₀ (.raised _))
        · exact h
  · exact h.next

theorem StaysInForm.event_l1Eviction (h : StaysInForm s₀ s) : NextInForm s₀ (execL1Eviction s) := by
  unfold execL1Eviction
  split
  · exact StaysInForm.next (h.after_evictLine.ite h)
  · exact h.next

theorem StaysInForm.after_walkedPrefetch {w : Walk} (h : StaysInForm s₀ s) : StaysInForm s₀ (walkedPrefetch s w) := by
  unfold walkedPrefetch
  split
  · exact h
  · exact h.ite h.after_keepTlb.after_focus.after_prefetchAs

theorem StaysInForm.event_translationWalkComplete (h : StaysInForm s₀ s) : NextInForm s₀ (execTranslationWalkComplete s) := by
  unfold execTranslationWalkComplete
  split
  · refine StaysInForm.next ?_
    split
    · exact h
    · exact h.with_walks.ite h.with_walks.after_walkedPrefetch
  · exact h.next

theorem StaysInForm.after_dropTlbs {p : Tlb → Bool} (h : StaysInForm s₀ s) : StaysInForm s₀ (dropTlbs s p) :=
  StaysInForm.of_eq (s := mapCores s fun c => { c with tlb := c.tlb.filter fun t => !(p t) }) h.after_mapCores

theorem StaysInForm.after_drainEvery (h : StaysInForm s₀ s) : StaysInForm s₀ (drainEvery s) := h.foldl fun _ _ ht => ht.after_drainAll

theorem StaysInForm.event_tlbInvalidationComplete (h : StaysInForm s₀ s) : NextInForm s₀ (execTlbInvalidationComplete s) := by
  unfold execTlbInvalidationComplete
  split
  · refine StaysInForm.next ?_
    split
    · exact h.ite h.after_drainEvery.after_dropTlbs.after_modCore
    · exact h
    · exact h
  · exact h.next

end Sys2Proof.Machine.FormLaws
end

section
/-!
The forms through the events of the engines, the watch unit, retirement and the graph walkers.
-/
set_option Elab.async false
namespace Sys2Proof.Machine.FormLaws

variable {s₀ s : State}

/-! ### The vector queue's turn -/

theorem StaysInForm.after_vecStart {e : VecCmd} {t : VecTodo} (h : StaysInForm s₀ s) : StaysInForm s₀ (vecStart s e t) :=
  h.after_onCore.after_countDown

theorem StaysInForm.after_vecEnd {u : State} {before after : List VecCmd} {e : VecCmd} {t : VecTodo} (h : StaysInForm s₀ u) :
    StaysInForm s₀ (vecEnd s u before e t after) := by
  unfold vecEnd
  dsimp only
  split
  · exact h.after_countDown.after_onCore.ite h.after_onCore
  · exact h.after_countUp.after_onCore
  · exact h.after_onCore.after_onCore.ite h.after_onCore

/-! ### The checks of a copy that starts -/

theorem checkPages_inForm {w : Acc} {write : Bool} {n a len : Nat} : EndsInForm s₀ (fun _ => True) (checkPages s w write n a len) := by
  induction n generalizing a len with
  | zero => trivial
  | succ n ih =>
    refine .ite trivial ?_
    dsimp only
    split
    · trivial
    · exact ih

theorem checkRange_inForm {w : Acc} {a : Word} {n : Nat} {write : Bool} : EndsInForm s₀ (fun _ => True) (checkRange s w a n write) := by
  fun_cases checkRange s w a n write
  case case1 he => exact checkWindow_inForm.error he
  case case2 => exact checkPages_inForm
  case case4 he => exact peerStop_inForm he
  all_goals trivial

theorem arrivalAt_inForm {w : Acc} {aw : BitVec 24} : EndsInForm s₀ (fun _ => True) (arrivalAt s w aw) := by
  refine .ite trivial (.ite trivial ?_)
  dsimp only
  split
  · next he => exact peerStop_inForm he
  · trivial

theorem checkAll_inForm {l : List (Eff Unit)} (hl : ∀ x ∈ l, EndsInForm s₀ (fun _ => True) x) : EndsInForm s₀ (fun _ => True) (checkAll l) := by
  induction l with
  | nil => trivial
  | cons x r ih =>
    cases x with
    | error e => exact hl _ List.mem_cons_self
    | ok u => exact ih fun y hy => hl y (List.mem_cons_of_mem _ hy)

theorem checkRow_inForm {w : Acc} {c : Copy} {i : Nat} : ∀ x ∈ checkRow s w c i, EndsInForm s₀ (fun _ => True) x := by
  intro x hx
  obtain ⟨a, n, b, rfl⟩ : ∃ a n b, x = checkRange s w a n b := by
    unfold checkRow at hx
    grind
  exact checkRange_inForm

theorem checkCast_inForm {c : Copy} : EndsInForm s₀ (fun _ => True) (checkCast c) := by
  fun_cases checkCast c <;> trivial

theorem StaysInForm.after_readList {w : Acc} {c : Copy} (h : StaysInForm s₀ s) : EndsInForm s₀ (fun _ => True) (readList s w c) :=
  h.after_unitRead.bind fun _ _ => trivial

theorem StaysInForm.after_startCopy {c : Copy} (h : StaysInForm s₀ s) : EndsInForm s₀ (fun _ => True) (startCopy s c) := by
  refine (endsInForm_need (q := fun _ => True) trivial).bind fun _ _ => checkCast_inForm.bind fun _ _ =>
    (endsInForm_need (q := fun _ => True) trivial).bind fun _ _ => .ite trivial ?_
  refine (checkAll_inForm fun x hx => ?arrivals).bind fun _ _ => ?moved
  case arrivals =>
    split at hx
    · obtain ⟨a, _, rfl⟩ := List.mem_map.1 hx
      exact arrivalAt_inForm.map fun _ _ => trivial
    · cases hx
  case moved =>
    have rows : ∀ c' : Copy, EndsInForm s₀ (fun _ => True) (checkAll ((List.range (cpRows c')).flatMap fun i =>
        checkRow s (engineAcc s c.rcd) c' i)) := fun c' => checkAll_inForm fun x hx => by
      obtain ⟨i, _, hx⟩ := List.mem_flatMap.1 hx
      exact checkRow_inForm x hx
    have rest : EndsInForm s₀ (fun _ => True) (if c.kind = .cpyg then do
          let list ← readList s (engineAcc s c.rcd) c
          checkAll ((List.range (cpRows { c with index := list })).flatMap fun i => checkRow s (engineAcc s c.rcd) { c with index := list } i)
          .ok { c with index := list }
        else do
          checkAll ((List.range (cpRows { c with index := [] })).flatMap fun i => checkRow s (engineAcc s c.rcd) { c with index := [] } i)
          .ok { c with index := [] }) :=
      .ite (h.after_readList.bind fun _ _ => (rows _).bind fun _ _ => trivial) ((rows _).bind fun _ _ => trivial)
    dsimp only
    split
    · exact (endsInForm_need (q := fun _ => True) trivial).bind fun _ _ => rest
    · exact rest

/-! ### Engines -/

theorem StaysInForm.after_unitStop {w : Word → Waiter} {fault : State → FCode → Word → State} {e : Stop} (h : StaysInForm s₀ s)
    (he : StopsInForm s₀ e) (hf : ∀ t c a, StaysInForm s₀ t → StaysInForm s₀ (fault t c a)) : StaysInForm s₀ (unitStop s w fault e) := by
  induction e generalizing s with
  | after t x ih => exact ih he.1 he.2
  | fault c a => exact hf _ _ _ h
  | wait => exact h
  | cold m => exact h.after_askFetch
  | asleep ch => exact h.after_askChannel

theorem StaysInForm.event_vectorCmdTake (h : StaysInForm s₀ s) : NextInForm s₀ (execVectorCmdTake s) := by
  unfold execVectorCmdTake
  split
  · refine StaysInForm.next ?_
    split
    · exact h
    · exact h.ite (h.with_agenda.ite h.after_modCore.after_countDown)
  · exact h.next

theorem StaysInForm.after_beginMatrix {k : Nat} (h : StaysInForm s₀ s) : StaysInForm s₀ (beginMatrix s k) := h.after_drainAll.after_modCore

theorem StaysInForm.after_startGang {x : MatrixCmd} {ta tb : Ty} (h : StaysInForm s₀ s) : StaysInForm s₀ (startGang s x ta tb) := by
  unfold startGang
  dsimp only
  split
  · exact h.after_raiseEngine
  · refine h.after_raiseEngine.ite (StaysInForm.ite ?_ h)
    split
    · exact h.after_raiseEngine
    · exact h.foldl fun _ _ ht => ht.after_beginMatrix

theorem StaysInForm.event_matrixCmdStart (h : StaysInForm s₀ s) : NextInForm s₀ (execMatrixCmdStart s) := by
  unfold execMatrixCmdStart
  split
  · refine StaysInForm.next ?_
    split
    · exact h
    · split
      · exact h.after_startGang
      · exact h.after_beginMatrix
  · exact h.next

theorem StaysInForm.event_matrixCmdComplete (h : StaysInForm s₀ s) : NextInForm s₀ (execMatrixCmdComplete s) := by
  unfold execMatrixCmdComplete
  split
  · refine StaysInForm.next ?_
    split
    · exact h
    · next k _ _ _ _ =>
      have h1 : StaysInForm s₀ (finishMatrix s k).1 := h.after_finishMatrix
      refine h.ite ?_
      split
      · next he => exact (he ▸ h1 :)
      · next he => exact StaysInForm.after_raiseEngine (he ▸ h1 :)
  · exact h.next

theorem StaysInForm.event_copyCmdAccept (h : StaysInForm s₀ s) : NextInForm s₀ (execCopyCmdAccept s) := by
  unfold execCopyCmdAccept
  split
  · dsimp only
    refine StaysInForm.next ?_
    split
    · exact h
    · refine h.ite ?_
      split
      · exact h.after_drainAll.after_modCore.after_copyGone.ite h.after_drainAll.after_modCore.after_modCore
      · next he =>
        exact h.after_unitStop (h.after_drainAll.after_modCore.after_startCopy.error he) fun _ _ _ _ =>
          h.after_drainAll.after_modCore.after_raiseEngine
  · exact h.next

theorem StaysInForm.event_copyBeatComplete (h : StaysInForm s₀ s) : NextInForm s₀ (execCopyBeatComplete s) := by
  unfold execCopyBeatComplete
  split
  · next k i beat _ =>
    refine StaysInForm.next ?_
    split
    · exact h
    · next c _ =>
      have hr : EndsInForm s₀ (StaysInForm s₀) (if beat / 2 ^ 32 = 0 then finishBeat s k i c (pickBeat c (beat % 2 ^ 32))
          else landBytes s k i c (pickBeat c (beat % 2 ^ 32)) fun j _ => (beat / 2 ^ 32).testBit j) :=
        .ite h.after_finishBeat h.after_landBytes
      refine h.ite ?_
      dsimp only
      split
      · next he => exact hr.ok he
      · next he => exact h.after_unitStop (hr.error he) fun _ _ _ ht => ht.after_raiseEngine
  · exact h.next

theorem StaysInForm.event_copyComplete (h : StaysInForm s₀ s) : NextInForm s₀ (execCopyComplete s) := by
  unfold execCopyComplete
  split
  · refine StaysInForm.next ?_
    split
    · exact h
    · exact h.after_modCore.after_copyGone.ite h
  · exact h.next

theorem GivesInForm.ok {ε : Type} {x : Except ε State} {t : State} (hx : GivesInForm s₀ x) (he : x = .ok t) : StaysInForm s₀ t := hx t he

theorem StaysInForm.event_rakeCmdTake (h : StaysInForm s₀ s) : NextInForm s₀ (execRakeCmdTake s) := by
  unfold execRakeCmdTake
  split
  · dsimp only
    refine StaysInForm.next ?_
    split
    · refine h.ite ?_
      split
      · next he => exact (h.after_drainAll.after_modCore.after_performDecl.ok he).after_countDown
      · exact h.after_drainAll.after_modCore.after_raiseEngine
    · refine h.ite ?_
      split
      · next he => exact h.after_drainAll.after_modCore.after_performSweep.ok he
      · exact h.after_drainAll.after_modCore.after_raiseEngine
    · exact h
  · exact h.next

theorem StaysInForm.event_rakeBeatSample (h : StaysInForm s₀ s) : NextInForm s₀ (execRakeBeatSample s) := by
  unfold execRakeBeatSample
  split
  · exact StaysInForm.next (h.after_sampleBeat.ite h)
  · exact h.next

theorem StaysInForm.event_rakeSweepEnd (h : StaysInForm s₀ s) : NextInForm s₀ (execRakeSweepEnd s) := by
  unfold execRakeSweepEnd
  split
  · exact StaysInForm.next (h.after_endSweep.ite h)
  · exact h.next

/-! ### The watch unit, retirement -/

theorem StaysInForm.event_watchUnitCommit (h : StaysInForm s₀ s) : NextInForm s₀ (execWatchUnitCommit s) := by
  unfold execWatchUnitCommit
  split
  · refine StaysInForm.next ?_
    split
    · exact h
    · next r _ _ =>
      have hr : EndsInForm s₀ (fun x => StaysInForm s₀ x.2) (serveWatch s r false) := h.after_serveWatch
      dsimp only
      split
      · next he => exact StaysInForm.after_handResult (StaysInForm.with_hub (hr.ok he))
      · next he => exact h.after_unitStop (hr.error he) fun _ _ _ ht => StaysInForm.after_handResult ht.with_hub
  · exact h.next

theorem StaysInForm.after_retireWork {ctx : CtxId} {lvl : Level} {n : BitVec 32} (h : StaysInForm s₀ s) :
    StaysInForm s₀ (retireWork s ctx lvl n) := by
  fun_cases retireWork s ctx lvl n
  case case2 => exact h.after_retireLaunch
  case case5 => exact h.after_retireGraph
  case case9 => exact h.after_modCtx.after_modQueue
  all_goals exact h

theorem StaysInForm.event_workRetire (h : StaysInForm s₀ s) : NextInForm s₀ (execWorkRetire s) := by
  unfold execWorkRetire
  split
  · exact h.after_retireWork.next
  · exact h.next

/-! ### Launch bundles -/

/-- What reads a bundle's packets keeps the forms. -/
def PacketsInForm (s₀ : State) (packet : State → Nat → Eff (Nat × State)) : Prop :=
  ∀ s n, StaysInForm s₀ s → EndsInForm s₀ (fun r => StaysInForm s₀ r.2) (packet s n)

theorem StaysInForm.after_readRest {rd : Reader} {packet : State → Nat → Eff (Nat × State)} {queued : Bool} {target n i : Nat}
    {acc : Option (List SubLaunch)} (h : StaysInForm s₀ s) (hrd : ReadsInForm s₀ rd) (hp : PacketsInForm s₀ packet) :
    EndsInForm s₀ (fun r => StaysInForm s₀ r.2) (readRest rd packet queued target n i s acc) := by
  induction n generalizing s i acc with
  | zero => exact h
  | succ n ih =>
    exact (hp _ _ h).bind fun _ h1 => .ite (ih h1) ((h1.after_readBlocks hrd).bind fun _ h2 => ih h2)

theorem StaysInForm.after_readBundle {rd : Reader} {packet : State → Nat → Eff (Nat × State)} {queued : Bool} (h : StaysInForm s₀ s)
    (hrd : ReadsInForm s₀ rd) (hp : PacketsInForm s₀ packet) :
    EndsInForm s₀ (fun r => StaysInForm s₀ r.2) (readBundle rd queued packet s) :=
  (hp _ _ h).bind fun _ h1 => (h1.after_readBlocks hrd).bind fun _ h2 => (h2.after_readRest hrd hp).bind fun _ h3 => h3

/-! ### Graph walkers -/

theorem StaysInForm.after_finishGraph {g : Graph} {st : BitVec 2} {status : BitVec 16} (h : StaysInForm s₀ s) :
    StaysInForm s₀ (finishGraph s g st status) := h.after_modGraph

theorem StaysInForm.after_freshWord (h : StaysInForm s₀ s) : StaysInForm s₀ (freshWord s).2 := h

theorem StaysInForm.after_faultGraph {g : Graph} {c : FCode} {a : Word} (h : StaysInForm s₀ s) : StaysInForm s₀ (faultGraph s g c a) :=
  h.after_freshWord.after_freshWord.after_appendRecord.after_finishGraph

theorem StaysInForm.after_goNode {g : Graph} {n : Nat} (h : StaysInForm s₀ s) : StaysInForm s₀ (goNode s g n) :=
  h.after_faultGraph.ite h.after_modGraph

/-- What a node does keeps the forms. -/
def NodesInForm (s₀ : State) (f : State → Graph → Nat → Eff State) : Prop :=
  ∀ s g x, StaysInForm s₀ s → EndsInForm s₀ (StaysInForm s₀) (f s g x)

theorem StaysInForm.after_runNode {g : Graph} {x : Nat} {f : State → Graph → Nat → Eff State} (h : StaysInForm s₀ s)
    (hf : NodesInForm s₀ f) : StaysInForm s₀ (runNode s g x f) := by
  unfold runNode
  split
  · next he => exact (hf _ _ _ h).ok he
  · next he => exact h.after_unitStop ((hf _ _ _ h).error he) fun _ _ _ ht => ht.after_faultGraph

theorem StaysInForm.after_walkNode {w i kind : Nat} {f : State → Graph → Nat → Eff State} (h : StaysInForm s₀ s)
    (hf : NodesInForm s₀ f) : StaysInForm s₀ (walkNode s w i kind f) := by
  unfold walkNode
  split
  · exact h
  · split
    · exact (h.after_runNode hf).ite h
    · split
      · next he => exact h.after_unitStop ((hubReader_inForm _ _ _ h).error he) fun _ _ _ ht => ht.after_faultGraph
      · next he =>
        have h1 := (hubReader_inForm _ _ _ h).ok he
        exact h1.after_faultGraph.ite (h.ite (h1.after_modGraph.after_runNode hf))

theorem StaysInForm.after_afterLaunches {g : Graph} {k : State → Eff State} (h : StaysInForm s₀ s)
    (hk : EndsInForm s₀ (StaysInForm s₀) (k s)) : EndsInForm s₀ (StaysInForm s₀) (afterLaunches s g k) := by
  refine .ite h ?_
  split
  · exact h.after_finishGraph
  · exact hk

theorem StaysInForm.after_enterNode {g : Graph} {x : Nat} {l : List SubLaunch} (h : StaysInForm s₀ s) : StaysInForm s₀ (enterNode s g x l) :=
  h.ite h.after_enterLaunch.after_goNode

theorem launchNode_inForm : NodesInForm s₀ launchNode := by
  intro s g x h
  unfold launchNode
  split
  · exact h.after_enterNode
  · refine (h.after_readBundle hubReader_inForm fun t n ht => hubReader_inForm _ _ _ ht).bind fun _ h1 => ?_
    dsimp only
    split
    · exact h1.after_modGraph.after_enterNode
    · exact h1.after_faultGraph.after_addGuilt

theorem StaysInForm.after_condition {g : Graph} {x : Nat} (h : StaysInForm s₀ s) :
    EndsInForm s₀ (fun r => StaysInForm s₀ r.2) (condition s g x) := h.after_hubRead.bind fun _ h1 => h1

theorem condNode_inForm : NodesInForm s₀ condNode := fun _ _ _ h =>
  h.after_afterLaunches (h.after_condition.bind fun _ h1 => h1.after_goNode)

theorem whileNode_inForm : NodesInForm s₀ whileNode := fun _ _ _ h =>
  h.after_afterLaunches (h.after_condition.bind fun _ h1 => .ite h1.after_goNode (.ite h1.after_finishGraph h1.after_modGraph.after_goNode))

theorem joinNode_inForm : NodesInForm s₀ fun s g x => afterLaunches s g fun s => .ok (goNode s g (ndNext x)) := fun _ _ _ h =>
  h.after_afterLaunches h.after_goNode

theorem endNode_inForm : NodesInForm s₀ fun s g _ => afterLaunches s g fun s => .ok (finishGraph s g 2 0) := fun _ _ _ h =>
  h.after_afterLaunches h.after_finishGraph

theorem StaysInForm.event_graphLaunchNode (h : StaysInForm s₀ s) : NextInForm s₀ (execGraphLaunchNode s) := by
  unfold execGraphLaunchNode
  split
  · exact (h.after_walkNode launchNode_inForm).next
  · exact h.next

theorem StaysInForm.event_graphCondNode (h : StaysInForm s₀ s) : NextInForm s₀ (execGraphCondNode s) := by
  unfold execGraphCondNode
  split
  · exact (h.after_walkNode condNode_inForm).next
  · exact h.next

theorem StaysInForm.event_graphWhileNode (h : StaysInForm s₀ s) : NextInForm s₀ (execGraphWhileNode s) := by
  unfold execGraphWhileNode
  split
  · exact (h.after_walkNode whileNode_inForm).next
  · exact h.next

theorem StaysInForm.event_graphJoinallNode (h : StaysInForm s₀ s) : NextInForm s₀ (execGraphJoinallNode s) := by
  unfold execGraphJoinallNode
  split
  · exact (h.after_walkNode joinNode_inForm).next
  · exact h.next

theorem StaysInForm.event_graphEndNode (h : StaysInForm s₀ s) : NextInForm s₀ (execGraphEndNode s) := by
  unfold execGraphEndNode
  split
  · exact (h.after_walkNode endNode_inForm).next
  · exact h.next

theorem StaysInForm.event_graphNodeRetry (h : StaysInForm s₀ s) : NextInForm s₀ (execGraphNodeRetry s) := by
  unfold execGraphNodeRetry
  split
  · exact (h.after_walkNode launchNode_inForm).next
  · exact h.next

end Sys2Proof.Machine.FormLaws
end

section
/-!
The forms through the schedulers, the cuts and the power events (EvSchedule, EvCut, EvPower).
-/
set_option Elab.async false
namespace Sys2Proof.Machine.FormLaws

variable {s₀ s : State}

/-! ### Operations that may find nothing to do -/

theorem AnyInForm.or {x y : Option State} (hx : AnyInForm s₀ x) (hy : AnyInForm s₀ y) : AnyInForm s₀ (x.or y) := by
  cases x with
  | none => exact hy
  | some t => exact hx

theorem AnyInForm.map {x : Option State} {f : State → State} (hx : AnyInForm s₀ x) (hf : ∀ t, StaysInForm s₀ t → StaysInForm s₀ (f t)) :
    AnyInForm s₀ (x.map f) := by
  cases x with
  | none => exact anyInForm_none
  | some t => exact anyInForm_some (hf t (hx t rfl))

theorem AnyInForm.bind {x : Option State} {f : State → Option State} (hx : AnyInForm s₀ x) (hf : ∀ t, StaysInForm s₀ t → AnyInForm s₀ (f t)) :
    AnyInForm s₀ (x.bind f) := by
  cases x with
  | none => exact anyInForm_none
  | some t => exact hf t (hx t rfl)

theorem anyInForm_bind {α : Type} {x : Option α} {f : α → Option State} (hf : ∀ a, AnyInForm s₀ (f a)) : AnyInForm s₀ (x.bind f) := by
  cases x with
  | none => exact anyInForm_none
  | some a => exact hf a

theorem anyInForm_map {α : Type} {x : Option α} {f : α → State} (hf : ∀ a, StaysInForm s₀ (f a)) : AnyInForm s₀ (x.map f) := by
  cases x with
  | none => exact anyInForm_none
  | some a => exact anyInForm_some (hf a)

theorem anyInForm_findSome {α : Type} {l : List α} {f : α → Option State} (hf : ∀ a, AnyInForm s₀ (f a)) : AnyInForm s₀ (l.findSome? f) := by
  intro t ht
  obtain ⟨a, _, ha⟩ := List.exists_of_findSome?_eq_some ht
  exact hf a t ha

theorem AnyInForm.ite {c : Prop} [Decidable c] {x y : Option State} (hx : AnyInForm s₀ x) (hy : AnyInForm s₀ y) :
    AnyInForm s₀ (if c then x else y) := by
  split
  · exact hx
  · exact hy

/-! ### Reservations and placement -/

theorem StaysInForm.after_modEntry {st : Nat} {e : Pend} {f : Pend → Pend} (h : StaysInForm s₀ s) : StaysInForm s₀ (modEntry s st e f) := h

theorem StaysInForm.after_unreserve {st : Nat} {e : Pend} (h : StaysInForm s₀ s) : StaysInForm s₀ (unreserve s st e) :=
  h.after_mapCores fun c => by split <;> rfl

theorem StaysInForm.after_settleHead {st : Nat} (h : StaysInForm s₀ s) : StaysInForm s₀ (settleHead s st) :=
  h.foldl fun _ _ ht => ht.after_unreserve.after_modEntry

theorem StaysInForm.event_priorityAging (h : StaysInForm s₀ s) : NextInForm s₀ (execPriorityAging s) := by
  unfold execPriorityAging
  split
  · refine StaysInForm.next ?_
    split
    · exact h.after_modEntry.after_settleHead
    · exact h
  · exact h.next

theorem StaysInForm.after_handOver {k : Nat} {ctx : CtxId} (h : StaysInForm s₀ s) : StaysInForm s₀ (handOver s k ctx) :=
  h.ite h.after_passOn.after_modCore

theorem StaysInForm.after_placeOnCluster {c : Nat} (h : StaysInForm s₀ s) : StaysInForm s₀ (placeOnCluster s c) :=
  h.after_modCluster.after_rouse

theorem StaysInForm.after_placeOne {k : Nat} {t : TaskInfo} (h : StaysInForm s₀ s) : StaysInForm s₀ (placeOne s k t) :=
  h.after_handOver.after_placeOnCluster.after_modCore.after_countUp

theorem StaysInForm.with_serial {n : Nat} (h : StaysInForm s₀ s) : StaysInForm s₀ { s with serial := n } := h

theorem StaysInForm.after_notePlaced {e : Pend} (h : StaysInForm s₀ s) : StaysInForm s₀ (notePlaced s e) := h.after_modLaunch.with_serial

theorem StaysInForm.after_placeNext {l : Launch} {i : Nat} {x : SubLaunch} {base : Nat} (h : StaysInForm s₀ s) :
    StaysInForm s₀ (placeNext s l i x base) :=
  StaysInForm.with_serial (h.foldl fun _ _ ht => ht.after_placeOne).after_modLaunch

theorem StaysInForm.after_tryUnit {st : Nat} {e : Pend} {i : Nat} {ok : State → Nat → Nat → Bool} (h : StaysInForm s₀ s) :
    AnyInForm s₀ (tryUnit s st e i ok) := anyInForm_map fun _ => h.after_placeNext

theorem StaysInForm.after_tryStart {st : Nat} {e : Pend} {ok : State → Nat → Nat → Bool} {l : Launch} (h : StaysInForm s₀ s) :
    AnyInForm s₀ (tryStart s st e ok l) := by
  have all : ∀ (m : List Nat) (x : Option State), AnyInForm s₀ x →
      AnyInForm s₀ (m.foldl (fun acc i => acc.bind fun t => tryUnit t st e i ok) x) := by
    intro m
    induction m with
    | nil => exact fun _ hx => hx
    | cons i r ih => exact fun x hx => ih _ (hx.bind fun _ ht => ht.after_tryUnit)
  exact all _ _ (anyInForm_some h)

theorem StaysInForm.after_resumeOn {base : Nat} {i : Image} (h : StaysInForm s₀ s) : StaysInForm s₀ (resumeOn s base i) :=
  (h.ite h.after_passOn).after_modCore.after_placeOnCluster.after_resumeImage

theorem StaysInForm.after_trySaved {st : Nat} {e : Pend} {pick : Image → Bool} {ok : State → Nat → Nat → Bool} (h : StaysInForm s₀ s) :
    AnyInForm s₀ (trySaved s st e pick ok) := by
  unfold trySaved
  dsimp only
  split
  · split
    · exact anyInForm_none
    · exact anyInForm_some (h.after_modEntry.foldl fun _ _ ht => ht.after_resumeOn).after_modLaunch
  · exact anyInForm_none

theorem StaysInForm.after_leaveIfPlaced {st : Nat} {e : Pend} (h : StaysInForm s₀ s) : StaysInForm s₀ (leaveIfPlaced s st e) :=
  h.ite h.after_dropPending.after_unreserve

theorem StaysInForm.after_placedFor {st : Nat} {e : Pend} (h : StaysInForm s₀ s) : StaysInForm s₀ (placedFor st e s) :=
  (h.ite h.after_unreserve).after_notePlaced.after_leaveIfPlaced

theorem StaysInForm.after_begun {st : Nat} {e : Pend} {l : Launch} (h : StaysInForm s₀ s) : StaysInForm s₀ (begun s st e l) :=
  h.after_modEntry.after_journalStart

theorem StaysInForm.after_tryEntry {st : Nat} {e : Pend} {ok : State → Nat → Nat → Bool} (h : StaysInForm s₀ s) :
    AnyInForm s₀ (tryEntry s st e ok) := by
  refine .ite (h.after_trySaved.map fun _ ht => ht.after_placedFor) ?_
  split
  · exact anyInForm_none
  · exact .ite ((anyInForm_findSome fun _ => h.after_tryUnit).map fun _ ht => ht.after_placedFor)
      (h.after_tryStart.map fun _ ht => ht.after_begun.after_placedFor)

theorem StaysInForm.after_tryLargest {st : Nat} {e : Pend} (h : StaysInForm s₀ s) : AnyInForm s₀ (tryLargest s st e) :=
  anyInForm_bind fun _ => anyInForm_bind fun _ => (h.after_trySaved.or (anyInForm_findSome fun _ => h.after_tryUnit)).map
    fun _ ht => ht.after_placedFor

theorem StaysInForm.after_tryRest {st n : Nat} {e : Pend} (h : StaysInForm s₀ s) : AnyInForm s₀ (tryRest s st e n) := by
  induction n generalizing s with
  | zero => exact anyInForm_none
  | succ n ih =>
    unfold tryRest
    split
    · exact anyInForm_some h
    · exact .ite (h.after_tryLargest.bind fun _ ht => ih ht) (anyInForm_some h)

theorem StaysInForm.after_tryWhole {st : Nat} {e : Pend} (h : StaysInForm s₀ s) : AnyInForm s₀ (tryWhole s st e) :=
  anyInForm_bind fun _ => (h.ite h.after_begun).after_tryRest

theorem StaysInForm.after_preempt {st : Nat} {e : Pend} (h : StaysInForm s₀ s) : AnyInForm s₀ (preempt s st e) := by
  refine .ite anyInForm_none ?_
  split
  · exact anyInForm_none
  · exact .ite anyInForm_none (anyInForm_some (h.foldl fun _ _ ht => ht.after_holdEntry).after_startCut)

theorem StaysInForm.after_serveOthers {st headUs : Nat} (h : StaysInForm s₀ s) : AnyInForm s₀ (serveOthers s st headUs) := by
  unfold serveOthers
  split
  · exact anyInForm_none
  · refine anyInForm_findSome fun e => .ite h.after_tryEntry ?_
    split
    · exact .ite h.after_tryWhole anyInForm_none
    · exact anyInForm_none

theorem StaysInForm.after_passStep {st headUs : Nat} (h : StaysInForm s₀ s) : AnyInForm s₀ (passStep s st headUs) :=
  (((anyInForm_findSome fun _ => h.after_tryEntry).or (anyInForm_findSome fun _ => h.after_preempt)).or
    (anyInForm_bind fun _ => h.after_tryEntry)).or h.after_serveOthers

theorem StaysInForm.after_passN {st headUs n : Nat} (h : StaysInForm s₀ s) : StaysInForm s₀ (passN s st headUs n) := by
  induction n generalizing s with
  | zero => exact h
  | succ n ih =>
    unfold passN
    split
    · next he => exact ih (h.after_passStep _ he).after_settleHead
    · exact h

theorem StaysInForm.after_restVictims {l : List (CtxId × Lid)} (h : StaysInForm s₀ s) : StaysInForm s₀ (restVictims s l) := h

theorem StaysInForm.after_reserveFreed {st : Nat} (h : StaysInForm s₀ s) : StaysInForm s₀ (reserveFreed s st) := by
  unfold reserveFreed
  split
  · exact h
  · exact (h.foldl fun _ _ ht => ht.after_modCore).ite h

theorem StaysInForm.after_noteIdle {st : Nat} (h : StaysInForm s₀ s) : StaysInForm s₀ (noteIdle s st) := by
  unfold noteIdle
  split
  · exact h
  · exact h.after_modEntry.ite h

theorem StaysInForm.event_schedulingPass (h : StaysInForm s₀ s) : NextInForm s₀ (execSchedulingPass s) := by
  unfold execSchedulingPass
  split
  · exact StaysInForm.next (h.ite h.after_restVictims.after_settleHead.after_reserveFreed.after_passN.after_noteIdle)
  · exact h.next

theorem StaysInForm.event_localMemoryClearDone (h : StaysInForm s₀ s) : NextInForm s₀ (execLocalMemoryClearDone s) := by
  unfold execLocalMemoryClearDone
  split
  · exact StaysInForm.next (h.after_memClear.after_modCore.ite h)
  · exact h.next

theorem StaysInForm.after_reserveGangs {st g n : Nat} {e : Pend} (h : StaysInForm s₀ s) : StaysInForm s₀ (reserveGangs s st e g n) := by
  induction n generalizing s with
  | zero => exact h
  | succ n ih =>
    unfold reserveGangs
    split
    · exact h
    · exact ih (h.foldl fun _ _ ht => ht.after_modCore)

theorem StaysInForm.event_headReservation (h : StaysInForm s₀ s) : NextInForm s₀ (execHeadReservation s) := by
  unfold execHeadReservation
  split
  · dsimp only
    refine StaysInForm.next ?_
    split
    · exact h.after_settleHead
    · refine h.after_settleHead.ite ?_
      split
      · exact h.after_settleHead
      · exact ((h.after_settleHead.after_modEntry.foldl fun _ _ ht => ht.after_reserveGangs).foldl fun _ _ ht =>
          ht.ite ht.after_reserveGangs).after_noteIdle
  · exact h.next

theorem StaysInForm.event_intensityClassify (h : StaysInForm s₀ s) : NextInForm s₀ (execIntensityClassify s) := by
  unfold execIntensityClassify
  split
  · exact h.after_modLaunch.next
  · exact h.next

/-! ### Heat -/

theorem StaysInForm.with_traceQ {l : List TraceRec} (h : StaysInForm s₀ s) : StaysInForm s₀ { s with traceQ := l } := h

theorem StaysInForm.after_powerRecord {c : Nat} {cause : BitVec 8} (h : StaysInForm s₀ s) : StaysInForm s₀ (powerRecord s c cause) :=
  StaysInForm.ite h.with_traceQ h

theorem StaysInForm.after_powerEvent {c : Nat} {cause : BitVec 8} (h : StaysInForm s₀ s) : StaysInForm s₀ (powerEvent s c cause) :=
  h.after_modCluster.after_powerRecord

theorem StaysInForm.after_heatDown {c : Nat} (h : StaysInForm s₀ s) : StaysInForm s₀ (heatDown s c) :=
  h.ite h.after_modCluster.after_retarget.after_powerEvent

theorem StaysInForm.after_hotCluster {taken : List Nat} {c : Nat} (h : StaysInForm s₀ s) : StaysInForm s₀ (hotCluster (s, taken) c).1 := by
  unfold hotCluster
  dsimp only
  split
  · exact h
  · split
    · exact h.after_heatDown
    · split
      · exact h
      · exact h.after_startCut.after_powerEvent

theorem StaysInForm.after_hotClusters {l taken : List Nat} (h : StaysInForm s₀ s) : StaysInForm s₀ (l.foldl hotCluster (s, taken)).1 := by
  induction l generalizing s taken with
  | nil => exact h
  | cons c r ih => exact ih (h.after_hotCluster (taken := taken))

theorem StaysInForm.event_thermalReading (h : StaysInForm s₀ s) : NextInForm s₀ (execThermalReading s) := by
  unfold execThermalReading
  split
  · exact StaysInForm.next (h.with_launches.foldl fun _ _ ht => ht.after_modCluster).after_hotClusters
  · exact h.next

theorem StaysInForm.event_thermalStepUp (h : StaysInForm s₀ s) : NextInForm s₀ (execThermalStepUp s) := by
  unfold execThermalStepUp
  split
  · exact StaysInForm.next (h.after_modCluster.after_retarget.after_powerEvent.ite h)
  · exact h.next

/-! ### Cuts -/

theorem StaysInForm.event_stopRequest (h : StaysInForm s₀ s) : NextInForm s₀ (execStopRequest s) := by
  unfold execStopRequest
  split
  · refine StaysInForm.next ?_
    split
    · exact h.after_startCut
    · exact h.after_startCut
    · exact h
    · exact h
  · exact h.next

theorem StaysInForm.event_cutAcknowledge (h : StaysInForm s₀ s) : NextInForm s₀ (execCutAcknowledge s) := by
  unfold execCutAcknowledge
  split
  · refine StaysInForm.next ?_
    split
    · exact h.after_acknowledge.after_releaseBehind
    · exact h
  · exact h.next

theorem StaysInForm.event_cutSecondStage (h : StaysInForm s₀ s) : NextInForm s₀ (execCutSecondStage s) := by
  unfold execCutSecondStage
  split
  · refine StaysInForm.next ?_
    split
    · exact h
    · exact h.ite (h.with_cuts.ite (h.foldl fun _ _ ht => ht.after_releaseBehind))
  · exact h.next

theorem StaysInForm.after_stopCore {c : Cut} {n : Nat} {base : Word} {l : List Image} {x : Nat × Nat} (h : StaysInForm s₀ s) :
    StaysInForm s₀ (stopCore c n base (s, l) x).1 :=
  (h.after_modCore.after_stopRecord.withMem fun hm => writeRecord_wf hm _ _ _ _).after_modCore

theorem StaysInForm.after_stopCores {c : Cut} {n : Nat} {base : Word} {l : List Image} {xs : List (Nat × Nat)} (h : StaysInForm s₀ s) :
    StaysInForm s₀ (xs.foldl (stopCore c n base) (s, l)).1 := by
  induction xs generalizing s l with
  | nil => exact h
  | cons x r ih => exact ih (h.after_stopCore (l := l))

theorem StaysInForm.after_leaveAll {st : Nat} {l : List (CtxId × Lid)} (h : StaysInForm s₀ s) : StaysInForm s₀ (leaveAll s st l) := by
  refine h.foldl fun t x ht => ?_
  split
  · exact ht.after_leaveIfPlaced
  · exact ht

theorem StaysInForm.after_settleClaim {c : Cut} {images : List Image} {before : State} {cores : List Nat}
    {x : Nat × CtxId × Lid × List (CtxId × Lid)} (h : StaysInForm s₀ s) : StaysInForm s₀ (settleClaim c images before cores s x) :=
  h.after_saveInto.after_leaveAll.after_claimCores

theorem StaysInForm.event_cutComplete (h : StaysInForm s₀ s) : NextInForm s₀ (execCutComplete s) := by
  unfold execCutComplete
  split
  · refine StaysInForm.next ?_
    split
    · exact h
    · next c _ =>
      dsimp only
      refine h.ite (StaysInForm.foldl ?_ fun _ _ ht => ht.after_settleClaim)
      have h0 : StaysInForm s₀ { s with free := s.free + 1, serial := s.serial + 1 } := h
      have h1 := (h0.foldl (l := coresHolding s c) fun _ k ht => ht.after_release (k := k) (sc := .pkg)).after_stopCores (c := c)
        (n := s.serial) (base := freeWord s.free) (l := []) (xs := (coresHolding s c).zipIdx)
      exact (h1.after_memWrite (k := imageKey s.serial 0) (n := 64)).of_eq
  · exact h.next

theorem StaysInForm.event_cutResume (h : StaysInForm s₀ s) : NextInForm s₀ (execCutResume s) := by
  unfold execCutResume
  split
  · refine StaysInForm.next ?_
    split
    · exact h
    · exact h.ite (h.with_cuts.foldl fun _ _ ht => ht.after_resumeOn).with_launches
  · exact h.next

theorem StaysInForm.after_blazeDie {ctx : CtxId} {n : Nat} {asked : Bool} (h : StaysInForm s₀ s) :
    StaysInForm s₀ (blazeDie s ctx n asked).2 := by
  unfold blazeDie
  split
  · exact h
  · exact h
  · exact h.ite h.after_askWake

theorem StaysInForm.after_moveEntry {src st : Nat} {e : Pend} (h : StaysInForm s₀ s) : StaysInForm s₀ (moveEntry s src e st) := h

theorem StaysInForm.after_moveEntries {ctx : CtxId} {ember : Bool} {die : Nat} (h : StaysInForm s₀ s) :
    StaysInForm s₀ (moveEntries s ctx ember die) :=
  h.foldl fun _ _ ht => ht.foldl fun _ _ hu => hu.after_unreserve.after_moveEntry

theorem StaysInForm.event_migrationTransferComplete (h : StaysInForm s₀ s) : NextInForm s₀ (execMigrationTransferComplete s) := by
  unfold execMigrationTransferComplete
  split
  · refine StaysInForm.next ?_
    split
    · exact h
    · split
      · exact h
      · next ctx _ _ _ _ _ c _ =>
        have hd : ∀ (ember : Bool) r, (if ember = true then (some 4, s) else blazeDie s ctx (liveImages s c.images).length c.asked) = r →
            StaysInForm s₀ r.2 := by
          rintro ember _ rfl
          split
          · exact h
          · exact h.after_blazeDie
        dsimp only
        split
        · next he => exact (hd _ _ he).with_cuts
        · next he =>
          exact StaysInForm.foldl (StaysInForm.of_eq (hd _ _ he).with_cuts.after_modCtx.after_moveEntries) fun _ _ ht => ht.after_putBack
  · exact h.next

end Sys2Proof.Machine.FormLaws
end

section
/-!
The forms through the events of power, links, the host, traces, firmware, the command queues and the pages.
-/
set_option Elab.async false
namespace Sys2Proof.Machine.FormLaws

variable {s₀ s : State}

/-! ### Power states -/

theorem StaysInForm.event_clusterIdleEntry (h : StaysInForm s₀ s) : NextInForm s₀ (execClusterIdleEntry s) := by
  unfold execClusterIdleEntry
  split
  · exact StaysInForm.next (h.after_setCluster.ite h)
  · exact h.next

theorem StaysInForm.after_shedLines {k : Nat} {p : Line → Bool} (h : StaysInForm s₀ s) : StaysInForm s₀ (shedLines s k p) :=
  h.foldl fun _ _ ht => ht.after_writeBackLine.after_dropLine.after_removeSharer

theorem StaysInForm.after_loseCluster {c : Nat} (h : StaysInForm s₀ s) : StaysInForm s₀ (loseCluster s c) :=
  StaysInForm.with_free (h.foldl fun _ _ ht => ht.after_modCore)

theorem StaysInForm.after_enterSmoored {c : Nat} (h : StaysInForm s₀ s) : StaysInForm s₀ (enterSmoored s c) :=
  StaysInForm.after_loseCluster (h.foldl fun _ _ ht => ht.after_release.after_shedLines)

theorem StaysInForm.after_enterCold {c : Nat} (h : StaysInForm s₀ s) : StaysInForm s₀ (enterCold s c) :=
  h.foldl fun _ _ ht => ht.after_release.after_shedLines.after_modCore

theorem StaysInForm.after_beginMove {c : Nat} {t : PState} (h : StaysInForm s₀ s) : StaysInForm s₀ (beginMove s c t) := h.after_modCluster

theorem StaysInForm.event_smooredEntry (h : StaysInForm s₀ s) : NextInForm s₀ (execSmooredEntry s) := by
  unfold execSmooredEntry
  split
  · exact StaysInForm.next (h.after_enterSmoored.after_beginMove.ite h)
  · exact h.next

theorem StaysInForm.event_coldEntry (h : StaysInForm s₀ s) : NextInForm s₀ (execColdEntry s) := by
  unfold execColdEntry
  split
  · exact StaysInForm.next (h.after_enterCold.after_beginMove.ite h)
  · exact h.next

theorem StaysInForm.event_clusterStateChangeFinished (h : StaysInForm s₀ s) : NextInForm s₀ (execClusterStateChangeFinished s) := by
  unfold execClusterStateChangeFinished
  split
  · refine StaysInForm.next ?_
    split
    · exact h.ite (h.after_setCluster.with_hub.ite h.after_setCluster)
    · exact h
  · exact h.next

theorem StaysInForm.after_switchOff (h : StaysInForm s₀ s) : StaysInForm s₀ (switchOff s) :=
  ⟨fun hs => ⟨filter_wf (h.1 hs).1 _, (h.1 hs).2⟩, fun _ => ⟨List.nodup_singleton _, fun _ hp => nomatch hp⟩⟩

theorem StaysInForm.after_bootUp (h : StaysInForm s₀ s) : StaysInForm s₀ (bootUp s) := h

theorem StaysInForm.event_firmwarePowerCommand (h : StaysInForm s₀ s) : NextInForm s₀ (execFirmwarePowerCommand s) := by
  unfold execFirmwarePowerCommand
  split
  · refine StaysInForm.next ?_
    split
    · exact (h.after_enterSmoored.ite h).after_enterCold.after_beginMove.ite h
    · exact h.ite h.after_switchOff
    · exact h.after_bootUp.ite h
  · exact h.next

theorem StaysInForm.event_kindleDeferredChoice (h : StaysInForm s₀ s) : NextInForm s₀ (execKindleDeferredChoice s) := by
  unfold execKindleDeferredChoice
  split
  · exact h.after_serveKindles.next
  · exact h.next

theorem StaysInForm.after_wakeIncrement {r : WakeReq} (h : StaysInForm s₀ s) : StaysInForm s₀ (wakeIncrement s r) := by
  unfold wakeIncrement
  split
  · exact h
  · refine StaysInForm.ite (StaysInForm.after_arrive ?_) h
    split
    · exact h.after_release
    · exact h

theorem StaysInForm.event_clusterWakeComplete (h : StaysInForm s₀ s) : NextInForm s₀ (execClusterWakeComplete s) := by
  unfold execClusterWakeComplete
  split
  · refine StaysInForm.next (StaysInForm.ite ?_ h)
    dsimp only
    split
    · exact h.after_setCluster.after_wakeIncrement
    · exact h.after_setCluster
  · exact h.next

theorem StaysInForm.event_kholdTimeout (h : StaysInForm s₀ s) : NextInForm s₀ (execKholdTimeout s) := by
  unfold execKholdTimeout
  split
  · exact StaysInForm.next (h.after_setCluster.ite h)
  · exact h.next

theorem StaysInForm.event_channelWakeComplete (h : StaysInForm s₀ s) : NextInForm s₀ (execChannelWakeComplete s) := by
  unfold execChannelWakeComplete
  split
  · exact StaysInForm.next (h.with_hub.ite h)
  · exact h.next

theorem StaysInForm.event_channelSelfRefreshEntry (h : StaysInForm s₀ s) : NextInForm s₀ (execChannelSelfRefreshEntry s) := by
  unfold execChannelSelfRefreshEntry
  split
  · exact StaysInForm.next (h.with_hub.ite h)
  · exact h.next

theorem StaysInForm.event_railSwitch (h : StaysInForm s₀ s) : NextInForm s₀ (execRailSwitch s) := by
  unfold execRailSwitch
  split
  · exact StaysInForm.next ((h.after_setCluster.ite (h.ite h.after_setCluster)).ite h)
  · exact h.next

theorem StaysInForm.event_railSwitchGateEnd (h : StaysInForm s₀ s) : NextInForm s₀ (execRailSwitchGateEnd s) := by
  unfold execRailSwitchGateEnd
  split
  · exact StaysInForm.next (h.after_setCluster.after_retarget.ite h)
  · exact h.next

theorem StaysInForm.event_generatorHandover (h : StaysInForm s₀ s) : NextInForm s₀ (execGeneratorHandover s) := by
  unfold execGeneratorHandover
  split
  · exact StaysInForm.next (h.after_setCluster.after_grantBoost.ite h)
  · exact h.next

theorem StaysInForm.after_limitDown {c : Nat} (h : StaysInForm s₀ s) : StaysInForm s₀ (limitDown s c) :=
  h.after_modCluster.after_retarget.after_powerEvent.ite h.after_modCluster.after_retarget

theorem StaysInForm.after_limitUp {c : Nat} (h : StaysInForm s₀ s) : StaysInForm s₀ (limitUp s c) :=
  h.after_modCluster.after_retarget.after_powerEvent.ite h

theorem StaysInForm.after_setCalm {r : Rail} {n : Nat} (h : StaysInForm s₀ s) : StaysInForm s₀ (setCalm s r n) := h.with_hub

theorem StaysInForm.event_currentSample (h : StaysInForm s₀ s) : NextInForm s₀ (execCurrentSample s) := by
  unfold execCurrentSample
  split
  · refine StaysInForm.next ?_
    split
    · exact h
    · exact (h.after_setCalm.foldl fun _ _ ht => ht.after_limitDown).ite
        (((h.after_setCalm.foldl fun _ _ ht => ht.after_limitUp).ite h.after_setCalm).ite h.after_setCalm)
  · exact h.next

theorem StaysInForm.after_setCeiling {n : Nat} (h : StaysInForm s₀ s) : StaysInForm s₀ (setCeiling s n) :=
  h.with_hub.after_retargetAll.foldl fun _ _ ht => ht.after_powerEvent

theorem StaysInForm.event_packagePowerWindow (h : StaysInForm s₀ s) : NextInForm s₀ (execPackagePowerWindow s) := by
  unfold execPackagePowerWindow
  split
  · exact StaysInForm.next ((h.after_setCeiling.ite h).ite ((h.after_setCeiling.ite h).ite h))
  · exact h.next

theorem StaysInForm.event_droopDetect (h : StaysInForm s₀ s) : NextInForm s₀ (execDroopDetect s) := by
  unfold execDroopDetect
  split
  · exact StaysInForm.next (h.foldl fun _ _ ht => ht.after_modCluster)
  · exact h.next

/-! ### Links and the host -/

theorem StaysInForm.after_modLink {l : P} {f : Link → Link} (h : StaysInForm s₀ s) : StaysInForm s₀ (modLink s l f) := h

theorem StaysInForm.event_laneGroupRetire (h : StaysInForm s₀ s) : NextInForm s₀ (execLaneGroupRetire s) := by
  unfold execLaneGroupRetire
  split
  · exact StaysInForm.next (StaysInForm.ite (StaysInForm.of_eq h) h)
  · exact h.next

theorem StaysInForm.event_linkTurnApply (h : StaysInForm s₀ s) : NextInForm s₀ (execLinkTurnApply s) := by
  unfold execLinkTurnApply
  split
  · exact h.after_modLink.next
  · exact h.next

theorem StaysInForm.event_turnDeadTimeEnd (h : StaysInForm s₀ s) : NextInForm s₀ (execTurnDeadTimeEnd s) := by
  unfold execTurnDeadTimeEnd
  split
  · exact h.after_modLink.next
  · exact h.next

theorem StaysInForm.after_acceptWake {v : Word} (h : StaysInForm s₀ s) : StaysInForm s₀ (acceptWake s v) := by
  unfold acceptWake
  dsimp only
  split
  · exact h.after_journalEvent
  · exact h.with_hub.after_askWake

theorem StaysInForm.after_latchWake {v : Word} (h : StaysInForm s₀ s) : StaysInForm s₀ (latchWake s v) := by
  unfold latchWake
  split
  · exact h.with_hub
  · exact h.with_hub.ite h.with_hub

theorem StaysInForm.event_hostWakeWrite (h : StaysInForm s₀ s) : NextInForm s₀ (execHostWakeWrite s) := by
  unfold execHostWakeWrite
  split
  · exact StaysInForm.next (h.after_acceptWake.ite h.after_latchWake)
  · exact h.next

theorem StaysInForm.event_apertureUp (h : StaysInForm s₀ s) : NextInForm s₀ (execApertureUp s) := by
  unfold execApertureUp
  split
  · exact StaysInForm.next (h.ite (h.with_hub.foldl fun _ _ ht => ht.after_acceptWake))
  · exact h.next

theorem StaysInForm.after_refuseHost (h : StaysInForm s₀ s) : StaysInForm s₀ (refuseHost s) := h.with_hub

theorem StaysInForm.after_hostSees {l : List Byte} {b : Bool} (h : StaysInForm s₀ s) : StaysInForm s₀ (hostSees s l b) := h.with_hub

theorem StaysInForm.after_putBytes {a : Nat} {l : List Byte} (h : StaysInForm s₀ s) : StaysInForm s₀ (putBytes s a l) := h.after_homePut

theorem StaysInForm.event_hostMemAccess (h : StaysInForm s₀ s) : NextInForm s₀ (execHostMemAccess s) := by
  unfold execHostMemAccess
  split
  · refine StaysInForm.next ?_
    split
    · exact h.ite (h.after_hostSees.ite h.after_hostSees.after_refuseHost)
    · exact h.ite (h.after_putBytes.ite h.after_refuseHost)
    · exact h.after_putBytes.ite h
    · exact h.after_hostSees
    · exact h.after_hostSees
  · exact h.next

theorem StaysInForm.event_heartbeatTimeout (h : StaysInForm s₀ s) : NextInForm s₀ (execHeartbeatTimeout s) := by
  unfold execHeartbeatTimeout
  split
  · exact h.with_hub.next
  · exact h.next

theorem StaysInForm.event_liveUpdate (h : StaysInForm s₀ s) : NextInForm s₀ (execLiveUpdate s) := by
  unfold execLiveUpdate
  split
  · exact StaysInForm.next (h.after_journalEvent.ite (h.after_journalEvent.ite h.with_hub.after_journalEvent))
  · exact h.next

theorem StaysInForm.event_attestationRequest (h : StaysInForm s₀ s) : NextInForm s₀ (execAttestationRequest s) := by
  unfold execAttestationRequest
  split
  · exact h.with_hub.next
  · exact h.next

theorem StaysInForm.event_machineCheck (h : StaysInForm s₀ s) : NextInForm s₀ (execMachineCheck s) := by
  unfold execMachineCheck
  split
  · refine StaysInForm.next ?_
    split
    · exact h.after_modCore.ite h.with_hub
    · refine StaysInForm.ite ?_ h
      split
      · exact h.after_machineCheck
      · exact h.after_haltCore
    · exact h.ite (h.after_machineCheck.ite h.after_killContext)
  · exact h.next

theorem StaysInForm.event_coreRestart (h : StaysInForm s₀ s) : NextInForm s₀ (execCoreRestart s) := by
  unfold execCoreRestart
  split
  · exact StaysInForm.next (h.after_modCore.ite h)
  · exact h.next

/-! ### Traces -/

theorem StaysInForm.after_putWords {b : SampleBuf} {p : Nat} {l : List Word} (h : StaysInForm s₀ s) : StaysInForm s₀ (putWords s b p l) :=
  h.foldl fun _ _ ht => ht.after_putNum

theorem StaysInForm.with_buffers {l : List SampleBuf} (h : StaysInForm s₀ s) : StaysInForm s₀ { s with buffers := l } := h

theorem StaysInForm.after_putRecord {b : SampleBuf} {l : List Word} (h : StaysInForm s₀ s) : StaysInForm s₀ (putRecord s b l) :=
  h.with_buffers.ite (h.after_putWords.with_buffers.ite (h.after_putWords.after_memClear.after_putWords.with_buffers.ite
    (h.after_putWords.with_buffers.ite h.with_buffers)))

theorem StaysInForm.event_traceRecordWrite (h : StaysInForm s₀ s) : NextInForm s₀ (execTraceRecordWrite s) := by
  unfold execTraceRecordWrite
  split
  · refine StaysInForm.next ?_
    split
    · exact h
    · dsimp only
      split
      · exact h.with_traceQ.after_putRecord
      · exact h.with_traceQ
  · exact h.next

theorem StaysInForm.event_traceSampleTimer (h : StaysInForm s₀ s) : NextInForm s₀ (execTraceSampleTimer s) := by
  unfold execTraceSampleTimer
  split
  · refine StaysInForm.next (StaysInForm.ite ?_ h)
    split
    · exact h.after_traceRec
    · exact h.after_traceRec.ite h.after_freshWord.after_freshWord.after_traceRec
  · exact h.next

theorem StaysInForm.event_captureEnd (h : StaysInForm s₀ s) : NextInForm s₀ (execCaptureEnd s) := by
  unfold execCaptureEnd
  split
  · exact StaysInForm.next (h.after_modCluster.ite h)
  · exact h.next

theorem StaysInForm.event_debugCoreStop (h : StaysInForm s₀ s) : NextInForm s₀ (execDebugCoreStop s) := by
  unfold execDebugCoreStop
  split
  · exact StaysInForm.next (h.ite (h.after_modCore.after_stopRecord.after_modCore.ite h.after_modCore))
  · exact h.next

theorem StaysInForm.event_debugCoreResume (h : StaysInForm s₀ s) : NextInForm s₀ (execDebugCoreResume s) := by
  unfold execDebugCoreResume
  split
  · exact StaysInForm.next (h.after_modCore.ite h)
  · exact h.next

/-! ### Firmware -/

theorem StaysInForm.after_onHub {f : Hub → Hub} (h : StaysInForm s₀ s) : StaysInForm s₀ (onHub s f) := h.with_hub

theorem StaysInForm.after_modBuffer {n : BitVec 8} {f : SampleBuf → SampleBuf} (h : StaysInForm s₀ s) : StaysInForm s₀ (modBuffer s n f) := h

theorem StaysInForm.with_ctxs {l : List Ctx} (h : StaysInForm s₀ s) : StaysInForm s₀ { s with ctxs := l } := h

theorem StaysInForm.after_firmwareWrite {w : FwWrite} (h : StaysInForm s₀ s) : StaysInForm s₀ (firmwareWrite s w) := by
  cases w with
  | contextCreate => exact h.ite h.with_ctxs
  | contextRoot | wakeGrant | guiltLimit | guiltClear | faultRd | faultDropClear | queueCreate => exact h.after_modCtx
  | queuePrio => exact h.after_modQueue
  | errstatClear => exact h.after_setErr
  | refusalClear => exact h
  | routeDropClear | correctedClear => exact h.after_modCore.ite h
  | hubCorrectedClear | emberGrant | railParts | railLimit | dramPolicy | smhold | coldhold | nvmeRevoke | hostRefusalClear => exact h.after_onHub
  | apertureGrant => exact h.ite h.after_onHub
  | lease => exact h.after_modLink
  | traceControl => exact h.after_modCluster.ite h
  | sampleBuffer => exact h.ite (h.after_modBuffer.ite h.with_buffers)
  | sampleRead | sampleLostClear => exact h.after_modBuffer
  | journal => exact StaysInForm.after_journalFlush (StaysInForm.after_memClear (s := onHub s _) h.after_onHub)
  | nvmeGrant => exact h.after_onHub.after_pumpMoves.ite h
  | hostRange => exact h.after_onHub.ite h

theorem StaysInForm.event_firmwareRegisterWrite (h : StaysInForm s₀ s) : NextInForm s₀ (execFirmwareRegisterWrite s) := by
  unfold execFirmwareRegisterWrite
  split
  · exact h.after_firmwareWrite.next
  · exact h.next

end Sys2Proof.Machine.FormLaws
end

section
/-!
The forms through the command queues and the pages, every instruction and event, and every step: MemoryAndCoresStayInForm.
-/
set_option Elab.async false
namespace Sys2Proof.Machine.FormLaws

variable {s₀ s : State}

/-! ### Fetching and turns -/

theorem fetchWindow_inForm {pc : Word} : EndsInForm s₀ (fun _ => True) (fetchWindow pc) := by
  unfold fetchWindow
  split
  · trivial
  · trivial
  · split_ifs <;> trivial

theorem StaysInForm.after_fetchAt {pc : Word} (h : StaysInForm s₀ s) : EndsInForm s₀ (fun r => StaysInForm s₀ r.2) (fetchAt s pc) := by
  unfold fetchAt
  split
  · next he => exact fetchWindow_inForm.error he
  · split
    · next he => exact h.after_place.error he
    · next he => exact h.after_place.ok (q := fun r => StaysInForm s₀ r.2) he

theorem StaysInForm.after_fetchWord (h : StaysInForm s₀ s) : EndsInForm s₀ (fun r => StaysInForm s₀ r.2) (fetchWord s) := by
  unfold fetchWord
  dsimp only
  split
  · exact h
  · split
    · next he => exact h.after_fetchAt.error he
    · next he =>
      have h1 := h.after_fetchAt.ok he
      exact StaysInForm.ite (StaysInForm.after_onCore h1) h1

theorem StaysInForm.after_fetchCoal (h : StaysInForm s₀ s) : EndsInForm s₀ (fun r => StaysInForm s₀ r.2) (fetchCoal s) := by
  unfold fetchCoal
  split
  · trivial
  · dsimp only
    split
    · exact h
    · split
      · next he => exact h.after_fetchAt.error he
      · next he => exact StaysInForm.after_onCore (h.after_fetchAt.ok he)

theorem StaysInForm.after_prefetchWord {k : Nat} {a : Word} (h : StaysInForm s₀ s) : StaysInForm s₀ (prefetchWord s k a) := by
  unfold prefetchWord
  dsimp only
  split
  · exact h
  · next he => exact StaysInForm.after_onCore (h.after_focus.after_place.ok he)

theorem StaysInForm.after_decodeFault {f : Fields} {e : DecErr} (h : StaysInForm s₀ s) : StaysInForm s₀ (decodeFault s f e) := by
  cases e with
  | insn => exact h.after_illegal
  | operand => exact h.after_illegal.ite h.after_illegalOperand

theorem StaysInForm.after_fetchStopAt {pc : Word} {e : Stop} (h : StaysInForm s₀ s) (he : StopsInForm s₀ e) :
    StaysInForm s₀ (fetchStopAt s pc e) := by
  induction e generalizing s with
  | after t x ih => exact ih he.1 he.2
  | fault => exact h.after_raiseAt
  | wait => exact h.after_standIn
  | cold => exact h.after_askFetch.after_standIn
  | asleep => exact h.after_askChannel.after_standIn

theorem StaysInForm.after_fetchStop {e : Stop} (h : StaysInForm s₀ s) (he : StopsInForm s₀ e) : StaysInForm s₀ (fetchStop s e) :=
  h.after_fetchStopAt he

theorem StaysInForm.after_leaveCoal {b : Bank} (h : StaysInForm s₀ s) : StaysInForm s₀ (leaveCoal b s) :=
  StaysInForm.ite (h.after_illegal.ite h).after_onCore (h.after_illegal.ite h)

theorem countWatchdog_id (n : Nat) (c : Core) : (countWatchdog n c).id = c.id := by
  unfold countWatchdog
  split <;> rfl

theorem StaysInForm.with_time {n : Nat} {x : Hub} (h : StaysInForm s₀ s) : StaysInForm s₀ { s with free := n, hub := x } := h

theorem StaysInForm.after_passTime {k : Nat} (h : StaysInForm s₀ s) : StaysInForm s₀ (passTime s k) := by
  refine StaysInForm.with_time (StaysInForm.ite (StaysInForm.after_mapCores (h.after_setCluster.ite h) fun c => ?_) (h.after_setCluster.ite h))
  split
  · exact countWatchdog_id _ c
  · rfl

theorem StaysInForm.with_now {e : Option Event} (h : StaysInForm s₀ s) : StaysInForm s₀ { s with now := e } := h

theorem StaysInForm.after_turnOf {k : Nat} (h : StaysInForm s₀ s) : StaysInForm s₀ (turnOf s k) := h.with_now.after_focus.after_passTime

theorem StaysInForm.after_eventOf {e : Event} (h : StaysInForm s₀ s) : StaysInForm s₀ (eventOf s e) := h.with_now.after_passTime

/-! ### Command queues -/

theorem StaysInForm.event_doorbellWrite (h : StaysInForm s₀ s) : NextInForm s₀ (execDoorbellWrite s) := by
  unfold execDoorbellWrite
  split
  · refine StaysInForm.next ?_
    split
    · exact h
    · exact h.after_setErr.after_addGuilt.ite h.after_modQueue
  · exact h.next

theorem StaysInForm.after_pastPackets {ctx : CtxId} {q : BitVec 4} {n : Nat} (h : StaysInForm s₀ s) : StaysInForm s₀ (pastPackets s ctx q n) :=
  h.after_modQueue.with_serial

theorem StaysInForm.after_skipMalformed {ctx : CtxId} {x : CmdQueue} {n : Nat} (h : StaysInForm s₀ s) :
    StaysInForm s₀ (skipMalformed s ctx x n) := h.after_pastPackets.after_setErr.after_addGuilt

theorem StaysInForm.after_complexFault {ctx : CtxId} {q : BitVec 4} {rdidx : BitVec 32} {c : FCode} {a : Word} (h : StaysInForm s₀ s) :
    StaysInForm s₀ (complexFault s ctx q rdidx c a) := h.after_appendRecord.after_setErr.after_addGuilt

theorem StaysInForm.after_skipFault {ctx : CtxId} {x : CmdQueue} {n : Nat} {c : FCode} {a : Word} (h : StaysInForm s₀ s) :
    StaysInForm s₀ (skipFault s ctx x n c a) := h.after_complexFault.after_pastPackets

theorem StaysInForm.after_heldAt {ctx : CtxId} {q : BitVec 4} {st : Option Nat} (h : StaysInForm s₀ s) : StaysInForm s₀ (heldAt s ctx q st) :=
  h.after_modQueue

/-- What parsing a packet leaves has the forms of `s₀`. -/
def ParsedInForm (s₀ : State) : Parsed → Prop
  | .done t => StaysInForm s₀ t
  | .held t => StaysInForm s₀ t

theorem ParsedInForm.ite {c : Prop} [Decidable c] {x y : Parsed} (hx : ParsedInForm s₀ x) (hy : ParsedInForm s₀ y) :
    ParsedInForm s₀ (if c then x else y) := by
  split
  · exact hx
  · exact hy

theorem StaysInForm.done (h : StaysInForm s₀ s) : ParsedInForm s₀ (.done s) := h
theorem StaysInForm.held (h : StaysInForm s₀ s) : ParsedInForm s₀ (.held s) := h

theorem StaysInForm.after_parseStop {ctx : CtxId} {x : CmdQueue} {n : Nat} {e : Stop} (h : StaysInForm s₀ s) (he : StopsInForm s₀ e) :
    ParsedInForm s₀ (parseStop s ctx x n e) := by
  induction e generalizing s with
  | after t y ih => exact ih he.1 he.2
  | fault => exact h.after_skipFault
  | wait => exact h
  | cold => exact h.after_askFetch
  | asleep => exact h.after_askChannel

theorem StaysInForm.after_acceptCmd {ctx : CtxId} {x : CmdQueue} {p : Nat} (h : StaysInForm s₀ s) : StaysInForm s₀ (acceptCmd s ctx x p).2 :=
  h.after_journalAccept

theorem StaysInForm.after_acceptDone {ctx : CtxId} {x : CmdQueue} {p : Nat} (h : StaysInForm s₀ s) : StaysInForm s₀ (acceptDone s ctx x p) :=
  h.after_acceptCmd.after_journalStart.after_journalEnd.after_pastPackets

theorem StaysInForm.after_parseLaunch {ctx : CtxId} {x : CmdQueue} (h : StaysInForm s₀ s) : ParsedInForm s₀ (parseLaunch s ctx x) := by
  have hb : EndsInForm s₀ (fun r => StaysInForm s₀ r.2)
      (readBundle (hubReader (complexAcc ctx x)) true (fun t i => .ok (packetAt t x i, t)) s) :=
    h.after_readBundle hubReader_inForm fun _ _ ht => ht
  unfold parseLaunch
  dsimp only
  refine .ite h.after_skipMalformed.done (.ite h.held ?_)
  split
  · next he => exact h.after_parseStop (hb.error he)
  · next he =>
    have h1 := hb.ok he
    split
    · exact StaysInForm.done h1.after_skipMalformed
    · exact .ite (StaysInForm.held h.after_heldAt) (.ite h.held (StaysInForm.done h1.after_acceptCmd.after_enterLaunch.after_pastPackets))

theorem StaysInForm.after_parseGraph {ctx : CtxId} {x : CmdQueue} (h : StaysInForm s₀ s) : ParsedInForm s₀ (parseGraph s ctx x) :=
  .ite h.after_skipMalformed.done (.ite h.after_heldAt.held (.ite h.held
    h.after_acceptCmd.after_enterGraph.after_journalStart.after_pastPackets.done))

theorem StaysInForm.after_parsePhase {ctx : CtxId} {x : CmdQueue} (h : StaysInForm s₀ s) : ParsedInForm s₀ (parsePhase s ctx x) :=
  .ite h.after_skipMalformed.done (.ite h.held h.after_acceptDone.after_closePhase.after_openPhase.done)

theorem StaysInForm.after_parseWait {ctx : CtxId} {x : CmdQueue} (h : StaysInForm s₀ s) : ParsedInForm s₀ (parseWait s ctx x) := by
  refine .ite h.after_skipMalformed.done (.ite h.held (.ite ?_ (.ite h.after_acceptDone.done h.held)))
  split
  · next he => exact h.after_parseStop (h.after_hubRead.error he)
  · next he =>
    have h1 := h.after_hubRead.ok he
    exact .ite (StaysInForm.done h1.after_acceptDone) h1.held

theorem StaysInForm.after_parseSignal {ctx : CtxId} {x : CmdQueue} (h : StaysInForm s₀ s) : ParsedInForm s₀ (parseSignal s ctx x) := by
  refine .ite h.after_skipMalformed.done (.ite h.held (.ite h.after_acceptCmd.with_hub.after_journalStart.after_pastPackets.done ?_))
  split
  · next he => exact h.after_parseStop (h.after_hubWrite.error he)
  · next he => exact StaysInForm.done (h.after_hubWrite.ok he).after_acceptDone

theorem StaysInForm.after_parse {ctx : CtxId} {x : CmdQueue} (h : StaysInForm s₀ s) : ParsedInForm s₀ (parse s ctx x) :=
  .ite h.after_parseGraph (.ite h.after_parsePhase (.ite h.after_parseWait (.ite h.after_parseSignal h.after_parseLaunch)))

theorem StaysInForm.after_serve {ctx : CtxId} {q : BitVec 4} {types : Nat → Bool} (h : StaysInForm s₀ s) :
    StaysInForm s₀ (serve s ctx q types) := by
  unfold serve
  split
  · exact h
  · next x _ =>
    have hp : ParsedInForm s₀ (parse (heldAt s ctx q none) ctx x) := h.after_heldAt.after_parse
    refine h.ite ?_
    split
    · next he => exact (he ▸ hp : ParsedInForm s₀ (.done _))
    · next he => exact (he ▸ hp : ParsedInForm s₀ (.held _))

theorem StaysInForm.event_launchPacket (h : StaysInForm s₀ s) : NextInForm s₀ (execLaunchPacket s) := by
  unfold execLaunchPacket
  split
  · exact h.after_serve.next
  · exact h.next

theorem StaysInForm.event_graphPacket (h : StaysInForm s₀ s) : NextInForm s₀ (execGraphPacket s) := by
  unfold execGraphPacket
  split
  · exact h.after_serve.next
  · exact h.next

theorem StaysInForm.event_phasePacket (h : StaysInForm s₀ s) : NextInForm s₀ (execPhasePacket s) := by
  unfold execPhasePacket
  split
  · exact h.after_serve.next
  · exact h.next

theorem StaysInForm.event_waitPacket (h : StaysInForm s₀ s) : NextInForm s₀ (execWaitPacket s) := by
  unfold execWaitPacket
  split
  · exact h.after_serve.next
  · exact h.next

theorem StaysInForm.event_waitWordPoll (h : StaysInForm s₀ s) : NextInForm s₀ (execWaitWordPoll s) := by
  unfold execWaitWordPoll
  split
  · exact h.after_serve.next
  · exact h.next

theorem StaysInForm.event_signalPacket (h : StaysInForm s₀ s) : NextInForm s₀ (execSignalPacket s) := by
  unfold execSignalPacket
  split
  · exact h.after_serve.next
  · exact h.next

theorem StaysInForm.after_signalFault {g : Signal} {c : FCode} {a : Word} (h : StaysInForm s₀ s) : StaysInForm s₀ (signalFault s g c a) :=
  h.after_complexFault.after_journalEnd

theorem StaysInForm.event_signalAfterWrite (h : StaysInForm s₀ s) : NextInForm s₀ (execSignalAfterWrite s) := by
  unfold execSignalAfterWrite
  split
  · refine StaysInForm.next ?_
    split
    · exact h
    · refine h.ite ?_
      split
      · exact h.with_hub
      · dsimp only
        split
        · next he => exact StaysInForm.after_journalEnd (h.after_hubWrite.ok he).with_hub
        · next he => exact h.after_unitStop (h.after_hubWrite.error he) fun _ _ _ ht => StaysInForm.after_signalFault ht.with_hub
  · exact h.next

theorem StaysInForm.event_queueClose (h : StaysInForm s₀ s) : NextInForm s₀ (execQueueClose s) := by
  unfold execQueueClose
  split
  · refine StaysInForm.next ?_
    split
    · exact h.after_modQueue.after_closePhase
    · exact h
  · exact h.next

/-! ### Pages -/

theorem StaysInForm.after_postCompletion {i : Nat} {ok : Bool} (h : StaysInForm s₀ s) : StaysInForm s₀ (postCompletion s i ok) := by
  unfold postCompletion
  split
  · exact StaysInForm.with_free h.after_putNum
  · exact h

theorem StaysInForm.after_moveDone {i : Nat} (h : StaysInForm s₀ s) : StaysInForm s₀ (moveDone s i) := h.with_hub.after_pumpMoves

theorem StaysInForm.after_failWaiter {w : Waiter} (h : StaysInForm s₀ s) : StaysInForm s₀ (failWaiter s w) := by
  cases w with
  | core =>
    refine (h.after_focus.after_raiseAt.ite h).ite ?_
    split
    · exact h.after_focus.after_faultLaunch.ite h
    · exact h
  | engine => exact h.after_raiseEngine
  | queue =>
    unfold failWaiter
    dsimp only
    split
    · exact h.after_skipFault
    · exact h
  | signal =>
    unfold failWaiter
    dsimp only
    split
    · exact h.with_hub.after_signalFault
    · exact h
  | graph =>
    unfold failWaiter
    dsimp only
    split
    · exact h.after_faultGraph.ite h
    · exact h
  | watch =>
    unfold failWaiter
    dsimp only
    split
    · exact h
    · split
      · next he => exact StaysInForm.after_handResult (StaysInForm.with_hub (h.after_serveWatch.ok he))
      · next he =>
        have h1 := (h.after_serveWatch.error he).state h
        split
        · exact StaysInForm.after_handResult h1.with_hub
        · exact h1
        · exact h1
        · exact StaysInForm.after_handResult h1.with_hub
        · exact StaysInForm.after_handResult h1.with_hub

theorem movePage_wf {src dst : List Host.Cell} (h : Memory.wf dst = true) (a b : Nat) : Memory.wf (movePage src dst a b) = true :=
  memSetAll_wf (memClear_wf h _ _) _

/-- A page moved to flash, beside a change that leaves flash as it was. -/
theorem StaysInForm.with_flashPage {t : State} {l : List Host.Cell} {a b : Nat} (h : StaysInForm s₀ s) (ht : StaysInForm s₀ t) :
    StaysInForm s₀ { t with flash := movePage l s.flash a b } :=
  ⟨fun hs => ⟨(ht.1 hs).1, movePage_wf (h.1 hs).2 _ _⟩, ht.2⟩

theorem StaysInForm.after_pageIn {src p : Nat} (h : StaysInForm s₀ s) : StaysInForm s₀ (pageIn s src p) :=
  (h.withMem fun hm => movePage_wf hm _ _).after_recallZero

theorem StaysInForm.event_coldPageFetchComplete (h : StaysInForm s₀ s) : NextInForm s₀ (execColdPageFetchComplete s) := by
  unfold execColdPageFetchComplete
  split
  · refine StaysInForm.next ?_
    split
    · exact h
    · refine h.ite ?_
      dsimp only
      split
      · exact h.after_postCompletion
      · exact h.after_postCompletion.after_moveDone.foldl fun _ _ ht => ht.after_failWaiter
      · exact h.after_postCompletion.after_moveDone.with_agenda.ite
          h.after_postCompletion.after_moveDone.with_agenda.after_freshWord.after_pageIn.after_putNum
  · exact h.next

theorem StaysInForm.after_shedFrame {p : Nat} (h : StaysInForm s₀ s) : StaysInForm s₀ (shedFrame s p) := h.foldl fun _ _ ht => ht.after_shedLines

theorem StaysInForm.event_pageOutStart (h : StaysInForm s₀ s) : NextInForm s₀ (execPageOutStart s) := by
  unfold execPageOutStart
  split
  · refine StaysInForm.next ?_
    split
    · exact h
    · dsimp only
      split
      · exact h
      · refine h.ite (StaysInForm.after_pumpMoves ?_)
        exact StaysInForm.of_eq (h.ite h.after_drainEvery).after_dropTlbs.after_shedFrame.after_memWrite
  · exact h.next

theorem StaysInForm.event_pageOutComplete (h : StaysInForm s₀ s) : NextInForm s₀ (execPageOutComplete s) := by
  unfold execPageOutComplete
  split
  · refine StaysInForm.next ?_
    split
    · exact h
    · refine h.ite ?_
      dsimp only
      split
      · exact h.after_postCompletion
      · refine h.after_postCompletion.after_moveDone.ite (StaysInForm.ite ?_ h.after_postCompletion.after_moveDone.after_putNum)
        exact h.with_flashPage h.after_postCompletion.after_moveDone.after_putNum
  · exact h.next

end Sys2Proof.Machine.FormLaws
end

section
/-!
The forms through every instruction, every event and every step: MemoryAndCoresStayInForm.
-/
set_option Elab.async false
namespace Sys2Proof.Machine.FormLaws

variable {s₀ s : State}

/-- Every instruction and every event keeps the forms. -/
theorem StaysInForm.after_exec (i : Instr) (h : StaysInForm s₀ s) : NextInForm s₀ (exec i s) := by
  unfold exec
  cases i with
  | iadd | iand | ior | ixor | isub | iadds | isubs | imin | imax | iminn | imaxn | iandn | imul | imulh | imulhn
  | idiv | idivn | irem | iremn | ineg | iabs | ishl | ishr | isar | irot | iext | iextn | iins | icnt | imov | isel
  | imad | ilea | pget | pfirst | pcnt | ffma | fcvtif | fcvtfi | fcvtfiz | fadd | fsub | fmul | fdiv | fmin | fmax
  | fsqrt | fabs | fneg | frcp | fexp2 | flog2 => exact h.exec_scalarOp
  | icmp | fcmp | pand | por | pxor | pnot | pset => exact h.exec_predOp
  | aadd | amin | amax | aminn | amaxn | aand | aor | axor | aswp => exact h.exec_rmw
  | vadd | vsub | vadds | vaddsn | vsubs | vmul | vmulh | vmulhr | vmin | vmax | vminn | vmaxn | vand | vor | vxor
  | vwid | vwidn | vwidf | vmad | vffma | vdot4 | vabs | vsel | vsplat | vperm | vslide | viota | vclr | vshl | vshr
  | vsar | vrshr | vfadd
  | vfsub | vfmul | vfmin | vfmax | vfabs | vfneg | vfrcp | vfrsq | vfexp2 | vflog2 | vcvtfi | vcvtif => exact h.exec_vecOpN
  | vnars | vnarn | vcvtfb | vcvtfh | vcvte4s | vcvte4o | vcvte5s | vcvte5o | vcvtf4s | vencq => exact h.exec_vecPart
  | vredadd | vredmax | vredmin | vfradd | vfrmax => exact h.exec_vecScalar
  | mlda | mgang | mma | mzero | mstf | mstq | mstb | mldc => exact h.exec_issueMatrix
  | cpy | cpy2 | cpyg | cpyz | cpyb => exact h.exec_issueCopy
  | rkdecl | rksweep => exact h.exec_issueRake
  | illegal => exact h.exec_illegal
  | nop => exact h.exec_nop
  | br => exact h.exec_br
  | brz => exact h.exec_brz
  | brnz => exact h.exec_brnz
  | brdec => exact h.exec_brdec
  | jmp => exact h.exec_jmp
  | call => exact h.exec_call
  | callr => exact h.exec_callr
  | ret => exact h.exec_ret
  | loop => exact h.exec_loop
  | lbrk => exact h.exec_lbrk
  | fork => exact h.exec_fork
  | join => exact h.exec_join
  | endTask => exact h.exec_endTask
  | step => exact h.exec_step
  | trap => exact h.exec_trap
  | idxt => exact h.exec_idxt
  | ld => exact h.exec_ld
  | st => exact h.exec_st
  | ldl => exact h.exec_ldl
  | stl => exact h.exec_stl
  | ldpw => exact h.exec_ldpw
  | pref => exact h.exec_pref
  | zline => exact h.exec_zline
  | wbline => exact h.exec_wbline
  | invline => exact h.exec_invline
  | acas => exact h.exec_acas
  | ldacq => exact h.exec_ldacq
  | strel => exact h.exec_strel
  | fence => exact h.exec_fence
  | waita => exact h.exec_waita
  | gbar => exact h.exec_gbar
  | vmacw => exact h.exec_vmacw
  | vcmp => exact h.exec_vcmp
  | vmovs => exact h.exec_vmovs
  | vfcmp => exact h.exec_vfcmp
  | vcvtfbs => exact h.exec_vcvtfbs
  | vdecq => exact h.exec_vdecq
  | lwadd => exact h.exec_lwadd
  | lrnd => exact h.exec_lrnd
  | lclr => exact h.exec_lclr
  | vld => exact h.exec_vld
  | vld2 => exact h.exec_vld2
  | vst => exact h.exec_vst
  | vlds => exact h.exec_vlds
  | vsts => exact h.exec_vsts
  | vgath => exact h.exec_vgath
  | vscat => exact h.exec_vscat
  | vldb => exact h.exec_vldb
  | radvc => exact h.exec_radvc
  | radvp => exact h.exec_radvp
  | rstat => exact h.exec_rstat
  | send => exact h.exec_send
  | sendl => exact h.exec_sendl
  | vsred => exact h.exec_vsred
  | vsmac => exact h.exec_vsmac
  | vsmov => exact h.exec_vsmov
  | chend => exact h.exec_chend
  | mwait => exact h.exec_mwait
  | mstat => exact h.exec_mstat
  | cwait => exact h.exec_cwait
  | cstat => exact h.exec_cstat
  | ccancel => exact h.exec_ccancel
  | rkwake => exact h.exec_rkwake
  | rknext => exact h.exec_rknext
  | rkwait => exact h.exec_rkwait
  | rkstat => exact h.exec_rkstat
  | spawn => exact h.exec_spawn
  | launch => exact h.exec_launch
  | glaunch => exact h.exec_glaunch
  | cancel => exact h.exec_cancel
  | bind => exact h.exec_bind
  | unbind => exact h.exec_unbind
  | compl => exact h.exec_compl
  | kindle => exact h.exec_kindle
  | migrate => exact h.exec_migrate
  | tkcmt => exact h.exec_tkcmt
  | tkwset => exact h.exec_tkwset
  | tkwclr => exact h.exec_tkwclr
  | notify => exact h.exec_notify
  | idle => exact h.exec_idle
  | srd => exact h.exec_srd
  | swr => exact h.exec_swr
  | tlbinv => exact h.exec_tlbinv
  | seed => exact h.exec_seed
  | rand => exact h.exec_rand
  | lturn => exact h.exec_lturn
  | pwrreq => exact h.exec_pwrreq
  | railsel => exact h.exec_railsel
  | trmark => exact h.exec_trmark
  | bkpt => exact h.exec_bkpt
  | eret => exact h.exec_eret
  | pinset => exact h.exec_pinset
  | dlyrd => exact h.exec_dlyrd
  | dlyclr => exact h.exec_dlyclr
  | mcrd => exact h.exec_mcrd
  | halt => exact h.exec_halt
  | csync => exact h.exec_csync
  | deviceReset => exact h.event_deviceReset
  | nextTaskChoice => exact h.event_nextTaskChoice
  | steal => exact h.event_steal
  | serviceTaskEntry => exact h.event_serviceTaskEntry
  | stepWatchdogExpiry => exact h.event_stepWatchdogExpiry
  | messageHeaderArrival => exact h.event_messageHeaderArrival
  | headerQueueEntry => exact h.event_headerQueueEntry
  | messageBeatArrival => exact h.event_messageBeatArrival
  | sendTailInjected => exact h.event_sendTailInjected
  | storeBufferDrain => exact h.event_storeBufferDrain
  | memoryResponse => exact h.event_memoryResponse
  | directoryRequest => exact h.event_directoryRequest
  | l1Eviction => exact h.event_l1Eviction
  | translationWalkComplete => exact h.event_translationWalkComplete
  | coldPageFetchComplete => exact h.event_coldPageFetchComplete
  | pageOutStart => exact h.event_pageOutStart
  | pageOutComplete => exact h.event_pageOutComplete
  | vectorCmdTake => exact h.event_vectorCmdTake
  | matrixCmdStart => exact h.event_matrixCmdStart
  | matrixCmdComplete => exact h.event_matrixCmdComplete
  | copyCmdAccept => exact h.event_copyCmdAccept
  | copyBeatComplete => exact h.event_copyBeatComplete
  | copyComplete => exact h.event_copyComplete
  | rakeCmdTake => exact h.event_rakeCmdTake
  | rakeBeatSample => exact h.event_rakeBeatSample
  | rakeSweepEnd => exact h.event_rakeSweepEnd
  | watchUnitCommit => exact h.event_watchUnitCommit
  | workRetire => exact h.event_workRetire
  | graphLaunchNode => exact h.event_graphLaunchNode
  | graphCondNode => exact h.event_graphCondNode
  | graphWhileNode => exact h.event_graphWhileNode
  | graphJoinallNode => exact h.event_graphJoinallNode
  | graphEndNode => exact h.event_graphEndNode
  | graphNodeRetry => exact h.event_graphNodeRetry
  | doorbellWrite => exact h.event_doorbellWrite
  | launchPacket => exact h.event_launchPacket
  | graphPacket => exact h.event_graphPacket
  | phasePacket => exact h.event_phasePacket
  | waitPacket => exact h.event_waitPacket
  | waitWordPoll => exact h.event_waitWordPoll
  | signalPacket => exact h.event_signalPacket
  | signalAfterWrite => exact h.event_signalAfterWrite
  | queueClose => exact h.event_queueClose
  | schedulingPass => exact h.event_schedulingPass
  | localMemoryClearDone => exact h.event_localMemoryClearDone
  | priorityAging => exact h.event_priorityAging
  | headReservation => exact h.event_headReservation
  | intensityClassify => exact h.event_intensityClassify
  | thermalReading => exact h.event_thermalReading
  | thermalStepUp => exact h.event_thermalStepUp
  | stopRequest => exact h.event_stopRequest
  | cutAcknowledge => exact h.event_cutAcknowledge
  | cutSecondStage => exact h.event_cutSecondStage
  | cutComplete => exact h.event_cutComplete
  | cutResume => exact h.event_cutResume
  | migrationTransferComplete => exact h.event_migrationTransferComplete
  | clusterIdleEntry => exact h.event_clusterIdleEntry
  | smooredEntry => exact h.event_smooredEntry
  | coldEntry => exact h.event_coldEntry
  | firmwarePowerCommand => exact h.event_firmwarePowerCommand
  | kindleDeferredChoice => exact h.event_kindleDeferredChoice
  | clusterWakeComplete => exact h.event_clusterWakeComplete
  | kholdTimeout => exact h.event_kholdTimeout
  | channelWakeComplete => exact h.event_channelWakeComplete
  | channelSelfRefreshEntry => exact h.event_channelSelfRefreshEntry
  | railSwitch => exact h.event_railSwitch
  | railSwitchGateEnd => exact h.event_railSwitchGateEnd
  | generatorHandover => exact h.event_generatorHandover
  | currentSample => exact h.event_currentSample
  | packagePowerWindow => exact h.event_packagePowerWindow
  | droopDetect => exact h.event_droopDetect
  | laneGroupRetire => exact h.event_laneGroupRetire
  | linkTurnApply => exact h.event_linkTurnApply
  | turnDeadTimeEnd => exact h.event_turnDeadTimeEnd
  | hostWakeWrite => exact h.event_hostWakeWrite
  | apertureUp => exact h.event_apertureUp
  | hostMemAccess => exact h.event_hostMemAccess
  | heartbeatTimeout => exact h.event_heartbeatTimeout
  | liveUpdate => exact h.event_liveUpdate
  | attestationRequest => exact h.event_attestationRequest
  | machineCheck => exact h.event_machineCheck
  | coreRestart => exact h.event_coreRestart
  | traceRecordWrite => exact h.event_traceRecordWrite
  | traceSampleTimer => exact h.event_traceSampleTimer
  | captureEnd => exact h.event_captureEnd
  | debugCoreStop => exact h.event_debugCoreStop
  | debugCoreResume => exact h.event_debugCoreResume
  | firmwareRegisterWrite => exact h.event_firmwareRegisterWrite
  | tlbInvalidationComplete => exact h.event_tlbInvalidationComplete
  | clusterStateChangeFinished => exact h.event_clusterStateChangeFinished


theorem nextInForm_fault {r : Fault} : NextInForm s₀ (.fault r) := fun _ ht => nomatch ht
theorem nextInForm_refused {r : Refusal} : NextInForm s₀ (.refused r) := fun _ ht => nomatch ht

/-! ### Steps -/

theorem StaysInForm.after_turn (h : StaysInForm s₀ s) : NextInForm s₀ (turn s) := by
  unfold turn
  split
  · split
    · next he => exact (h.after_fetchStop (h.after_fetchWord.error he)).next
    · next he =>
      have h1 := h.after_fetchWord.ok he
      split
      · split
        · exact StaysInForm.next (StaysInForm.after_standIn h1)
        · split
          · exact StaysInForm.next (StaysInForm.after_standIn h1)
          · exact StaysInForm.after_exec _ h1
      · exact StaysInForm.next (StaysInForm.after_decodeFault h1)
  · exact h.next

theorem StaysInForm.after_vecTurn (h : StaysInForm s₀ s) : NextInForm s₀ (vecTurn s) := by
  unfold vecTurn
  split
  · exact h.next
  · split
    · next he => exact StaysInForm.next (h.after_vecStart.after_exec _ _ he).after_vecEnd
    · exact nextInForm_fault
    · exact nextInForm_refused

theorem StaysInForm.after_rakeTurn (h : StaysInForm s₀ s) : NextInForm s₀ (rakeTurn s) := by
  unfold rakeTurn
  split
  · dsimp only
    split
    · next he => exact StaysInForm.next (h.after_onCore.after_fetchStop (h.after_onCore.after_fetchCoal.error he)).after_leaveCoal
    · next he =>
      have h1 := h.after_onCore.after_fetchCoal.ok he
      split
      · split
        · next hx => exact StaysInForm.next (StaysInForm.after_exec _ h1 _ hx).after_leaveCoal
        · exact nextInForm_fault
        · exact nextInForm_refused
      · exact StaysInForm.next (StaysInForm.after_decodeFault h1).after_leaveCoal
  · exact h.next

theorem StaysInForm.after_act (x : Happening) (h : StaysInForm s₀ s) : NextInForm s₀ (act s x) := by
  cases x with
  | turn => exact h.after_turnOf.after_turn
  | early => exact h.after_readEarly.next
  | vecTurn => exact h.with_now.after_focus.after_vecTurn
  | rakeTurn => exact h.after_turnOf.after_rakeTurn
  | prefetch => exact h.after_prefetchWord.next
  | happen => exact h.after_eventOf.after_exec _

theorem StaysInForm.after_step (h : StaysInForm s₀ s) : NextInForm s₀ (step s) := by
  unfold step
  split
  · exact h.with_agenda.after_act _
  · exact h.after_act _

/-- Settles O60: what a step changes of memory, flash and the list of cores it changes by operations that keep their forms. -/
theorem memoryAndCoresStayInForm : Obligations.MemoryAndCoresStayInForm := by
  unfold Obligations.MemoryAndCoresStayInForm
  exact fun s _ hs => (StaysInForm.refl s).after_step _ hs

end Sys2Proof.Machine.FormLaws
end

section
/-!
Where an access lies, and what its windows say (R69 to R76): AddressesResolve.
-/
set_option Elab.async false
namespace Sys2Proof.Machine.AddressLaws

/-! ### Windows -/

theorem windowOf_eq_local {a : Nat} (hlo : localBase ≤ a) (hhi : a < localBase + 2 ^ 24) : windowOf a = some .local := by
  unfold windowOf
  rw [if_neg, if_pos ⟨hlo, hhi⟩]
  unfold localBase at hlo
  omega

theorem windowOf_eq_global {a : Nat} (h : a < 2 ^ 56) : windowOf a = some .global := if_pos h

theorem windowOf_eq_none {a : Nat} (hg : 2 ^ 56 ≤ a) (hl : a < localBase ∨ localBase + 2 ^ 24 ≤ a) (he : a < emberBase ∨ emberBase + 2 ^ 25 ≤ a) :
    windowOf a = none := by
  unfold windowOf
  rw [if_neg (by omega), if_neg (by omega), if_neg (by omega)]

theorem windowOf_ne_global {a : Nat} (h : 2 ^ 56 ≤ a) : windowOf a ≠ some .global := by
  unfold windowOf
  rw [if_neg (by omega)]
  split
  · decide
  · split <;> decide

variable {s : State} {w : Acc} {a : Word} {n align : Nat} {write : Bool}

theorem checkWindow_none (h : windowOf a.toNat = none) : checkWindow a n align = .error (.fault .windowNone a) := by
  simp [checkWindow, h]

theorem checkWindow_straddle {x : Win} (h : windowOf a.toNat = some x) (hn : windowOf (a.toNat + (n - 1)) ≠ some x) :
    checkWindow a n align = .error (.fault .windowStraddle a) := by
  simp [checkWindow, h, hn]

theorem checkWindow_align {x : Win} (h : windowOf a.toNat = some x) (hn : windowOf (a.toNat + (n - 1)) = some x) (ha : a.toNat % align ≠ 0) :
    checkWindow a n align = .error (.fault .align a) := by
  simp [checkWindow, h, hn, ha]

theorem checkWindow_ok {x : Win} (h : windowOf a.toNat = some x) (hn : windowOf (a.toNat + (n - 1)) = some x) (ha : a.toNat % align = 0) :
    checkWindow a n align = .ok x := by
  simp [checkWindow, h, hn, ha]

/-! ### Where the bytes lie -/

/-- The windows are checked before anything else. -/
theorem resolve_of_checkWindow {e : Stop} (h : checkWindow a n align = .error e) : resolve s w a n align write = .error e := by
  simp [resolve, place, h]

/-- An access whose bytes lie where no translation puts them waits for no overflow task (R86). -/
theorem resolve_of_not_global (h : windowOf a.toNat ≠ some .global) : resolve s w a n align write = place s w a n align write := by
  unfold resolve
  split
  · next he => rw [he]
  · next he => rw [he, if_neg fun hc => h hc.1]

/-- The local addresses that no local memory has (R73). -/
def NoLocal (w : Acc) (la n : Nat) : Prop := la.testBit 19 = true ∨ (la + (n - 1)).testBit 19 = true ∨ 1032 ≤ w.core

theorem place_noLocal (h : checkWindow a n align = .ok .local) (hn : NoLocal w (a.toNat - localBase) n) :
    place s w a n align write = .error (.fault .lmAddr a) := by
  simp only [place, h]
  exact if_pos hn

theorem place_local_stop {e : Stop} (h : checkWindow a n align = .ok .local) (hn : ¬ NoLocal w (a.toNat - localBase) n)
    (hp : peerStop s w.core (localCore w.core (a.toNat - localBase)) w.ctx a = some e) : place s w a n align write = .error e := by
  simp only [place, h, hp]
  exact if_neg hn

theorem place_local_ok (h : checkWindow a n align = .ok .local) (hn : ¬ NoLocal w (a.toNat - localBase) n)
    (hp : peerStop s w.core (localCore w.core (a.toNat - localBase)) w.ctx a = none) :
    place s w a n align write = .ok ((List.range n).map (fun i =>
      ⟨localKey (localCore w.core (a.toNat - localBase)) ((a.toNat - localBase) % 2 ^ 19 + i), false⟩), s) := by
  simp only [place, h, hp]
  exact if_neg hn

/-- Bit 19 of a local address is that of its offset in the 1 MiB of a core (R73). -/
theorem testBit_19_iff (x : Nat) : x.testBit 19 = true ↔ 2 ^ 19 ≤ x % 2 ^ 20 := by
  rw [Nat.testBit_eq_decide_div_mod_eq]
  simp only [decide_eq_true_eq]
  omega



theorem peerStop_none {me k : Nat} {ctx : CtxId} {fa : Word}
    (h : k = me ∨ (getCore s k).owner = some ctx ∧ (getCore s k).clearing = false) : peerStop s me k ctx fa = none := by
  unfold peerStop
  obtain h | ⟨ho, hc⟩ := h
  · rw [if_pos h]
  · simp [ho, hc]

theorem peerStop_owner {me k : Nat} {ctx : CtxId} {fa : Word} (hk : k ≠ me) (ho : (getCore s k).owner ≠ some ctx) :
    peerStop s me k ctx fa = some (.fault .pagePerm fa) := by
  simp [peerStop, hk, ho]

theorem peerStop_clearing {me k : Nat} {ctx : CtxId} {fa : Word} (hk : k ≠ me) (ho : (getCore s k).owner = some ctx)
    (hc : (getCore s k).clearing = true) : peerStop s me k ctx fa = some (.wait .memory) := by
  simp [peerStop, hk, ho, hc]

theorem localAddressesResolve : LocalAddressesResolve := by
  intro s w a n align write hn0 _ _ hcore hlo hhi la peer
  have h0 : windowOf a.toNat = some .local := windowOf_eq_local hlo (by omega)
  have h1 : windowOf (a.toNat + (n - 1)) = some .local := windowOf_eq_local (by omega) (by omega)
  have hwin : a.toNat % align = 0 → checkWindow a n align = .ok .local := checkWindow_ok h0 h1
  have hplace : resolve s w a n align write = place s w a n align write := resolve_of_not_global (by rw [h0]; decide)
  refine ⟨fun ha => resolve_of_checkWindow (checkWindow_align h0 h1 ha), fun ha hbit => ?spare, fun ha hroom => ?bytes⟩
  case spare => rw [hplace, place_noLocal (hwin ha) (.inl hbit)]
  case bytes =>
    have hin : ¬ NoLocal w la n := by
      rw [NoLocal, testBit_19_iff, testBit_19_iff]
      omega
    rw [hplace]
    exact ⟨fun hp => place_local_ok (hwin ha) hin (peerStop_none hp), fun hk ho => place_local_stop (hwin ha) hin (peerStop_owner hk ho),
      fun hk ho hc => place_local_stop (hwin ha) hin (peerStop_clearing hk ho hc)⟩

theorem windowFaultsComeFirst : WindowFaultsComeFirst := by
  intro s w a n align write _
  refine ⟨fun hg hl he => ?none, fun hin hout htop => ?straddle⟩
  case none => exact resolve_of_checkWindow (checkWindow_none (windowOf_eq_none hg hl he))
  case straddle => exact resolve_of_checkWindow (checkWindow_straddle (windowOf_eq_global hin) (windowOf_ne_global (by omega)))

/-- Settles O15: the windows' checks come first, and a local address names its core by bits 20 to 23. -/
theorem addressesResolve : Obligations.AddressesResolve := ⟨localAddressesResolve, windowFaultsComeFirst⟩

end Sys2Proof.Machine.AddressLaws
end

section
/-!
What a matrix command changes (R87, R257 to R261): MatrixCommandsKeepToTheirCore.
-/
set_option Elab.async false
namespace Sys2Proof.Machine.MatrixLaws

variable {s u : State} {k : Nat} {m : MatrixCmd}

/-! ### Where a command's results go -/

/-- The results of a command: its core's accumulators and latch, or bytes of its core's local memory. -/
inductive KeepsToCore (s : State) (k : Nat) : State → Prop
  | inCore (acc : List (Nat × BitVec 32)) (latch : Option Latch) : KeepsToCore s k (modCore s k fun c => { c with acc := acc, latch := latch })
  | inLocal (l : List (Nat × Byte)) (hl : ∀ p ∈ l, localKey k 0 ≤ p.1 ∧ p.1 < localKey (k + 1) 0) :
      KeepsToCore s k { s with mem := memSetAll s.mem l }

theorem KeepsToCore.of_modCore {f : Core → Core}
    (hf : f (getCore s k) = { getCore s k with acc := (f (getCore s k)).acc, latch := (f (getCore s k)).latch }) :
    KeepsToCore s k (modCore s k f) := by
  have he : modCore s k f = modCore s k fun c => { c with acc := (f (getCore s k)).acc, latch := (f (getCore s k)).latch } := by
    simp only [modCore]
    rw [hf]
  exact he ▸ .inCore _ _

theorem exists_of_bind_eq_ok {ε α β : Type} {x : Except ε α} {f : α → Except ε β} {b : β} (h : (x >>= f) = .ok b) :
    ∃ a, x = .ok a ∧ f a = .ok b := by
  cases x with
  | error e => cases h
  | ok a => exact ⟨a, rfl, h⟩

/-- An operand of an engine ends within its core's local memory. -/
theorem engineLocal_room {a : Word} {n align off : Nat} (h : engineLocal k a n align = .ok off) : off + n ≤ 2 ^ 19 := by
  unfold engineLocal at h
  split at h
  · cases h
  · cases h
  · split at h
    · next ho =>
      obtain rfl := Except.ok.inj h
      unfold ownLocal at ho
      grind
    · cases h

theorem KeepsToCore.copyOut (h : copyOut s k m = .ok u) : KeepsToCore s k u := by
  unfold Machine.copyOut at h
  split at h
  · cases h
  · split at h
    · cases h
    · obtain ⟨off, hoff, hu⟩ := exists_of_bind_eq_ok h
      obtain rfl := Except.ok.inj hu
      have hroom := engineLocal_room hoff
      refine .inLocal _ fun p hp => ?_
      obtain ⟨⟨b, i⟩, hi, rfl⟩ := List.mem_map.1 hp
      have := (List.mem_zipIdx hi).2.1
      simp only [localKey]
      omega

theorem KeepsToCore.copyIn (h : copyIn s k m = .ok u) : KeepsToCore s k u := by
  unfold Machine.copyIn at h
  split at h
  · cases h
  · dsimp only at h
    split at h
    · obtain rfl := Except.ok.inj h
      exact .of_modCore rfl
    · obtain ⟨off, _, hu⟩ := exists_of_bind_eq_ok h
      obtain rfl := Except.ok.inj hu
      exact .of_modCore rfl

theorem KeepsToCore.multiply {ta tb : Ty} (h : multiply s k ta tb m = .ok u) : KeepsToCore s k u := by
  unfold Machine.multiply at h
  split at h
  · cases h
  · split at h
    · cases h
    · obtain ⟨rows, _, hu⟩ := exists_of_bind_eq_ok h
      obtain rfl := Except.ok.inj hu
      exact .of_modCore rfl

theorem KeepsToCore.performMatrix (h : performMatrix s k m = .ok u) : KeepsToCore s k u := by
  unfold Machine.performMatrix at h
  split at h
  · obtain ⟨off, _, hu⟩ := exists_of_bind_eq_ok h
    obtain rfl := Except.ok.inj hu
    exact .of_modCore rfl
  · exact .multiply h
  · exact .copyOut h
  · exact .copyOut h
  · exact .copyOut h
  · exact .copyIn h
  · exact .copyIn h
  · obtain rfl := Except.ok.inj h
    exact .inLocal [] fun _ hp => nomatch hp

theorem KeepsToCore.other_cores (h : KeepsToCore s k u) {j : Nat} (hj : j ≠ k) : getCore u j = getCore s j := by
  cases h with
  | inCore => exact (getCore_modCore ..).trans (if_neg hj)
  | inLocal => rfl

theorem KeepsToCore.own_core (h : KeepsToCore s k u) :
    getCore u k = { getCore s k with acc := (getCore u k).acc, latch := (getCore u k).latch } := by
  cases h with
  | inCore acc latch =>
    have hid := getCore_id s k
    rw [getCore_modCore, if_pos rfl]
    generalize getCore s k = c at hid ⊢
    subst hid
    rfl
  | inLocal => rfl

theorem KeepsToCore.other_bytes (h : KeepsToCore s k u) (hs : Sound s) {j : Nat} (hj : j < localKey k 0 ∨ localKey (k + 1) 0 ≤ j) :
    memGet u.mem j = memGet s.mem j := by
  cases h with
  | inCore => rw [modCore_mem]
  | inLocal l hl =>
    refine memGet_memSetAll_other hs.1 l fun hm => ?_
    obtain ⟨p, hp, rfl⟩ := List.mem_map.1 hm
    have := hl p hp
    omega

/-! ### MZERO -/

theorem assocGet_filter {α : Type} (l : List (Nat × α)) (k j : Nat) :
    assocGet (l.filter fun p => p.1 != k) j = if j = k then none else assocGet l j := by
  induction l <;> grind [assocGet]

theorem accGet_accSet_zero (l : List (Nat × BitVec 32)) (k j : Nat) : accGet (accSet l k 0) j = if j = k then 0 else accGet l j := by
  simp only [accGet, accSet, if_pos, assocGet_filter]
  split <;> rfl

theorem accGet_zeroed (es : List Nat) (l : List (Nat × BitVec 32)) (j : Nat) :
    accGet (es.foldl (fun acc e => accSet acc e 0) l) j = if j ∈ es then 0 else accGet l j := by
  induction es generalizing l with
  | nil => simp
  | cons e r ih => grind [accGet_accSet_zero]

/-- The entries that a placement names (R257, R261). -/
theorem mem_copyEntries (hp : placed m (nblk m.rcd.d + 1) = true) {row col : Nat} (hc : col < 256) :
    accKey row col ∈ copyEntries m ↔ row0 m.rcd.d ≤ row ∧ row ≤ row0 m.rcd.d + m.hm1 ∧ 32 * cblk m.rcd.d ≤ col ∧
      col < 32 * (cblk m.rcd.d + nblk m.rcd.d + 1) := by
  have hwidth : cblk m.rcd.d + (nblk m.rcd.d + 1) ≤ 8 := by simp_all [placed]
  simp only [copyEntries, accKey, List.mem_flatMap, List.mem_map, List.mem_range]
  constructor
  · rintro ⟨i, hi, j, hj, h⟩
    omega
  · rintro ⟨h1, h2, h3, h4⟩
    exact ⟨row - row0 m.rcd.d, by omega, col - 32 * cblk m.rcd.d, by omega, by omega⟩

theorem performMatrix_mzero (hop : m.op = .mzero) (h : performMatrix s k m = .ok u) :
    placed m (nblk m.rcd.d + 1) = true ∧
      u = modCore s k fun c => { c with acc := (copyEntries m).foldl (fun acc e => accSet acc e 0) c.acc } := by
  simp only [performMatrix, hop, copyIn] at h
  split at h
  · cases h
  · next hp => exact ⟨by simpa using hp, (Except.ok.inj h).symm⟩

/-- Settles O32: each command changes its core's accumulators and latch, or bytes of its local memory; MZERO's entries are those of its
placement. -/
theorem matrixCommandsKeepToTheirCore : Obligations.MatrixCommandsKeepToTheirCore := by
  intro s u k m hs h
  have hk := KeepsToCore.performMatrix h
  refine ⟨fun j hj => hk.other_cores hj, hk.own_core, fun j hj => hk.other_bytes hs hj, fun hop => ?_⟩
  obtain ⟨hp, rfl⟩ := performMatrix_mzero hop h
  have hrows : row0 m.rcd.d + m.hm1 < 128 := by
    simp only [placed, Bool.and_eq_true, decide_eq_true_eq] at hp
    omega
  refine ⟨hrows, modCore_mem .., by simp [getCore_modCore], fun row col hc => ?_⟩
  rw [getCore_modCore, if_pos rfl, accGet_zeroed]
  simp only [mem_copyEntries hp hc]

end Sys2Proof.Machine.MatrixLaws
end

section
/-!
What the memory system leaves unchanged (R80 to R86): every operation on L1 lines, stores and directories changes lines, memory, the directories
and their requests, what comes next and the free values, and nothing else.
-/
set_option Elab.async false
namespace Sys2Proof.Machine.LineLaws

variable {α : Type} {v : Core → α} {s t u : State} {k j : Nat}

/-! ### Cores alike in a view of them -/

/-- The state without what the memory system changes. -/
def beyond (s : State) : State :=
  { s with core := Core.reset s.core.id, rest := [], mem := [], dirReqs := Vector.replicate 4 [], dirs := Vector.replicate 4 []
           agenda := [], free := 0 }

theorem eq_of_beyond_eq (h : beyond t = beyond s) :
    t = { s with core := t.core, rest := t.rest, mem := t.mem, dirReqs := t.dirReqs, dirs := t.dirs, agenda := t.agenda, free := t.free } := by
  cases s
  cases t
  simp only [beyond, State.mk.injEq] at h ⊢
  tauto
theorem focus_of_beyond_eq (h : beyond t = beyond s) : t.core.id = s.core.id := by
  have hid := congrArg (fun u : State => u.core.id) h
  exact hid

theorem beyond_setCore (s : State) (c : Core) : beyond (setCore s c) = beyond s := by
  unfold setCore
  split
  next h => simp only [beyond, h]
  next => rfl
theorem beyond_modCore (s : State) (k : Nat) (f : Core → Core) : beyond (modCore s k f) = beyond s := beyond_setCore s _

/-- The cores agree in a view of them, and the device outside the memory system is the same. -/
structure Alike (v : Core → α) (s t : State) : Prop where
  cores : ∀ j, v (getCore t j) = v (getCore s j)
  others : beyond t = beyond s

/-- A view that does not show a core's L1 lines. -/
def HidesLines (v : Core → α) : Prop := ∀ c l, v { c with l1 := l } = v c
/-- A view that does not show a core's store buffer. -/
def HidesStores (v : Core → α) : Prop := ∀ c l, v { c with storeBuf := l } = v c
/-- A change of a core's L1 lines alone. -/
def LinesOnly (f : Core → Core) : Prop := ∀ c, f c = { c with l1 := (f c).l1 }

/-- A core without its lines. -/
def lineless (c : Core) : Core := { c with l1 := [] }
/-- A core without its lines and its store buffer. -/
def storeless (c : Core) : Core := { c with l1 := [], storeBuf := [] }

theorem hidesLines_lineless : HidesLines lineless := fun _ _ => rfl
theorem hidesLines_storeBuf : HidesLines Core.storeBuf := fun _ _ => rfl
theorem eq_of_lineless_eq {c d : Core} (h : lineless d = lineless c) : d = { c with l1 := d.l1 } := by
  cases c
  cases d
  simpa [lineless] using h

theorem Alike.refl : Alike v s s := ⟨fun _ => rfl, rfl⟩
theorem Alike.trans (h : Alike v s t) (h' : Alike v t u) : Alike v s u :=
  ⟨fun j => (h'.cores j).trans (h.cores j), h'.others.trans h.others⟩
theorem Alike.foldl {β : Type} {f : State → β → State} (h : Alike v s t) (hf : ∀ t x, Alike v s t → Alike v s (f t x)) (l : List β) :
    Alike v s (l.foldl f t) := by
  induction l generalizing t with
  | nil => exact h
  | cons x l ih => exact ih (hf _ x h)
/-- What does not touch the cores. -/
theorem Alike.of_cores (h : Alike v s t) (hc : u.core = t.core := by rfl) (hr : u.rest = t.rest := by rfl) (ho : beyond u = beyond t := by rfl) :
    Alike v s u :=
  ⟨fun j => by rw [← h.cores j]; simp only [getCore, hc, hr], ho.trans h.others⟩
theorem Alike.after_modCore {f : Core → Core} (h : Alike v s t) (hf : v { f (getCore t k) with id := k } = v (getCore t k)) :
    Alike v s (modCore t k f) := by
  refine ⟨fun j => ?_, (beyond_modCore t k f).trans h.others⟩
  rw [getCore_modCore]
  split
  next hj => rw [hj, hf, h.cores]
  next => exact h.cores j

theorem numbered_eq {c : Core} (h : c.id = k) : ({ c with id := k } : Core) = c := by
  subst h
  rfl

/-- A core after its lines were changed. -/
theorem getCore_modCore_lines {f : Core → Core} (hf : LinesOnly f) :
    getCore (modCore s k f) j = if j = k then f (getCore s k) else getCore s j := by
  rw [getCore_modCore, numbered_eq (by rw [hf, getCore_id])]

theorem Alike.after_modLines (hv : HidesLines v) {f : Core → Core} (h : Alike v s t) (hf : LinesOnly f) : Alike v s (modCore t k f) := by
  refine ⟨fun j => ?_, (beyond_modCore t k f).trans h.others⟩
  rw [getCore_modCore_lines hf]
  split
  next hj => rw [hj, hf, hv, h.cores]
  next => exact h.cores j

/-- A core under a number. -/
def numbered (n : Nat) (c : Core) : Core := { c with id := n }

theorem assocGet_map (f : Core → Core) (l : List (Nat × Core)) : assocGet (l.map fun p => (p.1, f p.2)) j = (assocGet l j).map f := by
  induction l with
  | nil => rfl
  | cons p l ih =>
    simp only [List.map_cons, assocGet]
    split
    · rfl
    · exact ih

/-- A core after every listed core was changed by what keeps a core's number and a core at reset. -/
theorem getCore_mapCores {f : Core → Core} (hi : ∀ c n, f (numbered n c) = numbered n (f c)) (h0 : ∀ n, f (Core.reset n) = Core.reset n) :
    getCore (mapCores s f) j = f (getCore s j) := by
  have hid : (f s.core).id = s.core.id := by
    have h := hi s.core s.core.id
    have h' : (f (numbered s.core.id s.core)).id = s.core.id := by rw [h]; rfl
    exact h'
  unfold getCore
  simp only [mapCores_core, hid]
  split
  · rfl
  · change numbered j ((assocGet (s.rest.map fun p => (p.1, f p.2)) j).getD (Core.reset j)) = f (numbered j ((assocGet s.rest j).getD (Core.reset j)))
    rw [hi, assocGet_map]
    cases assocGet s.rest j with
    | none => exact congrArg (numbered j) (h0 j).symm
    | some c => rfl

end Sys2Proof.Machine.LineLaws
end

section
/-!
What each operation of the L1, the store buffer and the directories leaves unchanged (R80 to R86, R222, R264).
-/
set_option Elab.async false
namespace Sys2Proof.Machine.LineLaws

variable {α : Type} {v : Core → α} {s t : State} {k j line d list : Nat} {ctx : CtxId}

/-! ### The directories -/

theorem Alike.after_putDir {l : List DirEntry} (h : Alike v s t) : Alike v s (putDir t d l) := h.of_cores
theorem Alike.after_askDir {r : DirReq} (h : Alike v s t) : Alike v s (askDir t d r) := h.of_cores
theorem Alike.with_mem {m : List Host.Cell} (h : Alike v s t) : Alike v s { t with mem := m } := h.of_cores
theorem Alike.after_modMask {f : Nat → Nat} (h : Alike v s t) : Alike v s (modMask t k list f) := by
  unfold modMask
  split
  · exact h
  · exact h.with_mem
theorem Alike.after_dropEntry (h : Alike v s t) : Alike v s (dropEntry t d line) := by
  unfold dropEntry
  refine Alike.after_putDir ?_
  split
  · split
    · exact h.after_modMask
    · exact h
  · exact h
theorem Alike.after_removeSharer (h : Alike v s t) : Alike v s (removeSharer t k line) := by
  unfold removeSharer
  dsimp only
  split
  · exact h
  · split
    · exact h
    · split
      · exact h
      · split
        · exact h.after_modMask
        · exact h.after_putDir

/-! ### Writes at the homes, and evictions -/

/-- The lines that a recall leaves in a core. -/
def unrecalled (lines : List Nat) (c : Core) : List Line := c.l1.filter fun l => !(l.zero && !l.st.remote && lines.contains l.addr)

theorem getCore_recallZero (s : State) (lines : List Nat) (j : Nat) :
    getCore (recallZero s lines) j = getCore s j ∨ getCore (recallZero s lines) j = { getCore s j with l1 := unrecalled lines (getCore s j) } := by
  unfold recallZero
  split
  · exact .inr (getCore_mapCores (fun _ _ => rfl) (fun _ => rfl))
  · exact .inl rfl
theorem beyond_recallZero (s : State) (lines : List Nat) : beyond (recallZero s lines) = beyond s := by
  unfold recallZero
  split <;> rfl
@[simp] theorem recallZero_mem (s : State) (lines : List Nat) : (recallZero s lines).mem = s.mem := by
  unfold recallZero
  split <;> rfl
@[simp] theorem recallZero_dirs (s : State) (lines : List Nat) : (recallZero s lines).dirs = s.dirs := by
  unfold recallZero
  split <;> rfl
@[simp] theorem recallZero_agenda (s : State) (lines : List Nat) : (recallZero s lines).agenda = s.agenda := by
  unfold recallZero
  split <;> rfl

section
variable (hv : HidesLines v)
include hv

theorem Alike.after_recallZero {lines : List Nat} (h : Alike v s t) : Alike v s (recallZero t lines) := by
  refine ⟨fun j => ?_, (beyond_recallZero t lines).trans h.others⟩
  obtain hj | hj := getCore_recallZero t lines j
  · rw [hj, h.cores]
  · rw [hj, hv, h.cores]
theorem Alike.after_homePut {l : List (Nat × Byte)} (h : Alike v s t) : Alike v s (homePut t l) := h.with_mem.after_recallZero hv
theorem Alike.after_putNum {key n x : Nat} (h : Alike v s t) : Alike v s (putNum t key n x) := h.with_mem.after_recallZero hv
theorem Alike.after_writeHome {l : List (Nat × Byte)} (h : Alike v s t) : Alike v s (writeHome t k ctx l) := by
  unfold writeHome
  dsimp only
  split
  · exact h.after_homePut hv
  · exact (h.after_homePut hv).of_cores
theorem Alike.after_writeBackLine (h : Alike v s t) : Alike v s (writeBackLine t k line) := by
  unfold writeBackLine
  split
  · exact h.after_writeHome hv
  · exact h
theorem Alike.after_dropLine (h : Alike v s t) : Alike v s (dropLine t k line) := h.after_modLines hv fun _ => rfl
theorem Alike.after_evictLine (h : Alike v s t) : Alike v s (evictLine t k line) :=
  ((h.after_writeBackLine hv).after_dropLine hv).after_removeSharer
theorem Alike.after_makeWay {zero : Bool} (h : Alike v s t) : Alike v s (makeWay t k line zero) := by
  unfold makeWay
  dsimp only
  split
  · exact Alike.after_evictLine hv h.of_cores
  · exact h
theorem Alike.after_shedLines {p : Line → Bool} (h : Alike v s t) : Alike v s (shedLines t k p) :=
  h.foldl (fun _ _ ht => ht.after_evictLine hv) _

/-! ### Stores, releases, and writes of engines -/

theorem Alike.after_readyRemote {zero : Bool} (h : Alike v s t) : Alike v s (readyRemote t k ctx zero line) := by
  unfold readyRemote
  dsimp only
  split
  · exact ((h.after_makeWay hv).after_writeBackLine hv).after_modLines hv fun _ => rfl
  · exact h.after_makeWay hv
theorem Alike.after_ownStore {zero : Bool} (h : Alike v s t) : Alike v s (ownStore t k zero ctx line) :=
  ((h.after_makeWay hv).after_modLines hv fun _ => rfl).after_askDir

omit hv in
theorem withLines_eq {c e : Core} {l : List Line} (h : e = { c with l1 := e.l1 }) : ({ e with l1 := l } : Core) = { c with l1 := l } := by
  rw [h]

omit hv in
theorem linesOnly_foldl {β : Type} {f : Core → β → Core} (hf : ∀ x, LinesOnly fun c => f c x) (l : List β) : LinesOnly fun c => l.foldl f c := by
  induction l with
  | nil => exact fun _ => rfl
  | cons x l ih =>
    intro c
    exact (ih (f c x)).trans (withLines_eq (hf x c))

omit hv in
theorem linesOnly_putRemote (b : Nat × Byte) : LinesOnly fun c => putRemote c ctx b := fun _ => rfl

/-- What a performed store leaves in its core's remote lines. -/
def storeInLines (p : PendStore) (remote : List (Nat × Byte)) (c : Core) : Core :=
  let c1 := remote.foldl (fun acc b => putRemote acc p.ctx b) c
  if p.zline then { c1 with l1 := c1.l1.map fun l => if remote.any (fun b => b.1 / 128 == l.addr) then { l with zero := true } else l } else c1

omit hv in
theorem linesOnly_storeInLines (p : PendStore) (remote : List (Nat × Byte)) : LinesOnly (storeInLines p remote) := by
  intro c
  have h := linesOnly_foldl (linesOnly_putRemote (ctx := p.ctx)) remote c
  unfold storeInLines
  dsimp only at h ⊢
  split
  · rw [h]
  · exact h

omit hv in
/-- A performed store: its bytes at the homes, room for its remote lines, its bytes in them, and its own-homed lines. -/
theorem performStore_eq (s : State) (k : Nat) (p : PendStore) :
    performStore s k p =
      (((p.bytes.filter fun b => !(p.toLine k b)).filter fun b => decide (b.1 < 2 ^ 48) && !(p.uncached.contains b.1)).map
        fun b => b.1 / 128).dedup.foldl (fun acc line => ownStore acc k p.zline p.ctx line)
        (modCore ((((p.bytes.filter (p.toLine k)).map fun b => b.1 / 128).dedup).foldl (fun acc line => readyRemote acc k p.ctx p.zline line)
          (writeHome s k p.ctx (p.bytes.filter fun b => !(p.toLine k b)))) k (storeInLines p (p.bytes.filter (p.toLine k)))) := rfl

theorem Alike.after_performStore {p : PendStore} (h : Alike v s t) : Alike v s (performStore t k p) := by
  rw [performStore_eq]
  refine Alike.foldl ?_ (fun _ _ ht => ht.after_ownStore hv) _
  refine Alike.after_modLines hv ?_ (linesOnly_storeInLines p _)
  exact (h.after_writeHome hv).foldl (fun _ _ ht => ht.after_readyRemote hv) _
theorem Alike.after_flushRemote (h : Alike v s t) : Alike v s (flushRemote t k) := h.foldl (fun _ _ ht => ht.after_writeHome hv) _

omit hv in
theorem linesOnly_unitPut (b : Nat × Byte) : LinesOnly fun c => (match remoteLine c b.1 with
    | some l => putLine c { l.put (b.1 % 128) b.2 false with st := l.st, dirty := l.dirty &&& ~~~(BitVec.ofNat 128 (2 ^ (b.1 % 128))) }
    | none => c) := by
  intro c
  dsimp only
  split <;> rfl
theorem Alike.after_unitPut {l : List (Nat × Byte)} (h : Alike v s t) : Alike v s (unitPut t k l) := by
  unfold unitPut
  dsimp only
  refine Alike.after_modLines hv ?_ (linesOnly_foldl linesOnly_unitPut l)
  exact (h.after_homePut hv).foldl (fun _ _ ht => ht.after_makeWay hv) _

variable (hw : HidesStores v)
include hw

omit hv in
theorem Alike.after_takeStores {l : List PendStore} (h : Alike v s t) : Alike v s (modCore t k fun c => { c with storeBuf := l }) := by
  refine h.after_modCore ?_
  rw [numbered_eq (c := { getCore t k with storeBuf := l }) (getCore_id t k), hw]
theorem Alike.after_drainOne (h : Alike v s t) : Alike v s (drainOne t k) := by
  unfold drainOne
  split
  · exact h
  · exact (h.after_takeStores hw).after_performStore hv
theorem Alike.after_drainN (n : Nat) (h : Alike v s t) : Alike v s (drainN t k n) := by
  induction n generalizing t with
  | zero => exact h
  | succ n ih => exact ih (h.after_drainOne hv hw)
theorem Alike.after_drainAll (h : Alike v s t) : Alike v s (drainAll t k) := h.after_drainN hv hw _
theorem Alike.after_drainEvery (h : Alike v s t) : Alike v s (drainEvery t) := h.foldl (fun _ _ ht => ht.after_drainAll hv hw) _
theorem Alike.after_release {sc : Scope} (h : Alike v s t) : Alike v s (release t k sc) := by
  unfold release
  dsimp only
  split
  · exact ((h.after_drainAll hv hw).after_flushRemote hv).after_modLines hv fun _ => rfl
  · exact h.after_drainAll hv hw

end

/-! ### Store buffers that are performed -/

theorem storeBuf_drainOne : (getCore (drainOne s k) k).storeBuf = (getCore s k).storeBuf.tail := by
  unfold drainOne
  split
  next h => rw [h, List.tail_nil]
  next p r h => rw [(Alike.refl.after_performStore hidesLines_storeBuf).cores, getCore_modCore, if_pos rfl, h, List.tail_cons]
theorem storeBuf_drainOne_other (hj : j ≠ k) : (getCore (drainOne s k) j).storeBuf = (getCore s j).storeBuf := by
  unfold drainOne
  split
  · rfl
  · rw [(Alike.refl.after_performStore hidesLines_storeBuf).cores, getCore_modCore, if_neg hj]
theorem storeBuf_drainN (n : Nat) : (getCore (drainN s k n) k).storeBuf = (getCore s k).storeBuf.drop n := by
  induction n generalizing s with
  | zero => rfl
  | succ n ih => rw [drainN, ih, storeBuf_drainOne, List.drop_tail]
theorem storeBuf_drainN_other (hj : j ≠ k) (n : Nat) : (getCore (drainN s k n) j).storeBuf = (getCore s j).storeBuf := by
  induction n generalizing s with
  | zero => rfl
  | succ n ih => rw [drainN, ih, storeBuf_drainOne_other hj]
theorem storeBuf_drainAll : (getCore (drainAll s k) k).storeBuf = [] := by
  rw [drainAll, storeBuf_drainN, List.drop_length]
theorem storeBuf_drainAll_other (hj : j ≠ k) : (getCore (drainAll s k) j).storeBuf = (getCore s j).storeBuf := storeBuf_drainN_other hj _
theorem storeBuf_release {sc : Scope} : (getCore (release s k sc) k).storeBuf = [] := by
  unfold release
  dsimp only
  split
  · have h : Alike Core.storeBuf (drainAll s k) _ := ((Alike.refl).after_flushRemote hidesLines_storeBuf (k := k)).after_modLines hidesLines_storeBuf (k := k)
      (f := fun c => { c with l1 := c.l1.map fun l => if l.st = .rd then { l with st := .rc, dirty := 0 } else l }) fun _ => rfl
    rw [h.cores, storeBuf_drainAll]
  · exact storeBuf_drainAll

end Sys2Proof.Machine.LineLaws
end

section
/-!
What translations and the accesses of engines leave unchanged in the cores (R93, R138, R264): nothing but TLBs and L1 lines changes.
-/
set_option Elab.async false
namespace Sys2Proof.Machine.LineLaws

variable {α : Type} {v : Core → α} {s t u : State} {w : Acc} {write : Bool} {a fa : Word} {va n align len : Nat}

/-- The cores agree in a view of them. -/
def Seen (v : Core → α) (s t : State) : Prop := ∀ j, v (getCore t j) = v (getCore s j)
/-- A view that does not show a core's TLB. -/
def HidesTlb (v : Core → α) : Prop := ∀ c l, v { c with tlb := l } = v c

theorem Seen.refl : Seen v s s := fun _ => rfl
theorem Seen.trans (h : Seen v s t) (h' : Seen v t u) : Seen v s u := fun j => (h' j).trans (h j)

/-- The state without what a translation changes. -/
def untranslated (s : State) : State :=
  { s with core := Core.reset s.core.id, rest := [], mem := [], caches := Vector.replicate 5 [] }
/-- Nothing but TLBs, translation caches and memory has changed. -/
structure Translated (s t : State) : Prop where
  cores : ∀ j, getCore t j = { getCore s j with tlb := (getCore t j).tlb }
  others : untranslated t = untranslated s

theorem Translated.refl : Translated s s := ⟨fun _ => rfl, rfl⟩
theorem Translated.trans (h : Translated s t) (h' : Translated t u) : Translated s u := by
  refine ⟨fun j => ?_, h'.others.trans h.others⟩
  rw [h'.cores j, h.cores j]
theorem Translated.seen (hv : HidesTlb v) (h : Translated s t) : Seen v s t := by
  intro j
  rw [h.cores j, hv]
theorem Translated.with_mem {m : List Host.Cell} (h : Translated s t) : Translated s { t with mem := m } := ⟨h.cores, h.others⟩
theorem Translated.with_caches {c : Vector (List Tlb) 5} (h : Translated s t) : Translated s { t with caches := c } := ⟨h.cores, h.others⟩
theorem Translated.of_modTlb {k : Nat} {f : Core → List Tlb} : Translated s (modCore s k fun c => { c with tlb := f c }) := by
  refine ⟨fun j => ?_, ?_⟩
  · have hid : ({ getCore s k with tlb := f (getCore s k) } : Core).id = k := getCore_id s k
    rw [getCore_modCore, numbered_eq hid]
    split
    next hj => rw [hj]
    next => rfl
  · unfold modCore setCore
    split
    next h => simp only [untranslated, h]
    next => rfl

theorem translated_keepTlb {x : Tlb} : Translated s (keepTlb s w x) := by
  unfold keepTlb
  dsimp only
  split
  · refine Translated.with_caches ?_
    exact .of_modTlb
  · exact Translated.refl.with_caches

theorem translated_translate {r : Nat × Bool × State} (h : translate s w va n write fa = .ok r) : Translated s r.2.2 := by
  unfold translate at h
  split at h
  · cases h
  · dsimp only at h
    split_ifs at h
    · split at h
      · cases h
      · obtain rfl := Except.ok.inj h
        exact translated_keepTlb
    · split at h
      · cases h
      · obtain rfl := Except.ok.inj h
        exact Translated.refl.with_mem.trans translated_keepTlb

theorem translated_granules {r : List Spot × State} (h : granules s w write n va len = .ok r) : Translated s r.2 := by
  induction n generalizing s va len r with
  | zero =>
    obtain rfl := Except.ok.inj h
    exact .refl
  | succ n ih =>
    unfold granules at h
    split at h
    · obtain rfl := Except.ok.inj h
      exact .refl
    · dsimp only at h
      split at h
      · cases h
      next p hs s1 ht =>
      split at h
      · cases h
      next l s2 hg =>
      obtain rfl := Except.ok.inj h
      cases hr : granules s1 w write n (va + min len (2 ^ 16 - va % 2 ^ 16)) (len - min len (2 ^ 16 - va % 2 ^ 16)) with
      | error e => rw [hr] at hg; cases hg
      | ok x =>
        rw [hr, keeping_ok] at hg
        obtain rfl := Except.ok.inj hg
        have h2 := ih hr
        exact (translated_translate ht).trans h2

theorem translated_place {r : List Spot × State} (h : place s w a n align write = .ok r) : Translated s r.2 := by
  revert h
  fun_cases place s w a n align write
  case case2 => exact translated_granules
  case case5 | case7 => exact fun h => Except.ok.inj h ▸ .refl
  all_goals exact nofun

theorem translated_resolve {r : List Spot × State} (h : resolve s w a n align write = .ok r) : Translated s r.2 := by
  unfold resolve at h
  split at h
  · cases h
  next hp =>
    split at h
    · cases h
    · exact Except.ok.inj h ▸ translated_place hp

theorem translated_unitRead {r : List Byte × State} (h : unitRead s w a n align = .ok r) : Translated s r.2 := by
  unfold unitRead at h
  split at h
  · cases h
  next hp => exact Except.ok.inj h ▸ translated_resolve hp

theorem translated_beatDest {c : Copy} {rank q : Nat} {r : List Spot × State} (h : beatDest s w c rank q n = .ok r) : Translated s r.2 := by
  unfold beatDest at h
  split at h
  · exact Except.ok.inj h ▸ .refl
  · split at h
    · exact translated_resolve h
    · exact translated_resolve h

theorem ok_of_keeping {α : Type} {e : Eff α} {a : α} (h : keeping s e = .ok a) : e = .ok a := by
  cases e with
  | error x => cases h
  | ok b => exact h

/-- Moving the bytes of a beat: translations, then a write of the engine. -/
theorem moveBeat_moves {c : Copy} {b : Nat} {pick : Nat → Nat → Bool} {m : Nat × Nat × BitVec 64 × State} (h : moveBeat s c b pick = .ok m) :
    ∃ s1 k l, Translated s s1 ∧ m.2.2.2 = unitPut s1 k l := by
  unfold moveBeat at h
  dsimp only at h
  split at h
  · obtain ⟨⟨bytes, s1⟩, h1, h⟩ := MatrixLaws.exists_of_bind_eq_ok h
    obtain ⟨⟨dst, s2⟩, h2, h⟩ := MatrixLaws.exists_of_bind_eq_ok h
    obtain rfl := Except.ok.inj h
    exact ⟨s2, _, _, (translated_unitRead h1).trans (translated_beatDest (ok_of_keeping h2)), rfl⟩
  · obtain ⟨⟨bytes, s1⟩, h1, h⟩ := MatrixLaws.exists_of_bind_eq_ok h
    obtain ⟨⟨dst, s2⟩, h2, h⟩ := MatrixLaws.exists_of_bind_eq_ok h
    obtain rfl := Except.ok.inj h
    obtain ⟨-, rfl⟩ := Prod.mk.inj (Except.ok.inj h1)
    exact ⟨s2, _, _, translated_beatDest (ok_of_keeping h2), rfl⟩

end Sys2Proof.Machine.LineLaws
end

section
/-!
The copy engine starts, moves beats and finishes, and the vector queue drains (R79, R124, R153, R155, R264 to R267, R300): CopyEngine.
-/
set_option Elab.async false
namespace Sys2Proof.Machine.CopyLaws
open LineLaws

variable {s t u : State} {k i b n rank beat : Nat} {x y : Copy} {r : List Copy} {mask : BitVec 64} {aw : BitVec 24} {key : Nat}

theorem hidesTlb_flight : HidesTlb Core.flight := fun _ _ => rfl
theorem hidesLines_flight : HidesLines Core.flight := fun _ _ => rfl

/-! ### A command's start -/

theorem execCopyCmdAccept_waits (hnow : s.now = some (.copyCmdAccept k)) (hq : (getCore s k).cq = x :: r)
    (hw : engineWaits s k x.rcd = true) : exec .copyCmdAccept s = .next s := by
  change execCopyCmdAccept s = .next s
  simp only [execCopyCmdAccept, hnow, hq, hw, Bool.or_true, Bool.true_or, if_pos]

theorem execCopyCmdAccept_starts (hnow : s.now = some (.copyCmdAccept k)) (he : EngineReady s k x.rcd) (hq : (getCore s k).cq = x :: r)
    (hw : engineWaits s k x.rcd = false) (hf : (getCore s k).flight.length < 128)
    (hs : startCopy (modCore (drainAll s k) k fun c => { c with cq := r }) x = .ok y) (hb : beatCount y ≠ 0) :
    exec .copyCmdAccept s =
      .next (modCore (modCore (drainAll s k) k fun c => { c with cq := r }) k fun z => { z with flight := z.flight ++ [y] }) := by
  obtain ⟨hrun, hheld⟩ := he
  change execCopyCmdAccept s = _
  simp only [execCopyCmdAccept, hnow, hq, hw, hrun, hheld, Nat.not_le.2 hf, hs, hb, Bool.or_false, Bool.not_true, decide_false,
    Bool.false_eq_true, if_false]

theorem started_copy :
    let t := modCore (modCore (drainAll s k) k fun c => { c with cq := r }) k fun z => { z with flight := z.flight ++ [y] }
    (getCore t k).cq = r ∧ (getCore t k).flight = (getCore s k).flight ++ [y] ∧ (getCore t k).storeBuf = [] ∧ t.launches = s.launches := by
  have hd : Alike Core.flight s (drainAll s k) := Alike.refl.after_drainAll hidesLines_flight fun _ _ => rfl
  have hf : (getCore (drainAll s k) k).flight = (getCore s k).flight := hd.cores k
  have hl : (drainAll s k).launches = s.launches := by rw [eq_of_beyond_eq hd.others]
  simp [getCore_modCore, hf, hl, storeBuf_drainAll]

/-! ### A beat moved -/

/-- Moving the bytes of a beat leaves every copy in flight as it was. -/
theorem seen_moveBeat {pick : Nat → Nat → Bool} {m : Nat × Nat × BitVec 64 × State} (h : moveBeat s x b pick = .ok m) :
    Seen Core.flight s m.2.2.2 := by
  obtain ⟨s1, k, l, h1, hm⟩ := moveBeat_moves h
  rw [hm]
  exact (h1.seen hidesTlb_flight).trans (Alike.refl.after_unitPut hidesLines_flight).cores

/-- A copy whose beat was marked: its bytes and its place. -/
def marked (x : Copy) (b : Nat) : Copy := { x with done := x.done ++ [b], landed := assocDel x.landed b }
/-- The machine with a beat of copy i of core k marked and counted for its launch. -/
def markBeat (u : State) (k i : Nat) (x : Copy) (b n : Nat) : State :=
  let s1 := modCore u k fun c => { c with flight := c.flight.set i (marked x b) }
  tallyBeat s1 x (beatLpddr s1 x b n)

theorem execCopyBeatComplete_moves (hnow : s.now = some (.copyBeatComplete k i beat)) (he : EngineReady s k x.rcd)
    (hx : (getCore s k).flight[i]? = some x) (hend : copyEnded x = false) (hb : beat < 2 ^ 32)
    (hm : moveBeat s x (pickBeat x beat) (fun _ _ => true) = .ok (n, rank, mask, u)) :
    exec .copyBeatComplete s = .next (beatDone u k i x (pickBeat x beat) n rank) := by
  obtain ⟨hrun, hheld⟩ := he
  change execCopyBeatComplete s = _
  simp only [execCopyBeatComplete, hnow, hx, hend, hrun, hheld, Nat.mod_eq_of_lt hb, Nat.div_eq_of_lt hb, finishBeat, hm, Bool.false_and,
    Bool.or_false, Bool.not_true, Bool.false_eq_true, if_false, if_true]
  rfl

theorem beatDone_none (ha : cpAw x = none) : beatDone u k i x b n rank = markBeat u k i x b n := by
  simp only [beatDone, ha]
  rfl

theorem getCore_markBeat : getCore (markBeat u k i x b n) k = { getCore u k with flight := (getCore u k).flight.set i (marked x b) } :=
  (getCore_modCore u k k _).trans ((if_pos rfl).trans (numbered_eq (getCore_id u k)))

/-- An arrival word lies where it lay before the beat was marked. -/
theorem arrivalAt_markBeat {w : Acc} : arrivalAt (markBeat u k i x b n) w aw = arrivalAt u w aw := by
  have hp : ∀ j, (getCore (markBeat u k i x b n) j).owner = (getCore u j).owner ∧
      (getCore (markBeat u k i x b n) j).clearing = (getCore u j).clearing := by
    intro j
    by_cases hj : j = k
    · rw [hj, getCore_markBeat]
      exact ⟨rfl, rfl⟩
    · have h : getCore (markBeat u k i x b n) j = getCore u j := (getCore_modCore u k j _).trans (if_neg hj)
      rw [h]
      exact ⟨rfl, rfl⟩
  simp only [arrivalAt, peerStop, (hp _).1, (hp _).2]

theorem arrivalAt_engineAcc {s' : State} {o : OpRec} : arrivalAt s (engineAcc s' o) aw = arrivalAt s (engineAcc s o) aw := rfl

theorem beatDone_some (ha : cpAw x = some aw) (hk : arrivalAt u (engineAcc u x.rcd) (beatArrival x aw rank) = .ok key) :
    beatDone u k i x b n rank = arrive (markBeat u k i x b n) k key n x.scope := by
  have h : arrivalAt (markBeat u k i x b n) (engineAcc (markBeat u k i x b n) x.rcd) (beatArrival x aw rank) = .ok key := by
    rw [arrivalAt_markBeat, arrivalAt_engineAcc, hk]
  simp only [markBeat, marked] at h ⊢
  simp only [beatDone, ha, h]

/-! ### Arrival words (R153) -/

theorem arrivalStep_fields {word units : Nat} (hw : word < 2 ^ 64) :
    let count := field word 16 24 + units
    let target := field word 40 24
    let new := (arrivalStep word units).1
    field new 40 24 = target ∧
      field new 16 24 = (if target = 0 then min count (2 ^ 24 - 1) else count % target) ∧
      field new 0 16 = (if target = 0 then field word 0 16 else (field word 0 16 + count / target) % 2 ^ 16) ∧
      ((arrivalStep word units).2 = true ↔ target ≠ 0 ∧ target ≤ count) := by
  intro count target new
  have hlt : target < 2 ^ 24 := Nat.mod_lt _ (by decide)
  by_cases h0 : target = 0
  · have hnew : new = word / 2 ^ 40 * 2 ^ 40 + min count (2 ^ 24 - 1) * 2 ^ 16 + word % 2 ^ 16 := congrArg Prod.fst (if_pos h0)
    have hgen : (arrivalStep word units).2 = false := congrArg Prod.snd (if_pos h0)
    have hword : word / 2 ^ 40 % 2 ^ 24 = 0 := h0
    refine ⟨?_, ?_, ?_, by simp [hgen, h0]⟩
    · rw [h0]
      simp only [field]
      omega
    · rw [if_pos h0]
      simp only [field]
      omega
    · rw [if_pos h0]
      simp only [field]
      omega
  · have hnew : new = target * 2 ^ 40 + count % target * 2 ^ 16 + (word % 2 ^ 16 + count / target) % 2 ^ 16 := congrArg Prod.fst (if_neg h0)
    have hgen : (arrivalStep word units).2 = decide (target ≤ count) := congrArg Prod.snd (if_neg h0)
    have hmod : count % target < target := Nat.mod_lt _ (Nat.pos_of_ne_zero h0)
    refine ⟨?_, ?_, ?_, by simp [hgen, h0]⟩
    · simp only [field]
      omega
    · rw [if_neg h0]
      simp only [field]
      omega
    · rw [if_neg h0, hnew]
      simp only [field]
      omega

/-- A release with no store and no dirty line leaves memory as it is. -/
theorem release_mem {sc : Scope} (hb : (getCore s k).storeBuf = []) (hl : ∀ z ∈ (getCore s k).l1, z.st ≠ .rd) :
    (release s k sc).mem = s.mem := by
  have hd : drainAll s k = s := by
    unfold drainAll
    rw [hb]
    rfl
  have hf : flushRemote s k = s := by
    unfold flushRemote
    rw [List.filter_eq_nil_iff.2 fun z hz => by simpa using hl z hz]
    rfl
  unfold release
  rw [hd]
  dsimp only
  split
  · rw [hf, modCore_mem]
  · rfl

theorem arrive_mem {sc : Scope} (h : (arrivalStep (memRead s.mem key 8) n).2 = false ∨
    (getCore s k).storeBuf = [] ∧ ∀ z ∈ (getCore s k).l1, z.st ≠ .rd) :
    (arrive s k key n sc).mem = memWrite s.mem key 8 (arrivalStep (memRead s.mem key 8) n).1 := by
  unfold arrive
  dsimp only
  split
  next ht =>
    obtain hf | ⟨hb, hl⟩ := h
    · simp [hf] at ht
    · rw [release_mem hb hl]
  next => rfl

theorem arrive_storeBuf {sc : Scope} (h : (arrivalStep (memRead s.mem key 8) n).2 = true) :
    (getCore (arrive s k key n sc) k).storeBuf = [] := by
  unfold arrive
  dsimp only
  rw [if_pos h]
  exact storeBuf_release (s := s) (k := k) (sc := sc)

/-! ### A copy's end -/

theorem execCopyComplete_ends (hnow : s.now = some (.copyComplete k i)) (hx : (getCore s k).flight[i]? = some x) (hend : copyEnded x = true) :
    exec .copyComplete s = .next (copyGone (modCore s k fun c => { c with flight := dropAt c.flight i }) k x) := by
  change execCopyComplete s = _
  simp only [execCopyComplete, hnow, hx, hend, if_true]

theorem arriveSlots_flight (c : Core) (d : CopyDest) : (arriveSlots c d).flight = c.flight := by
  unfold arriveSlots
  split
  · rfl
  · split <;> rfl

/-! ### The vector queue -/

section
variable {e : VecCmd} {q pre post : List VecCmd} {todo : VecTodo} {h : Hdr} {ty : Ty} {d v : V}

theorem execVectorCmdTake_done (hnow : s.now = some (.vectorCmdTake k)) (hq : (getCore s k).vq = e :: q) (hh : workHeld s e.ctx e.lid = false)
    (hr : enginesRun s k = true) (ht : e.todo = none) :
    exec .vectorCmdTake s = .next (countDown (modCore s k fun c => { c with vq := q }) e.ctx e.lid 1) := by
  change execVectorCmdTake s = _
  simp only [execVectorCmdTake, hnow, hq, hh, hr, ht, Bool.not_true, Bool.or_false, Option.isSome_none, Bool.false_eq_true, if_false]

theorem execVectorCmdTake_turn (hnow : s.now = some (.vectorCmdTake k)) (hq : (getCore s k).vq = e :: q) (hh : workHeld s e.ctx e.lid = false)
    (hr : enginesRun s k = true) (ht : e.todo.isSome = true) : exec .vectorCmdTake s = .next { s with agenda := .vecTurn k :: s.agenda } := by
  change execVectorCmdTake s = _
  simp only [execVectorCmdTake, hnow, hq, hh, hr, ht, Bool.not_true, Bool.or_false, Bool.false_eq_true, if_false, if_true]

theorem vecTurn_performs (hv : vecReady s = some (pre, e, todo, post)) (hx : exec todo.instr (vecStart s e todo) = .next u) :
    vecTurn s = .next (vecEnd s u pre e todo post) := by
  simp only [vecTurn, hv, hx]

theorem issueRoom_ok {n : Nat} (hc : ∀ l ∈ s.launches, l.count + n < 2 ^ 32) : issueRoom s n = .ok () := by
  unfold issueRoom curLaunch getLaunch
  cases hf : s.launches.find? fun l => l.ctx == curCtx s && l.lid == curLid s with
  | none => rfl
  | some l =>
    have := hc l (List.mem_of_find?_eq_some hf)
    simp only [waitFor, decide_eq_true this, if_true]

theorem execVfabs_queued (hu : s.core.bank = .user) (hq : s.core.vq.length < 2) (hw : vecWaits s.core = true)
    (hc : ∀ l ∈ s.launches, l.count + 1 < 2 ^ 32) :
    exec (.vfabs h ty d v) s = .next (advance (pushVec s (some (vecTodo s.core (.vfabs h ty d v))))) := by
  change execVfabs h ty d v s = _
  simp only [execVfabs, vecFp1, vecOp, vecOpN, vector, hu, issueVec, Nat.not_le.2 hq, issueRoom_ok hc, hw, if_false]
  rfl

theorem pushVec_some {todo : VecTodo} :
    pushVec s (some todo) = countUp (onCore s fun c => { c with vq := c.vq ++ [{ vecDone s with todo := some todo }], vecIssued := c.vecIssued + 1 })
      (curCtx s) (curLid s) 1 := rfl

end

/-- A beat that moved: memory is as the move left it, and the copy has the beat marked. -/
theorem markBeat_moved (hx : (getCore s k).flight[i]? = some x) (hm : moveBeat s x b (fun _ _ => true) = .ok (n, rank, mask, u)) :
    (markBeat u k i x b n).mem = u.mem ∧ (getCore (markBeat u k i x b n) k).flight[i]? = some (marked x b) := by
  have hf : (getCore u k).flight = (getCore s k).flight := seen_moveBeat hm k
  refine ⟨modCore_mem u k _, ?_⟩
  rw [getCore_markBeat]
  dsimp only
  rw [hf, List.getElem?_set_self (List.getElem?_eq_some_iff.1 hx).1]

theorem copyComplete_leaves :
    let t := copyGone (modCore s k fun c => { c with flight := dropAt c.flight i }) k x
    (getCore t k).flight = dropAt (getCore s k).flight i ∧ t.mem = s.mem ∧ t.launches = (countDown s x.rcd.ctx x.rcd.lid 1).launches := by
  refine ⟨?_, by simp [copyGone], by simp [copyGone, countDown, modLaunch]⟩
  change (getCore (modCore _ k fun c => arriveSlots c x.dest) k).flight = _
  rw [getCore_modCore, if_pos rfl]
  change (arriveSlots _ x.dest).flight = _
  rw [arriveSlots_flight, getCore_modCore, if_pos rfl]

/-- Settles O33: each event of the copy engine and of the vector queue is its one step, and moving the bytes of a beat leaves every copy in flight
as it was. -/
theorem copyEngine : Obligations.CopyEngine := by
  intro s u k i beat n rank mask x y r e q pre post todo h ty d v aw key word units
  refine ⟨fun hnow _ hq hw => execCopyCmdAccept_waits hnow hq hw,
    fun hnow he hq hw hf hs hb => ⟨_, execCopyCmdAccept_starts hnow he hq hw hf hs hb, started_copy⟩,
    fun hnow he hx hend hb ha hm => ⟨_, execCopyBeatComplete_moves hnow he hx hend hb hm, ?_⟩,
    fun hw => arrivalStep_fields hw,
    fun hnow he hx hend hb ha hm hk => ⟨_, execCopyBeatComplete_moves hnow he hx hend hb hm, ?_⟩,
    fun hnow hx hend => ⟨_, execCopyComplete_ends hnow hx hend, copyComplete_leaves⟩,
    fun hnow hq hh hr => ⟨fun ht => ⟨_, execVectorCmdTake_done hnow hq hh hr ht, ?_, fun j hj => ?_, ?_⟩,
      fun ht => ⟨_, execVectorCmdTake_turn hnow hq hh hr ht, rfl⟩⟩,
    fun hu hq hw hc => ⟨_, execVfabs_queued hu hq hw hc, ?_⟩,
    fun hv hx => vecTurn_performs hv hx⟩
  · rw [beatDone_none ha]
    exact markBeat_moved hx hm
  · rw [beatDone_some ha hk]
    have hl : (getCore (markBeat u k i x (pickBeat x beat) n) k).storeBuf = (getCore u k).storeBuf ∧
        (getCore (markBeat u k i x (pickBeat x beat) n) k).l1 = (getCore u k).l1 := by
      rw [getCore_markBeat]
      exact ⟨rfl, rfl⟩
    have hmem := (markBeat_moved hx hm).1
    refine ⟨fun hq => ?_, fun hq => ?_⟩
    · rw [arrive_mem (by rwa [hmem, hl.1, hl.2]), hmem]
    · exact arrive_storeBuf (by rwa [hmem])
  · exact (getCore_modCore s k k _).trans ((if_pos rfl).trans (numbered_eq (getCore_id s k)))
  · exact (getCore_modCore s k j _).trans (if_neg hj)
  · simp [countDown, modLaunch]
  · have hb : (pushVec s (some (vecTodo s.core (.vfabs h ty d v)))).core.bank ≠ .coal := by
      rw [pushVec_some]
      simp [hu]
    refine ⟨?_, ?_, ?_, ?_⟩
    · rw [advance_core _ hb]
      rfl
    · rw [advance_core _ hb]
      rfl
    · rw [RegisterLaws.advance_pc hb]
      rfl
    · rw [advance_outside]
      rfl

end Sys2Proof.Machine.CopyLaws
end

section
/-!
STORE_BUFFER_DRAIN (R82 to R84, R86, R208, R295): the oldest store is performed, or one byte of it, and a store that displaces no line changes the
bytes at their homes alone.
-/
set_option Elab.async false
namespace Sys2Proof.Machine.DrainLaws
open LineLaws

variable {s t : State} {k j n line : Nat} {c : Core} {ctx : CtxId} {zero : Bool} {st : PendStore} {rest : List PendStore}

/-! ### Room for a line -/

/-- The other lines in a line's set. -/
def peersOf (n : Nat) (l : List Line) : List Line := l.filter fun x => l1Set x.addr == l1Set n && x.addr != n
/-- A line's set holds fewer than sixteen other lines: room for it displaces none. -/
def RoomFor (c : Core) (n : Nat) : Prop := (peersOf n c.l1).length < 16

theorem RoomIn.roomFor (h : RoomIn c) : RoomFor c n := by
  refine lt_of_le_of_lt (List.Sublist.length_le ?_) (h n)
  exact List.monotone_filter_right _ fun x hx => (Bool.and_eq_true_iff.1 hx).1

theorem victimLines_nil (h : RoomFor c n) : victimLines c n zero = [] := by
  have hp : (peersOf n c.l1).length < 16 := h
  have hs : ((peersOf n c.l1).filter fun l => !l.zero).length < 16 := lt_of_le_of_lt (List.length_filter_le _ _) hp
  unfold victimLines
  dsimp only
  change (if (!zero && decide (16 ≤ ((peersOf n c.l1).filter fun l => !l.zero).length)) = true then _
    else if (_ && decide (24 ≤ (peersOf n c.l1).length)) = true then peersOf n c.l1 else []) = []
  rw [decide_eq_false (by omega), decide_eq_false (by omega), Bool.and_false, Bool.and_false]
  rfl

theorem makeWay_eq_self (h : RoomFor (getCore s k) n) : makeWay s k n zero = s := by
  unfold makeWay
  dsimp only
  rw [victimLines_nil h]
  rfl

theorem RoomFor.of_sublist {d : Core} (h : RoomFor c n) (hl : d.l1.Sublist c.l1) : RoomFor d n :=
  lt_of_le_of_lt (hl.filter _).length_le h

theorem peersOf_putLine {l : Line} (h : l.addr = n) : peersOf n (putLine c l).l1 = peersOf n c.l1 := by
  unfold peersOf putLine
  rw [List.filter_cons_of_neg (by simp [h]), List.filter_filter]
  refine List.filter_congr fun x _ => ?_
  rw [h, Bool.and_assoc, Bool.and_self]

/-! ### A store's bytes in its core's lines -/

theorem peersOf_putRemote {b : Nat × Byte} (h : b.1 / 128 = n) : peersOf n (putRemote c ctx b).l1 = peersOf n c.l1 := by
  refine peersOf_putLine ?_
  change ((remoteLine c b.1).getD _).addr = n
  cases hl : remoteLine c b.1 with
  | none => exact h
  | some l =>
    have := List.find?_some hl
    simp only [Bool.and_eq_true, beq_iff_eq] at this
    exact this.1.trans h

theorem peersOf_putRemotes {l : List (Nat × Byte)} (h : ∀ b ∈ l, b.1 / 128 = n) :
    peersOf n (l.foldl (fun acc b => putRemote acc ctx b) c).l1 = peersOf n c.l1 := by
  induction l generalizing c with
  | nil => rfl
  | cons b l ih =>
    rw [List.foldl_cons, ih fun x hx => h x (List.mem_cons_of_mem _ hx), peersOf_putRemote (h b List.mem_cons_self)]

theorem length_peersOf_map {l : List Line} {f : Line → Line} (hf : ∀ x, (f x).addr = x.addr) :
    (peersOf n (l.map f)).length = (peersOf n l).length := by
  unfold peersOf
  rw [List.filter_map, List.length_map]
  congr 2
  funext x
  simp only [Function.comp_apply, hf]

theorem RoomFor.storeInLines {l : List (Nat × Byte)} (h : RoomFor c n) (hl : ∀ b ∈ l, b.1 / 128 = n) : RoomFor (storeInLines st l c) n := by
  have h1 : RoomFor (l.foldl (fun acc b => putRemote acc st.ctx b) c) n := by
    unfold RoomFor
    rw [peersOf_putRemotes hl]
    exact h
  unfold LineLaws.storeInLines
  dsimp only
  split
  · unfold RoomFor
    dsimp only
    rw [length_peersOf_map fun x => by split <;> rfl]
    exact h1
  · exact h1

/-! ### A store within one line that displaces none -/

/-- Nothing of a state changes but core k's lines and the requests to the directories, and core k keeps room for a line. -/
structure Within (k n : Nat) (s t : State) : Prop where
  mem : t.mem = s.mem
  cores : ∀ j, j ≠ k → getCore t j = getCore s j
  room : RoomFor (getCore t k) n

theorem Within.after_ownStore (h : Within k n s t) : Within k n s (ownStore t k zero ctx n) := by
  unfold ownStore
  dsimp only
  rw [makeWay_eq_self h.room]
  refine ⟨(modCore_mem t k _).trans h.mem, fun j hj => ?_, ?_⟩
  · exact ((getCore_modCore t k j _).trans (if_neg hj)).trans (h.cores j hj)
  · change RoomFor (getCore (modCore t k _) k) n
    rw [getCore_modCore_lines fun _ => rfl, if_pos rfl]
    exact lt_of_eq_of_lt (congrArg List.length (peersOf_putLine rfl)) h.room

theorem Within.after_ownStores {l : List Nat} (h : Within k n s t) (hl : ∀ x ∈ l, x = n) :
    Within k n s (l.foldl (fun acc line => ownStore acc k zero ctx line) t) := by
  induction l generalizing t with
  | nil => exact h
  | cons x l ih =>
    obtain rfl := hl x List.mem_cons_self
    exact ih h.after_ownStore fun y hy => hl y (List.mem_cons_of_mem _ hy)

theorem readyRemote_eq_self (h : RoomFor (getCore s k) n) (hc : ∀ l ∈ (getCore s k).l1, l.st = .rd → l.ctx = ctx) :
    readyRemote s k ctx zero n = s := by
  unfold readyRemote
  dsimp only
  rw [makeWay_eq_self h, if_neg]
  intro ha
  obtain ⟨l, hl, hp⟩ := List.any_eq_true.1 ha
  simp only [Bool.and_eq_true, beq_iff_eq, bne_iff_ne] at hp
  exact hp.2 (hc l hl hp.1.2)

theorem readyRemotes_eq_self {l : List Nat} (h : RoomFor (getCore s k) n) (hc : ∀ x ∈ (getCore s k).l1, x.st = .rd → x.ctx = ctx)
    (hl : ∀ x ∈ l, x = n) : l.foldl (fun acc line => readyRemote acc k ctx zero line) s = s := by
  induction l with
  | nil => rfl
  | cons x l ih =>
    obtain rfl := hl x List.mem_cons_self
    rw [List.foldl_cons, readyRemote_eq_self h hc]
    exact ih fun y hy => hl y (List.mem_cons_of_mem _ hy)

theorem writeHome_reached {l : List (Nat × Byte)} (h : ∀ b ∈ l, reaches s (outDie k) (keyDie b.1) = true) :
    writeHome s k ctx l = homePut s l := by
  unfold writeHome
  dsimp only
  rw [List.find?_eq_none.2 fun b hb => by simp [h b hb], List.filter_eq_self.2 h]

theorem lines_eq {l : List (Nat × Byte)} (h : ∀ b ∈ l, b.1 / 128 = n) : ∀ x ∈ (l.map fun b => b.1 / 128).dedup, x = n := by
  intro x hx
  obtain ⟨b, hb, rfl⟩ := List.mem_map.1 (List.mem_dedup.1 hx)
  exact h b hb

/-- A store within one line, for which core k has room: once its bytes are at their homes, only core k's lines change. -/
theorem within_performStore (hn : ∀ b ∈ st.bytes, b.1 / 128 = n) (hr : RoomFor (getCore s k) n)
    (hc : ∀ l ∈ (getCore s k).l1, l.st = .rd → l.ctx = st.ctx)
    (hd : ∀ b ∈ st.bytes.filter fun b => !(st.toLine k b), reaches s (outDie k) (keyDie b.1) = true) :
    Within k n (homePut s (st.bytes.filter fun b => !(st.toLine k b))) (performStore s k st) := by
  rw [performStore_eq, writeHome_reached hd]
  have hlines : (getCore (homePut s (st.bytes.filter fun b => !(st.toLine k b))) k).l1.Sublist (getCore s k).l1 := by
    unfold homePut
    obtain h | h := getCore_recallZero { s with mem := memSetAll s.mem (st.bytes.filter fun b => !(st.toLine k b)) }
      ((st.bytes.filter fun b => !(st.toLine k b)).map fun b => b.1 / 128).dedup k
    · rw [h]
      exact List.Sublist.refl _
    · rw [h]
      exact List.filter_sublist
  generalize homePut s (st.bytes.filter fun b => !(st.toLine k b)) = s1 at hlines ⊢
  have hr1 := hr.of_sublist hlines
  rw [readyRemotes_eq_self hr1 (fun l hl => hc l (hlines.subset hl)) (lines_eq fun b hb => hn b (List.mem_filter.1 hb).1)]
  refine Within.after_ownStores ⟨modCore_mem _ _ _, fun j hj => (getCore_modCore _ _ _ _).trans (if_neg hj), ?_⟩
    (lines_eq fun b hb => hn b (List.mem_filter.1 (List.mem_filter.1 hb).1).1)
  rw [getCore_modCore_lines (linesOnly_storeInLines st _), if_pos rfl]
  exact hr1.storeInLines fun b hb => hn b (List.mem_filter.1 hb).1

/-! ### Recalls -/

theorem zeroHeld_eq_false {lines : List Nat} :
    zeroHeld s lines = false ↔ ∀ c ∈ allCores s, ∀ l ∈ c.l1, (l.zero && !l.st.remote && lines.contains l.addr) = false := by
  simp only [zeroHeld, List.any_eq_false, Bool.not_eq_true]

theorem mem_of_assocGet {α : Type} {l : List (Nat × α)} {i : Nat} {x : α} (h : assocGet l i = some x) : (i, x) ∈ l := by
  induction l with
  | nil => cases h
  | cons q l ih =>
    unfold assocGet at h
    split at h
    next hq =>
      obtain rfl := Option.some.inj h
      subst hq
      exact List.mem_cons_self
    next => exact List.mem_cons_of_mem _ (ih h)

/-- A core as it is read is listed, or has no line. -/
theorem getCore_lines (s : State) (k : Nat) : (getCore s k).l1 = [] ∨ ∃ c ∈ allCores s, c.l1 = (getCore s k).l1 := by
  unfold getCore
  split
  · exact .inr ⟨s.core, List.mem_cons_self, rfl⟩
  · cases h : assocGet s.rest k with
    | none => exact .inl rfl
    | some c => exact .inr ⟨c, List.mem_cons_of_mem _ (List.mem_map.2 ⟨(k, c), mem_of_assocGet h, rfl⟩), rfl⟩

/-- Taking an entry out of a store buffer leaves the lines that every listed core holds. -/
theorem zeroHeld_takeStores {lines : List Nat} (h : zeroHeld s lines = false) :
    zeroHeld (modCore s k fun c => { c with storeBuf := rest }) lines = false := by
  rw [zeroHeld_eq_false] at h ⊢
  have hk : ∀ l ∈ (getCore s k).l1, (l.zero && !l.st.remote && lines.contains l.addr) = false := by
    obtain h0 | ⟨c, hc, he⟩ := getCore_lines s k
    · rw [h0]
      exact List.forall_mem_nil _
    · rw [← he]
      exact h c hc
  intro c hc
  unfold modCore setCore at hc
  split at hc
  · obtain rfl | hc := List.mem_cons.1 hc
    · exact hk
    · exact h c (List.mem_cons_of_mem _ hc)
  · obtain rfl | hc := List.mem_cons.1 hc
    · exact h _ List.mem_cons_self
    · obtain ⟨p, hp, rfl⟩ := List.mem_map.1 hc
      obtain rfl | hp := FormLaws.mem_assocSet hp
      · exact hk
      · exact h _ (List.mem_cons_of_mem _ (List.mem_map.2 ⟨p, hp, rfl⟩))

theorem recallZero_eq_self {lines : List Nat} (h : zeroHeld s [n] = false) (hl : ∀ x ∈ lines, x = n) : recallZero s lines = s := by
  unfold recallZero
  rw [if_neg]
  rw [Bool.not_eq_true, zeroHeld_eq_false]
  intro c hc l hlc
  have hn := zeroHeld_eq_false.1 h c hc l hlc
  have hlines : lines.contains l.addr = true → [n].contains l.addr = true := by
    simp only [List.contains_iff_mem, List.mem_singleton]
    exact hl _
  cases hm : lines.contains l.addr with
  | false => exact Bool.and_false _
  | true => rwa [hlines hm] at hn

theorem homePut_mem (l : List (Nat × Byte)) : (homePut s l).mem = memSetAll s.mem l := recallZero_mem _ _

theorem getCore_homePut {l : List (Nat × Byte)} (h : zeroHeld s [n] = false) (hl : ∀ b ∈ l, b.1 / 128 = n) :
    getCore (homePut s l) j = getCore s j := by
  have hz : zeroHeld { s with mem := memSetAll s.mem l } [n] = false := h
  unfold homePut
  rw [recallZero_eq_self hz (lines_eq hl)]
  rfl

theorem spread_takeStores (l : List Nat) : spread (modCore s k fun c => { c with storeBuf := rest }) l = spread s l := by
  have h : linkUp (modCore s k fun c => { c with storeBuf := rest }) = linkUp s := by
    funext i
    unfold linkUp
    rw [modCore_links]
  simp only [spread, h]

/-! ### The event -/

theorem exec_storeBufferDrain (hnow : s.now = some (.storeBufferDrain k)) : exec .storeBufferDrain s = .next (drainStep s k) := by
  change execStoreBufferDrain s = _
  simp only [execStoreBufferDrain, hnow]

theorem drainStep_held (hq : (getCore s k).storeBuf = st :: rest) (hh : storeHeld s k st = true) : drainStep s k = s := by
  simp only [drainStep, hq, hh, if_true]

theorem drainStep_whole (hq : (getCore s k).storeBuf = st :: rest) (hh : storeHeld s k st = false) (hw : st.whole = true ∨ st.bytes.length ≤ 1) :
    drainStep s k = performStore (modCore s k fun c => { c with storeBuf := rest }) k st := by
  simp only [drainStep, hq, hh, hw, drainOne, Bool.false_eq_true, if_false, if_true]

theorem getCore_takeStores : getCore (modCore s k fun c => { c with storeBuf := rest }) k = { getCore s k with storeBuf := rest } :=
  (getCore_modCore s k k _).trans ((if_pos rfl).trans (numbered_eq (getCore_id s k)))

theorem drained_core {p : PendStore} {u : State} (hu : getCore u k = { getCore s k with storeBuf := rest }) :
    getCore (performStore u k p) k = { getCore s k with storeBuf := rest, l1 := (getCore (performStore u k p) k).l1 } := by
  have h := eq_of_lineless_eq ((Alike.refl.after_performStore hidesLines_lineless (s := u) (k := k) (p := p)).cores k)
  rw [hu] at h
  exact h

theorem drained_whole :
    let t := performStore (modCore s k fun c => { c with storeBuf := rest }) k st
    let direct := st.bytes.filter fun b => !(st.toLine k b)
    let x := getCore s k
    t = { s with core := t.core, rest := t.rest, mem := t.mem, dirReqs := t.dirReqs, dirs := t.dirs, agenda := t.agenda, free := t.free } ∧
      getCore t k = { x with storeBuf := rest, l1 := (getCore t k).l1 } ∧
      (∀ j, j ≠ k → getCore t j = { getCore s j with l1 := (getCore t j).l1 }) ∧
      ((∀ b ∈ st.bytes, b.1 / 128 = n) → RoomIn x → (∀ l ∈ x.l1, l.st = .rd → l.ctx = st.ctx) →
        (∀ b ∈ direct, reaches s (outDie k) (keyDie b.1) = true) →
        t.mem = memSetAll s.mem direct ∧ (zeroHeld s [n] = false → ∀ j, j ≠ k → getCore t j = getCore s j)) := by
  intro t direct x
  have hother : ∀ j, j ≠ k → getCore (modCore s k fun c => { c with storeBuf := rest }) j = getCore s j :=
    fun j hj => (getCore_modCore _ _ _ _).trans (if_neg hj)
  have ha : Alike lineless (modCore s k fun c => { c with storeBuf := rest }) t := Alike.refl.after_performStore hidesLines_lineless
  refine ⟨eq_of_beyond_eq (ha.others.trans (beyond_modCore s k _)), drained_core getCore_takeStores, fun j hj => ?_, fun hn hr hc hd => ?_⟩
  · have h := eq_of_lineless_eq (ha.cores j)
    rw [hother j hj] at h
    exact h
  · have hw : Within k n (homePut (modCore s k fun c => { c with storeBuf := rest }) direct) t := by
      refine within_performStore hn ?_ ?_ ?_
      · rw [getCore_takeStores]
        exact RoomIn.roomFor hr
      · rw [getCore_takeStores]
        exact hc
      · intro b hb
        have hl : ∀ a d, reaches (modCore s k fun c => { c with storeBuf := rest }) a d = reaches s a d := by
          intro a d
          unfold reaches
          simp only [spread_takeStores]
        rw [hl]
        exact hd b hb
    refine ⟨by rw [hw.mem, homePut_mem, modCore_mem], fun hz j hj => ?_⟩
    rw [hw.cores j hj, getCore_homePut (zeroHeld_takeStores hz) fun b hb => hn b (List.mem_filter.1 hb).1, hother j hj]

theorem drainStep_byte (hq : (getCore s k).storeBuf = st :: rest) (hh : storeHeld s k st = false) (hw : st.whole = false)
    (hl : 2 ≤ st.bytes.length) : ∃ i < st.bytes.length,
      getCore (drainStep s k) k =
        { getCore s k with storeBuf := { st with bytes := dropAt st.bytes i } :: rest, l1 := (getCore (drainStep s k) k).l1 } := by
  refine ⟨(freeWord s.free).toNat % st.bytes.length, Nat.mod_lt _ (by omega), ?_⟩
  have hd : ¬(st.whole = true ∨ st.bytes.length ≤ 1) := by
    rw [hw]
    simp only [Bool.false_eq_true, false_or]
    omega
  simp only [drainStep, hq, hh, hd, Bool.false_eq_true, if_false]
  exact drained_core getCore_takeStores

end Sys2Proof.Machine.DrainLaws
end

section
/-!
MEMORY_RESPONSE, DIRECTORY_REQUEST and L1_EVICTION (R81, R82, R84, R86, R145, R158, R159): what each changes, and what it leaves.
-/
set_option Elab.async false
namespace Sys2Proof.Machine.DirectoryLaws
open LineLaws

variable {s t u : State} {k j n d i line : Nat} {dl : BitVec 12} {r : Response} {q : DirReq} {e y : DirEntry} {l : List DirReq}

/-! ### Responses -/

theorem addDelay_eq (c : Core) (n : Nat) (dl : BitVec 12) : addDelay c n dl = { c with dly := (addDelay c n dl).dly } := by
  unfold addDelay
  split <;> rfl

theorem account_addDelay (c : Core) (n m : Nat) (dl : BitVec 12) :
    account (addDelay c n dl) m = if m = n ∧ n < 110 then (satAdd (account c m).1 1, satAdd (account c m).2 dl.toNat) else account c m := by
  unfold addDelay
  split
  next hn =>
    dsimp only [account]
    rw [assocGet_assocSet]
    by_cases hm : m = n
    · rw [if_pos hm, if_pos ⟨hm, hn⟩, hm]
      rfl
    · rw [if_neg hm, if_neg fun h => hm h.1]
  next hn => rw [if_neg fun h => hn h.2]

/-- The lines of a core once a response has arrived (R81). -/
def linesAfter (m : List Host.Cell) (line : Option Nat) (l : List Line) : List Line :=
  match line with
  | some a => l.map (flagZero m a)
  | none => l
/-- A core once a response has arrived. -/
def answered (m : List Host.Cell) (i : Nat) (r : Response) (dl : BitVec 12) (c : Core) : Core :=
  { addDelay c r.account dl with responses := dropAt c.responses i, l1 := linesAfter m r.line c.l1 }

theorem exec_memoryResponse (hnow : s.now = some (.memoryResponse k i dl)) (hr : (getCore s k).responses[i]? = some r) :
    exec .memoryResponse s = .next (modCore s k (answered s.mem i r dl)) := by
  change execMemoryResponse s = _
  simp only [execMemoryResponse, hnow, hr]
  rfl

theorem answered_eq (m : List Host.Cell) (c : Core) : answered m i r dl c =
    { c with responses := dropAt c.responses i, dly := (addDelay c r.account dl).dly, l1 := linesAfter m r.line c.l1 } := by
  unfold answered
  rw [addDelay_eq]

theorem getCore_answered : getCore (modCore s k (answered s.mem i r dl)) k = answered s.mem i r dl (getCore s k) := by
  refine (getCore_modCore s k k _).trans ((if_pos rfl).trans (numbered_eq ?_))
  rw [answered_eq]
  exact getCore_id s k

theorem memoryResponse_effect :
    let x := getCore s k
    let t := modCore s k (answered s.mem i r dl)
    t = { s with core := t.core, rest := t.rest } ∧ (∀ j, j ≠ k → getCore t j = getCore s j) ∧
      getCore t k = { x with responses := dropAt x.responses i, dly := (getCore t k).dly, l1 := (getCore t k).l1 } ∧
      (∀ n, account (getCore t k) n = if n = r.account ∧ n < 110 then (satAdd (account x n).1 1, satAdd (account x n).2 dl.toNat) else account x n) ∧
      (getCore t k).l1 = linesAfter s.mem r.line x.l1 := by
  intro x t
  have hk : getCore t k = answered s.mem i r dl x := getCore_answered
  refine ⟨?_, fun j hj => (getCore_modCore s k j _).trans (if_neg hj), ?_, fun n => ?_, ?_⟩
  · change setCore s _ = { s with core := (setCore s _).core, rest := (setCore s _).rest }
    unfold setCore
    split <;> rfl
  · rw [hk, answered_eq]
  · rw [hk]
    refine (account_addDelay x r.account n dl).trans (if_congr ?_ rfl rfl)
    exact ⟨fun h => ⟨h.1, h.1 ▸ h.2⟩, fun h => ⟨h.1, h.1 ▸ h.2⟩⟩
  · rw [hk]
    rfl

/-! ### Entries and requests of a die -/

theorem dirOf_putDir {x : List DirEntry} (hd : d < 4) : dirOf (putDir s d x) d = x := by
  simp [dirOf, putDir, hd]
theorem dirOf_setEntry (hd : d < 4) : dirOf (setEntry s d e) d = e :: (dirOf s d).filter fun x => x.line != e.line := dirOf_putDir hd
theorem mem_dirOf_setEntry (hd : d < 4) : e ∈ dirOf (setEntry s d e) d := by
  rw [dirOf_setEntry hd]
  exact List.mem_cons_self
theorem eq_of_mem_dirOf_setEntry (hd : d < 4) (h : y ∈ dirOf (setEntry s d e) d) (hl : y.line = e.line) : y = e := by
  rw [dirOf_setEntry hd] at h
  obtain rfl | h := List.mem_cons.1 h
  · rfl
  · exact absurd hl (bne_iff_ne.1 (List.mem_filter.1 h).2)
theorem dir_lt_of_mem (h : y ∈ dirOf s d) : d < 4 := by
  by_contra hd
  simp [dirOf, hd] at h

/-- The state with the requests of a die replaced. -/
def putReqs (t : State) (d : Nat) (x : List DirReq) : State := { t with dirReqs := t.dirReqs.setIfInBounds d x }

theorem reqs_putReqs {x : List DirReq} (hd : d < 4) : (putReqs t d x).dirReqs[d]?.getD [] = x := by
  simp [putReqs, hd]

theorem reqs_lt (hl : s.dirReqs[d]?.getD [] = l) (hq : l[i]? = some q) : d < 4 := by
  by_contra hd
  have : l = [] := by simpa [hd] using hl.symm
  simp [this] at hq

/-! ### A line taken exclusive -/

theorem getCore_dropLine : getCore (dropLine s k line) j =
    if j = k then { getCore s k with l1 := (getCore s k).l1.filter fun l => l.addr != line } else getCore s j :=
  getCore_modCore_lines fun _ => rfl

/-- A core holds no copy of a line. -/
def Lacks (line : Nat) (c : Core) : Prop := ∀ z ∈ c.l1, z.addr ≠ line

theorem lacks_dropLine : Lacks line (getCore (dropLine s k line) k) := by
  rw [getCore_dropLine, if_pos rfl]
  exact fun z hz => bne_iff_ne.1 (List.mem_filter.1 hz).2
theorem Lacks.after_dropLine (h : Lacks line (getCore s j)) : Lacks line (getCore (dropLine s k n) j) := by
  rw [getCore_dropLine]
  split
  next hj =>
    subst hj
    exact fun z hz => h z (List.mem_filter.1 hz).1
  next => exact h
theorem Lacks.after_dropLines {l : List Nat} (h : Lacks line (getCore s j)) : Lacks line (getCore (dropLines s l n) j) := by
  induction l generalizing s with
  | nil => exact h
  | cons k l ih => exact ih h.after_dropLine
theorem lacks_dropLines {l : List Nat} (hj : j ∈ l) : Lacks line (getCore (dropLines s l line) j) := by
  induction l generalizing s with
  | nil => cases hj
  | cons k l ih =>
    obtain rfl | hj := List.mem_cons.1 hj
    · exact lacks_dropLine.after_dropLines
    · exact ih hj

theorem getCore_setEntry : getCore (setEntry s d e) j = getCore s j := rfl
theorem getCore_dropEntry : getCore (dropEntry s d line) j = getCore s j := (Alike.refl.after_dropEntry (v := id)).cores j

theorem takeExclusive_lacks (hy : ((dirOf s d).find? fun y => y.line == q.line) = some y) (hj : j ∈ sharersOf s d y) (hne : j ≠ q.core) :
    Lacks q.line (getCore (takeExclusive s d q) j) := by
  unfold takeExclusive
  simp only [hy]
  rw [getCore_setEntry, getCore_dropEntry]
  exact lacks_dropLines (List.mem_filter.2 ⟨hj, bne_iff_ne.2 hne⟩)

section
variable (hnow : s.now = some (.directoryRequest d)) (hl : s.dirReqs[d]?.getD [] = l)
  (hi : (l.findIdx? fun r => !(overflowRuns s d r.line)) = some i) (hq : l[i]? = some q)
include hnow hl hi hq

theorem exec_directoryRequest_exclusive (hx : q.exclusive = true) :
    exec .directoryRequest s = .next (putReqs (takeExclusive s d q) d (dropAt l i)) := by
  change execDirectoryRequest s = _
  simp only [execDirectoryRequest, hnow, hl, hi, hq, hx, if_true]
  rfl
theorem exec_directoryRequest_done (hx : q.exclusive = false) (ha : addSharer s d q = .done t) :
    exec .directoryRequest s = .next (putReqs t d (dropAt l i)) := by
  change execDirectoryRequest s = _
  simp only [execDirectoryRequest, hnow, hl, hi, hq, hx, ha, Bool.false_eq_true, if_false]
  rfl
theorem exec_directoryRequest_raised (hx : q.exclusive = false) (ha : addSharer s d q = .raised t) :
    exec .directoryRequest s = .next (putReqs t d (l.set i { q with raised := true })) := by
  change execDirectoryRequest s = _
  simp only [execDirectoryRequest, hnow, hl, hi, hq, hx, ha, Bool.false_eq_true, if_false]
  rfl
end

/-! ### A line shared -/

/-- A core does not hold a line alone. -/
def NotAlone (line : Nat) (c : Core) : Prop := ∀ z ∈ c.l1, z.addr = line → z.st ≠ .m ∧ z.st ≠ .e

theorem getCore_toShared : getCore (toShared s k line) j =
    if j = k then { getCore s k with l1 := (getCore s k).l1.map fun l => if l.addr = line ∧ (l.st = .m ∨ l.st = .e) then { l with st := .s } else l }
    else getCore s j := getCore_modCore_lines fun _ => rfl
theorem notAlone_toShared : NotAlone line (getCore (toShared s k line) k) := by
  rw [getCore_toShared, if_pos rfl]
  intro z hz
  obtain ⟨x, -, rfl⟩ := List.mem_map.1 hz
  split
  next => exact fun _ => ⟨nofun, nofun⟩
  next h => exact fun ha => ⟨fun hm => h ⟨ha, .inl hm⟩, fun he => h ⟨ha, .inr he⟩⟩
theorem NotAlone.after_toShared (h : NotAlone line (getCore s j)) : NotAlone line (getCore (toShared s k line) j) := by
  by_cases hj : j = k
  · rw [hj]
    exact notAlone_toShared
  · rw [getCore_toShared, if_neg hj]
    exact h
theorem notAlone_toShareds {l : List Nat} (hj : j ∈ l ∨ NotAlone line (getCore s j)) :
    NotAlone line (getCore (l.foldl (fun acc k => toShared acc k line) s) j) := by
  induction l generalizing s with
  | nil => exact hj.resolve_left List.not_mem_nil
  | cons k l ih =>
    refine ih ?_
    obtain hj | hj := hj
    · obtain rfl | hj := List.mem_cons.1 hj
      · exact .inr notAlone_toShared
      · exact .inl hj
    · exact .inr hj.after_toShared

section
variable (he : ((dirOf s d).find? fun y => y.line == q.line) = some e) (h3 : e.st ≠ 3) (h4 : e.st ≠ 4) (hp : q.core % 256 ∉ e.ptrs)
include he h3 h4 hp

theorem addSharer_few (hf : e.ptrs.length < 4) : addSharer s d q =
    .done (setEntry ((q.core :: e.ptrs.map fun j => 256 * d + j).foldl (fun acc k => toShared acc k q.line) s) d
      { e with st := 1, ptrs := e.ptrs ++ [q.core % 256] }) := by
  simp only [addSharer, he, h3, h4, hp, hf, or_self, if_false, if_true]
theorem addSharer_unpinned (hf : 4 ≤ e.ptrs.length) (hr : q.raised = false) (hpin : (getCore s (homeCore s d q.line)).pins[3] = none) :
    addSharer s d q = .done (setEntry s d { e with st := 4, ptrs := [] }) := by
  simp only [addSharer, he, h3, h4, hp, Nat.not_lt.2 hf, hr, hpin, or_self, if_false, Bool.false_eq_true]
theorem addSharer_raises (hf : 4 ≤ e.ptrs.length) (hr : q.raised = false) (hpin : (getCore s (homeCore s d q.line)).pins[3].isSome = true)
    (hv : (getCore s (homeCore s d q.line)).svcq.length < 4) : addSharer s d q =
      .raised (rouse (modCore s (homeCore s d q.line) fun c => { c with svcq := c.svcq ++ [⟨3, 0, BitVec.ofNat 64 (q.line * 128), none, false⟩] })
        (clusterOf (homeCore s d q.line))) := by
  obtain ⟨x, hx⟩ := Option.isSome_iff_exists.1 hpin
  simp only [addSharer, he, h3, h4, hp, Nat.not_lt.2 hf, hr, hx, hv, or_self, if_false, if_true, Bool.false_eq_true]
end

theorem getCore_rouse {c : Nat} : getCore (rouse s c) j = getCore s j := by
  unfold rouse
  dsimp only
  split_ifs <;> rfl

/-! ### Evictions -/

theorem exec_l1Eviction (hnow : s.now = some (.l1Eviction k line)) : exec .l1Eviction s =
    .next (if (getCore s k).l1.any fun l => l.addr == line && !(l.st == .rd && lineHeld s (line * 128)) then evictLine s k line else s) := by
  change execL1Eviction s = _
  simp only [execL1Eviction, hnow]

theorem dirtyCells_line {l : Line} {b : Nat × Byte} (h : b ∈ l.dirtyCells) : b.1 / 128 = l.addr := by
  obtain ⟨i, hi, rfl⟩ := List.mem_map.1 h
  have := List.mem_range.1 (List.mem_filter.1 hi).1
  dsimp only
  omega

theorem getCore_homePut {b : List (Nat × Byte)} (hb : ∀ x ∈ b, x.1 / 128 = line) :
    ∃ p : Line → Bool, (∀ z, z.addr ≠ line → p z = true) ∧
      getCore (homePut s b) j = { getCore s j with l1 := (getCore s j).l1.filter p } := by
  obtain h | h := getCore_recallZero { s with mem := memSetAll s.mem b } (b.map fun x => x.1 / 128).dedup j
  · refine ⟨fun _ => true, fun _ _ => rfl, h.trans ?_⟩
    rw [List.filter_true]
    rfl
  · refine ⟨_, fun z hz => ?_, h⟩
    have hm : ((b.map fun x => x.1 / 128).dedup).contains z.addr = false := by
      rw [← Bool.not_eq_true, List.contains_iff_mem]
      exact fun hm => hz (DrainLaws.lines_eq hb _ hm)
    rw [hm, Bool.and_false]
    rfl

/-- Writing a line back recalls copies of that line alone. -/
theorem getCore_writeBackLine : ∃ p : Line → Bool, (∀ z, z.addr ≠ line → p z = true) ∧
    getCore (writeBackLine s k line) j = { getCore s j with l1 := (getCore s j).l1.filter p } := by
  unfold writeBackLine
  split
  next l hl =>
    have hp := List.find?_some hl
    have ha : l.addr = line := beq_iff_eq.1 (Bool.and_eq_true_iff.1 hp).1
    have hb : ∀ x ∈ l.dirtyCells.filter fun b => reaches s (outDie k) (keyDie b.1), x.1 / 128 = line :=
      fun x hx => (dirtyCells_line (List.mem_filter.1 hx).1).trans ha
    unfold writeHome
    dsimp only
    split
    · exact getCore_homePut hb
    · exact getCore_homePut hb
  next =>
    refine ⟨fun _ => true, fun _ _ => rfl, ?_⟩
    rw [List.filter_true]

theorem writeBackLine_dirs : (writeBackLine s k line).dirs = s.dirs := by
  unfold writeBackLine
  split
  · unfold writeHome
    dsimp only
    split
    · exact recallZero_dirs _ _
    · exact recallZero_dirs _ _
  · rfl

/-- The state of an eviction before the directory learns of it. -/
def written (s : State) (k line : Nat) : State := dropLine (writeBackLine s k line) k line

theorem dirOf_written : dirOf (written s k line) d = dirOf s d := by
  unfold dirOf
  rw [show (written s k line).dirs = (writeBackLine s k line).dirs from modCore_dirs _ _ _, writeBackLine_dirs]

theorem getCore_evictLine : getCore (evictLine s k line) j = getCore (written s k line) j :=
  (Alike.refl.after_removeSharer (v := id) (s := written s k line) (k := k) (line := line)).cores j

theorem getCore_evictLine_own : getCore (evictLine s k line) k = { getCore s k with l1 := (getCore s k).l1.filter fun l => l.addr != line } := by
  obtain ⟨p, hp, hc⟩ := getCore_writeBackLine (s := s) (k := k) (line := line) (j := k)
  rw [getCore_evictLine, written, getCore_dropLine, if_pos rfl, hc]
  dsimp only
  rw [List.filter_filter]
  congr 1
  refine List.filter_congr fun z _ => ?_
  by_cases hz : z.addr = line
  · simp [hz]
  · rw [hp z hz, Bool.and_true]

theorem getCore_evictLine_other (hj : j ≠ k) :
    getCore (evictLine s k line) j = { getCore s j with l1 := (getCore (evictLine s k line) j).l1 } ∧
      ∀ y ∈ (getCore s j).l1, y.addr ≠ line → y ∈ (getCore (evictLine s k line) j).l1 := by
  obtain ⟨p, hp, hc⟩ := getCore_writeBackLine (s := s) (k := k) (line := line) (j := j)
  rw [getCore_evictLine, written, getCore_dropLine, if_neg hj, hc]
  exact ⟨rfl, fun y hy ha => List.mem_filter.2 ⟨hy, hp y ha⟩⟩

theorem evictLine_mem (h : ∀ y ∈ dirOf s (homeDie (line * 128)), y.line = line → y.st ≠ 3) :
    (evictLine s k line).mem = (writeBackLine s k line).mem := by
  change (removeSharer (written s k line) k line).mem = _
  have hw : (written s k line).mem = (writeBackLine s k line).mem := modCore_mem _ _ _
  unfold removeSharer
  dsimp only
  split
  · exact hw
  · split
    · exact hw
    next e he =>
      rw [dirOf_written] at he
      have hp := List.find?_some he
      have h3 := h e (List.mem_of_find?_eq_some he) (beq_iff_eq.1 hp)
      rw [if_neg h3]
      split
      · exact hw
      · exact hw

theorem evictLine_ptrs (hk : remoteKey k (line * 128) = false)
    (he : ((dirOf s (homeDie (line * 128))).find? fun y => y.line == line) = some e) (h3 : e.st ≠ 3) (h4 : e.st ≠ 4) :
    ∀ y ∈ dirOf (evictLine s k line) (homeDie (line * 128)), y.line = line → k % 256 ∉ y.ptrs := by
  change ∀ y ∈ dirOf (removeSharer (written s k line) k line) _, _
  intro y hy hl
  unfold removeSharer at hy
  simp only [hk, dirOf_written, he, h3, h4, Bool.false_eq_true, if_false] at hy
  rw [dirOf_putDir (dir_lt_of_mem (List.mem_of_find?_eq_some he))] at hy
  obtain ⟨x, -, hx⟩ := List.mem_filterMap.1 hy
  split at hx
  next hne =>
    obtain rfl := Option.some.inj hx
    exact absurd hl hne
  next =>
    split at hx
    · cases hx
    · obtain rfl := Option.some.inj hx
      simp

end Sys2Proof.Machine.DirectoryLaws
end

section
/-!
TRANSLATION_WALK_COMPLETE and TLB_INVALIDATION_COMPLETE (R93, R96, R211, R282), and with them MemorySystemEvents.
-/
set_option Elab.async false
namespace Sys2Proof.Machine.WalkLaws
open LineLaws DrainLaws DirectoryLaws

variable {s t : State} {k j i line level at_ e : Nat} {w : Walk} {x : Tlb}

/-! ### A line brought in -/

/-- The machine with a line's bytes counted for the running launch where they come from LPDDR-6 (R90, R314). -/
def lineCounted (s : State) (line : Nat) : State := if lpddr (line * 128) && !heldElsewhere s line then countBytes s 128 else s

theorem lineCounted_eq : lineCounted s line = { s with launches := (lineCounted s line).launches } := by
  unfold lineCounted
  split <;> rfl

theorem respond_onCore {f : Core → Core} {a : Nat} {l : Option Nat} : respond (onCore s f) a l =
    { s with core := { f s.core with responses := (f s.core).responses ++ [⟨a, l⟩] }, dirReqs := s.dirReqs } := rfl
theorem askDir_respond_onCore {f : Core → Core} {a d : Nat} {l : Option Nat} {q : DirReq} : askDir (respond (onCore s f) a l) d q =
    { s with core := { f s.core with responses := (f s.core).responses ++ [⟨a, l⟩] }
             dirReqs := s.dirReqs.setIfInBounds d ((s.dirReqs[d]?.getD []) ++ [q]) } := rfl

/-- A line touched is a hit, which changes nothing, or it comes in: room is made, and the focus core and the requests to the directory change. -/
theorem touchLine_cases {need : Nat → Bool} {counted : Bool} : touchLine s line need counted = s ∨
    ∃ c r, touchLine s line need counted = { makeWay (lineCounted s line) (lineCounted s line).core.id line false with core := c, dirReqs := r } := by
  unfold touchLine
  dsimp only
  have hs1 : (if (lpddr (line * 128) && !heldElsewhere s line) = true then countBytes s 128 else s) = lineCounted s line := rfl
  simp only [hs1]
  generalize makeWay (lineCounted s line) (lineCounted s line).core.id line false = u
  split
  · split
    · exact .inl rfl
    · exact .inr ⟨_, u.dirReqs, respond_onCore⟩
  · split
    · exact .inl rfl
    · exact .inr ⟨_, _, askDir_respond_onCore⟩

theorem makeWay_tables {zero : Bool} : (makeWay s k line zero).walks = s.walks ∧ (makeWay s k line zero).caches = s.caches := by
  have h : Alike (fun _ => ()) s (makeWay s k line zero) := Alike.refl.after_makeWay fun _ _ => rfl
  rw [eq_of_beyond_eq h.others]
  exact ⟨rfl, rfl⟩

theorem touchLine_tables {need : Nat → Bool} {counted : Bool} :
    (touchLine s line need counted).walks = s.walks ∧ (touchLine s line need counted).caches = s.caches := by
  obtain h | ⟨c, r, h⟩ := touchLine_cases (s := s) (line := line) (need := need) (counted := counted)
  · rw [h]
    exact ⟨rfl, rfl⟩
  · have hm := makeWay_tables (s := lineCounted s line) (k := (lineCounted s line).core.id) (line := line) (zero := false)
    rw [h]
    dsimp only
    rw [hm.1, hm.2, lineCounted_eq]
    exact ⟨rfl, rfl⟩

theorem touchLine_mem {need : Nat → Bool} {counted : Bool} (hr : RoomFor s.core line) : (touchLine s line need counted).mem = s.mem := by
  obtain h | ⟨c, r, h⟩ := touchLine_cases (s := s) (line := line) (need := need) (counted := counted)
  · rw [h]
  · have hroom : RoomFor (getCore (lineCounted s line) (lineCounted s line).core.id) line := by
      rw [getCore_focus, lineCounted_eq]
      exact hr
    rw [h, makeWay_eq_self hroom, lineCounted_eq]

/-! ### A translation kept -/

theorem keepTlb_walks {w : Acc} : (keepTlb s w x).walks = s.walks := by
  unfold keepTlb
  dsimp only
  split
  · exact modCore_walks _ _ _
  · rfl
theorem keepTlb_mem {w : Acc} : (keepTlb s w x).mem = s.mem := by
  unfold keepTlb
  dsimp only
  split
  · exact modCore_mem _ _ _
  · rfl

theorem cacheOf_walkAcc_lt (h : w.core < 1032) : cacheOf (walkAcc w) < 5 := by
  unfold cacheOf walkAcc dieOf dieOfCluster clusterOf
  dsimp only
  split_ifs <;> omega

theorem keepTlb_cache (h : w.core < 1032) : (keepTlb s (walkAcc w) x).caches[cacheOf (walkAcc w)]?.bind List.head? = some x := by
  have hi := cacheOf_walkAcc_lt h
  have hn : ∀ (n : Nat) (l : List Tlb), n ≠ 0 → ((x :: l).take n).head? = some x := by
    intro n l hn
    cases n with
    | zero => exact absurd rfl hn
    | succ n => rfl
  unfold keepTlb
  dsimp only
  rw [Vector.getElem?_setIfInBounds, if_pos rfl, if_pos hi, Option.bind_some]
  exact hn _ _ (by split <;> decide)

theorem getCore_focused : getCore (focus s k) k = getCore s k := by
  have h : (focus s k).core = getCore s k := focus_core s k
  have hid : (focus s k).core.id = k := by rw [h, getCore_id]
  rw [← h, ← getCore_focus, hid]

/-- A translation just kept in a core's TLB is the one that a walk's access finds. -/
theorem heldTlb_keepTlb (h : w.core < 1032) {va : Nat} (hx : x.covers w.ctx va = true) :
    heldTlb (focus (keepTlb s (walkAcc w) x) w.core) (walkAcc w) va = some x := by
  have ht : hasTlb (walkAcc w) = true := by
    simp [hasTlb, walkAcc, h]
  have hl : ∃ l, (getCore (focus (keepTlb s (walkAcc w) x) w.core) w.core).tlb = x :: l := by
    rw [getCore_focused]
    unfold keepTlb
    dsimp only
    rw [if_pos ht]
    refine ⟨_, congrArg (fun c : Core => c.tlb) ((getCore_modCore s w.core w.core _).trans (if_pos rfl))⟩
  obtain ⟨l, hl⟩ := hl
  unfold heldTlb
  rw [if_pos ht, show (walkAcc w).core = w.core from rfl, hl, List.find?_cons_of_pos (by exact hx)]

/-! ### A walk that is complete -/

/-- What a prefetch asks for once its translation is held: nothing, or its line. -/
theorem prefetchAs_held (h : heldTlb s (walkAcc w) w.va.toNat = some x) :
    prefetchAs s (walkAcc w) w.va = s ∨ ∃ line, prefetchAs s (walkAcc w) w.va = touchLine s line (fun _ => true) false := by
  unfold prefetchAs
  split
  · simp only [h]
    split
    · exact .inl rfl
    · exact .inr ⟨_, rfl⟩
  · exact .inl rfl

theorem exec_walk_discarded (hnow : s.now = some (.translationWalkComplete i)) (hw : s.walks[i]? = some w) (hd : w.discarded = true) :
    exec .translationWalkComplete s = .next { s with walks := s.walks.set i { w with discarded := false } } := by
  change execTranslationWalkComplete s = _
  simp only [execTranslationWalkComplete, hnow, hw, hd, if_true]
theorem exec_walk_kept (hnow : s.now = some (.translationWalkComplete i)) (hw : s.walks[i]? = some w) (hd : w.discarded = false) :
    exec .translationWalkComplete s = .next (walkedPrefetch { s with walks := dropAt s.walks i } w) := by
  change execTranslationWalkComplete s = _
  simp only [execTranslationWalkComplete, hnow, hw, hd, Bool.false_eq_true, if_false]

theorem walkedPrefetch_error {f : Stop} (h : leafFor s (walkAcc w) w.va.toNat w.va = .error f) : walkedPrefetch s w = s := by
  simp only [walkedPrefetch, h]
theorem walkedPrefetch_denied (h : leafFor s (walkAcc w) w.va.toNat w.va = .ok (e, at_, level))
    (hd : (leafDenies (walkAcc w) false e || pteCold e || pteHS e || ptePO e) = true) : walkedPrefetch s w = s := by
  simp only [walkedPrefetch, h]
  exact if_pos hd
/-- The translation that a walk brings. -/
def walked (w : Walk) (e at_ level : Nat) : Tlb := ⟨w.ctx, w.va.toNat / pageSize level, level, BitVec.ofNat 64 e, at_⟩
theorem walkedPrefetch_kept (h : leafFor s (walkAcc w) w.va.toNat w.va = .ok (e, at_, level))
    (hd : (leafDenies (walkAcc w) false e || pteCold e || pteHS e || ptePO e) = false) :
    walkedPrefetch s w = prefetchAs (focus (keepTlb s (walkAcc w) (walked w e at_ level)) w.core) (walkAcc w) w.va := by
  simp only [walkedPrefetch, h, hd, Bool.false_eq_true, if_false]
  rfl

theorem walkedPrefetch_effect (h : leafFor s (walkAcc w) w.va.toNat w.va = .ok (e, at_, level))
    (hd : (leafDenies (walkAcc w) false e || pteCold e || pteHS e || ptePO e) = false) (hk : w.core < 1032) :
    (walkedPrefetch s w).walks = s.walks ∧
      (walkedPrefetch s w).caches[cacheOf (walkAcc w)]?.bind List.head? = some (walked w e at_ level) ∧
      (RoomIn (getCore s w.core) → (walkedPrefetch s w).mem = s.mem) := by
  rw [walkedPrefetch_kept h hd]
  have hc : (walked w e at_ level).covers w.ctx w.va.toNat = true := by simp [Tlb.covers, walked]
  have hheld := heldTlb_keepTlb (s := s) hk hc
  have hcache := keepTlb_cache (s := s) (x := walked w e at_ level) hk
  have hl1 : (getCore (keepTlb s (walkAcc w) (walked w e at_ level)) w.core).l1 = (getCore s w.core).l1 :=
    translated_keepTlb.seen (v := Core.l1) (fun _ _ => rfl) w.core
  have hwalks : (keepTlb s (walkAcc w) (walked w e at_ level)).walks = s.walks := keepTlb_walks
  have hmem : (keepTlb s (walkAcc w) (walked w e at_ level)).mem = s.mem := keepTlb_mem
  generalize keepTlb s (walkAcc w) (walked w e at_ level) = u at hheld hcache hl1 hwalks hmem ⊢
  obtain hp | ⟨line, hp⟩ := prefetchAs_held hheld
  · rw [hp, focus_walks, focus_caches, focus_mem]
    exact ⟨hwalks, hcache, fun _ => hmem⟩
  · have ht := touchLine_tables (s := focus u w.core) (line := line) (need := fun _ => true) (counted := false)
    rw [hp, ht.1, ht.2, focus_walks, focus_caches]
    refine ⟨hwalks, hcache, fun hr => ?_⟩
    rw [touchLine_mem, focus_mem, hmem]
    rw [focus_core]
    exact (RoomIn.roomFor hr).of_sublist (hl1 ▸ List.Sublist.refl _)

/-! ### Every store performed, and every translation that a test picks gone -/

theorem drainAlls_storeBuf {l : List Core} (h : j ∈ l.map Core.id ∨ (getCore s j).storeBuf = []) :
    (getCore (l.foldl (fun acc c => drainAll acc c.id) s) j).storeBuf = [] := by
  induction l generalizing s with
  | nil => exact h.resolve_left List.not_mem_nil
  | cons c l ih =>
    refine ih ?_
    by_cases hj : j = c.id
    · rw [hj]
      exact .inr storeBuf_drainAll
    · rw [storeBuf_drainAll_other hj]
      exact h.imp_left fun hm => (List.mem_cons.1 hm).resolve_left hj

/-- A core that is not listed under its number is as at reset. -/
theorem listed_or_reset (h : CoresNumbered s) (j : Nat) : j ∈ (allCores s).map Core.id ∨ (getCore s j).storeBuf = [] := by
  by_cases hj : s.core.id = j
  · exact .inl (List.mem_cons.2 (.inl hj.symm))
  · cases hc : assocGet s.rest j with
    | none =>
      right
      unfold getCore
      rw [if_neg hj, hc]
      rfl
    | some c =>
      have hm := mem_of_assocGet hc
      exact .inl (List.mem_cons_of_mem _ (List.mem_map.2 ⟨c, List.mem_map.2 ⟨_, hm, rfl⟩, h.2 _ hm⟩))

theorem drainEvery_storeBuf (h : CoresNumbered s) (j : Nat) : (getCore (drainEvery s) j).storeBuf = [] :=
  drainAlls_storeBuf (listed_or_reset h j)

theorem getCore_dropTlbs {p : Tlb → Bool} :
    getCore (dropTlbs s p) j = { getCore s j with tlb := (getCore s j).tlb.filter fun x => !(p x) } :=
  getCore_mapCores (f := fun c => { c with tlb := c.tlb.filter fun x => !(p x) }) (fun _ _ => rfl) fun _ => rfl
theorem dropTlbs_cores {p : Tlb → Bool} : ∀ y ∈ (getCore (dropTlbs s p) j).tlb, p y = false := by
  rw [getCore_dropTlbs]
  intro y hy
  simpa using (List.mem_filter.1 hy).2
theorem dropTlbs_caches {p : Tlb → Bool} (n : Fin 5) : ∀ y ∈ (dropTlbs s p).caches[n.val], p y = false := by
  intro y hy
  have h : (dropTlbs s p).caches[n.val] = s.caches[n.val].filter fun x => !(p x) := Vector.getElem_map _ _
  rw [h] at hy
  simpa using (List.mem_filter.1 hy).2

section
variable {inv : InvKind × CtxId × Word} (hnow : s.now = some (.tlbInvalidationComplete k)) (hx : (getCore s k).invalidating = some (some inv))
include hnow hx

theorem exec_tlbInvalidationComplete_held (hh : anyStoreHeld s = true) : exec .tlbInvalidationComplete s = .next s := by
  change execTlbInvalidationComplete s = _
  simp only [execTlbInvalidationComplete, hnow, hx, hh, if_true]
theorem exec_tlbInvalidationComplete_done (hh : anyStoreHeld s = false) : exec .tlbInvalidationComplete s =
    .next (modCore (dropTlbs (drainEvery s) (removesTlb inv)) k fun c => { c with invalidating := some none }) := by
  change execTlbInvalidationComplete s = _
  simp only [execTlbInvalidationComplete, hnow, hx, hh, Bool.false_eq_true, if_false]
end

theorem getCore_invalidated {u : State} : getCore (modCore u k fun c => { c with invalidating := some none }) j =
    if j = k then { getCore u k with invalidating := some none } else getCore u j := by
  rw [getCore_modCore]
  split
  · exact numbered_eq (getCore_id u k)
  · rfl

theorem tlbInvalidationComplete_effect {inv : InvKind × CtxId × Word} :
    let t := modCore (dropTlbs (drainEvery s) (removesTlb inv)) k fun c => { c with invalidating := some none }
    (getCore t k).invalidating = some none ∧ (∀ j, ∀ y ∈ (getCore t j).tlb, removesTlb inv y = false) ∧
      (∀ n : Fin 5, ∀ y ∈ t.caches[n.val], removesTlb inv y = false) ∧ (CoresNumbered s → ∀ j, (getCore t j).storeBuf = []) := by
  intro t
  have hj : ∀ j, (getCore t j).tlb = (getCore (dropTlbs (drainEvery s) (removesTlb inv)) j).tlb ∧
      (getCore t j).storeBuf = (getCore (dropTlbs (drainEvery s) (removesTlb inv)) j).storeBuf := by
    intro j
    rw [getCore_invalidated]
    split
    next h =>
      subst h
      exact ⟨rfl, rfl⟩
    next => exact ⟨rfl, rfl⟩
  refine ⟨?_, fun j => ?_, fun n => ?_, fun hn j => ?_⟩
  · rw [getCore_invalidated, if_pos rfl]
  · rw [(hj j).1]
    exact dropTlbs_cores
  · rw [show t.caches = _ from modCore_caches _ _ _]
    exact dropTlbs_caches n
  · rw [(hj j).2, getCore_dropTlbs]
    exact drainEvery_storeBuf hn j

/-! ### The obligation -/

/-- Settles O46: each event by its own effect; a store that displaces no line changes memory by its direct bytes alone. -/
theorem memorySystemEvents : Obligations.MemorySystemEvents := by
  intro s k i d line delay p dl st rest r q e l w inv n direct x
  refine ⟨fun hnow hq hh => ⟨_, exec_storeBufferDrain hnow, drainStep_held hq hh⟩,
    fun hnow hq hh hw => ⟨_, (exec_storeBufferDrain hnow).trans (congrArg _ (drainStep_whole hq hh hw)), drained_whole⟩,
    fun hnow hq hh hw hl => ⟨_, exec_storeBufferDrain hnow, drainStep_byte hq hh hw hl⟩,
    fun hnow hr => ⟨_, exec_memoryResponse hnow hr, ?_⟩,
    fun hnow hl hi hq => ⟨fun hx => ⟨_, exec_directoryRequest_exclusive hnow hl hi hq hx, ?_⟩, fun hx he h3 h4 hp =>
      ⟨fun hf => ⟨_, exec_directoryRequest_done hnow hl hi hq hx (addSharer_few he h3 h4 hp hf), ?_⟩, fun hf hr =>
        ⟨fun hpin => ⟨_, exec_directoryRequest_done hnow hl hi hq hx (addSharer_unpinned he h3 h4 hp hf hr hpin), ?_⟩,
         fun hpin hv => ⟨_, exec_directoryRequest_raised hnow hl hi hq hx (addSharer_raises he h3 h4 hp hf hr hpin hv), ?_⟩⟩⟩⟩,
    fun hnow hheld hrd => ⟨_, exec_l1Eviction hnow, ?_⟩,
    fun y hy hnow ha hfree => ⟨_, exec_l1Eviction hnow, ?_⟩,
    fun hnow hw => ⟨fun hd => ⟨_, exec_walk_discarded hnow hw hd, rfl⟩, fun hd hk =>
      ⟨fun f hf => ⟨_, exec_walk_kept hnow hw hd, walkedPrefetch_error hf⟩, fun hleaf =>
        ⟨fun hden => ⟨_, exec_walk_kept hnow hw hd, walkedPrefetch_denied hleaf hden⟩,
         fun hden => ⟨_, exec_walk_kept hnow hw hd, walkedPrefetch_effect hleaf hden hk⟩⟩⟩⟩,
    fun hnow hx hh => ⟨_, exec_tlbInvalidationComplete_held hnow hx hh, rfl⟩,
    fun hnow hx hh => ⟨_, exec_tlbInvalidationComplete_done hnow hx hh, tlbInvalidationComplete_effect⟩⟩
  · obtain ⟨ht, hj, hk, ha, hl⟩ := memoryResponse_effect (s := s) (k := k) (i := i) (dl := dl) (r := r)
    refine ⟨ht, hj, hk, ha, hl.trans ?_⟩
    unfold linesAfter
    cases r.line with
    | none => rfl
    | some a => rfl
  · have hd := reqs_lt hl hq
    refine ⟨reqs_putReqs hd, fun y hy hly => eq_of_mem_dirOf_setEntry hd hy hly, mem_dirOf_setEntry hd,
      fun y hy j hj hne => takeExclusive_lacks hy hj hne⟩
  · have hd := reqs_lt hl hq
    refine ⟨reqs_putReqs hd, mem_dirOf_setEntry hd, fun j hj => ?_⟩
    exact notAlone_toShareds (.inl hj)
  · have hd := reqs_lt hl hq
    exact ⟨reqs_putReqs hd, mem_dirOf_setEntry hd⟩
  · refine ⟨reqs_putReqs (reqs_lt hl hq), ?_⟩
    change (getCore (rouse _ _) _).svcq = _
    rw [getCore_rouse, getCore_modCore, if_pos rfl]
  · refine if_neg ?_
    simp only [List.any_eq_true, not_exists, not_and]
    intro z hz hp
    simp only [Bool.and_eq_true, beq_iff_eq, Bool.not_eq_true', Bool.and_eq_false_iff] at hp
    obtain ⟨ha, hr | hl⟩ := hp
    · exact absurd (hrd z hz ha) (beq_eq_false_iff_ne.1 hr)
    · exact absurd (hheld.symm.trans hl) (by decide)
  · rw [if_pos (List.any_eq_true.2 ⟨y, hy, ?_⟩)]
    · exact ⟨getCore_evictLine_own, fun j hj => getCore_evictLine_other hj, evictLine_mem, fun hr he h3 h4 => evictLine_ptrs hr he h3 h4⟩
    · obtain h | h := hfree
      · simp [ha, h]
      · simp [ha, h]

end Sys2Proof.Machine.WalkLaws
end

section
/-!
What a number reads as after it was written, and the bits of a number read: the bytes of memory as one number (R4).
-/
set_option Elab.async false
namespace Sys2Proof.Machine.BytesLaws

variable {m m' : List Host.Cell} {k n j o w x y : Nat}

theorem toBytes_eq (n x : Nat) : toBytes n x = (List.range n).map fun i => BitVec.ofNat 8 (x / 256 ^ i) := by
  induction n generalizing x with
  | zero => rfl
  | succ n ih =>
    rw [toBytes, ih, List.range_succ_eq_map, List.map_cons, List.map_map, Nat.pow_zero, Nat.div_one]
    refine congrArg _ (List.map_congr_left fun i _ => ?_)
    rw [Nat.div_div_eq_div_mul, Function.comp_apply, Nat.pow_succ, Nat.mul_comm]

/-- The number that the low bytes of a number hold. -/
theorem ofBytes_digits (n x : Nat) : ofBytes ((List.range n).map fun i => BitVec.ofNat 8 (x / 256 ^ i)) = x % 256 ^ n := by
  induction n generalizing x with
  | zero => rw [Nat.pow_zero, Nat.mod_one]; rfl
  | succ n ih =>
    have hrest := ih (x / 256)
    rw [List.range_succ_eq_map, List.map_cons, List.map_map, Nat.pow_zero, Nat.div_one, ofBytes]
    rw [show ((fun i => BitVec.ofNat 8 (x / 256 ^ i)) ∘ Nat.succ) = fun i => BitVec.ofNat 8 (x / 256 / 256 ^ i) by
      funext i
      rw [Function.comp_apply, Nat.div_div_eq_div_mul, Nat.pow_succ, Nat.mul_comm], hrest, BitVec.toNat_ofNat]
    have hmod : x % 256 ^ (n + 1) = x % 256 + 256 * (x / 256 % 256 ^ n) := by rw [Nat.pow_succ', Nat.mod_mul]
    exact hmod.symm

theorem memWrite_eq (m : List Host.Cell) (k n x : Nat) :
    memWrite m k n x = memSetAll m ((List.range n).map fun i => (k + i, BitVec.ofNat 8 (x / 256 ^ i))) := by
  have hz : ∀ (l : List Nat) (f : Nat → Byte), l.zip (l.map f) = l.map fun i => (i, f i) := by
    intro l f
    induction l with
    | nil => rfl
    | cons i l ih => rw [List.map_cons, List.zip_cons_cons, ih, List.map_cons]
  rw [memWrite, toBytes_eq, hz, List.map_map]
  rfl

theorem memGet_memSetAll_range (h : Memory.wf m = true) (f : Nat → Byte) :
    memGet (memSetAll m ((List.range n).map fun i => (k + i, f i))) j = if k ≤ j ∧ j < k + n then f (j - k) else memGet m j := by
  induction n with
  | zero => rw [if_neg (by omega)]; rfl
  | succ n ih =>
    have hs : memSetAll m ((List.range (n + 1)).map fun i => (k + i, f i)) =
        memSet (memSetAll m ((List.range n).map fun i => (k + i, f i))) (k + n) (f n) := by
      rw [List.range_succ, List.map_append]
      exact List.foldl_append
    rw [hs, memGet_memSet (memSetAll_wf h _), ih]
    by_cases hj : j = k + n
    · rw [if_pos hj, if_pos (by omega), hj, Nat.add_sub_cancel_left]
    · rw [if_neg hj]
      exact if_congr (by omega) rfl rfl

theorem memGet_memWrite (h : Memory.wf m = true) :
    memGet (memWrite m k n x) j = if k ≤ j ∧ j < k + n then BitVec.ofNat 8 (x / 256 ^ (j - k)) else memGet m j := by
  rw [memWrite_eq, memGet_memSetAll_range h]

theorem memRead_congr (h : ∀ i < n, memGet m (k + i) = memGet m' (k + i)) : memRead m k n = memRead m' k n := by
  unfold memRead
  exact congrArg ofBytes (List.map_congr_left fun i hi => h i (List.mem_range.1 hi))

/-- Bytes of a number written, read back as a number. -/
theorem memRead_memWrite (h : Memory.wf m = true) (hw : o + w ≤ n) : memRead (memWrite m k n x) (k + o) w = x / 256 ^ o % 256 ^ w := by
  rw [← ofBytes_digits w (x / 256 ^ o)]
  refine congrArg ofBytes (List.map_congr_left fun i hi => ?_)
  have := List.mem_range.1 hi
  rw [memGet_memWrite h, if_pos (by omega), Nat.div_div_eq_div_mul, ← Nat.pow_add]
  congr 3
  omega
theorem memRead_memWrite_same (h : Memory.wf m = true) : memRead (memWrite m k n x) k n = x % 256 ^ n := by
  have := memRead_memWrite (k := k) (x := x) h (Nat.le_of_eq (Nat.zero_add n))
  rwa [Nat.add_zero, Nat.pow_zero, Nat.div_one] at this
theorem memRead_memWrite_other (h : Memory.wf m = true) (hj : j + w ≤ k ∨ k + n ≤ j) : memRead (memWrite m k n x) j w = memRead m j w :=
  memRead_congr fun i hi => by rw [memGet_memWrite h, if_neg (by omega)]

theorem ofBytes_lt (l : List Byte) : ofBytes l < 256 ^ l.length := by
  induction l with
  | nil => exact Nat.one_pos
  | cons b l ih =>
    have := b.isLt
    rw [ofBytes, List.length_cons, Nat.pow_succ]
    omega
theorem memRead_lt : memRead m k n < 256 ^ n := by
  have := ofBytes_lt ((List.range n).map fun i => memGet m (k + i))
  rwa [List.length_map, List.length_range] at this

end Sys2Proof.Machine.BytesLaws
end

section
/-!
What the end of a launch's work leaves unchanged (R47, R131): the focus, every task, the contexts, and where the journal lies.
-/
set_option Elab.async false
namespace Sys2Proof.Machine.FaultLaws
open LineLaws

variable {s₀ s t u : State} {k i b n : Nat} {x : Copy}

/-- The focus, every core's task, the contexts and the place of the journal are the same. -/
structure Undisturbed (s t : State) : Prop where
  focus : t.core.id = s.core.id
  tasks : Seen Core.task s t
  ctxs : t.ctxs = s.ctxs
  base : t.hub.journal.base = s.hub.journal.base
  entries : t.hub.journal.entries = s.hub.journal.entries

theorem Undisturbed.refl : Undisturbed s s := ⟨rfl, .refl, rfl, rfl, rfl⟩
theorem Undisturbed.trans (h : Undisturbed s t) (h' : Undisturbed t u) : Undisturbed s u :=
  ⟨h'.focus.trans h.focus, h.tasks.trans h'.tasks, h'.ctxs.trans h.ctxs, h'.base.trans h.base, h'.entries.trans h.entries⟩
theorem Undisturbed.foldl {β : Type} {f : State → β → State} (h : Undisturbed s t) (hf : ∀ t x, Undisturbed s t → Undisturbed s (f t x))
    (l : List β) : Undisturbed s (l.foldl f t) := by
  induction l generalizing t with
  | nil => exact h
  | cons x l ih => exact ih (hf _ x h)
/-- The focus core's task is the same. -/
theorem Undisturbed.core_task (h : Undisturbed s t) : t.core.task = s.core.task := by
  have ht := h.tasks s.core.id
  rwa [getCore_focus, ← h.focus, getCore_focus] at ht

theorem Undisturbed.of_alike (h : Alike Core.task s t) : Undisturbed s t :=
  have he := eq_of_beyond_eq h.others
  ⟨focus_of_beyond_eq h.others, h.cores, by rw [he], by rw [he], by rw [he]⟩
theorem Undisturbed.of_translated (h : Translated s t) : Undisturbed s t := by
  have hid := congrArg (fun u : State => u.core.id) h.others
  have hctx := congrArg (fun u : State => u.ctxs) h.others
  have hhub := congrArg (fun u : State => u.hub) h.others
  dsimp only [untranslated] at hctx hhub
  exact ⟨hid, h.seen fun _ _ => rfl, hctx, by rw [hhub], by rw [hhub]⟩
theorem hidesLines_task : HidesLines Core.task := fun _ _ => rfl
theorem hidesStores_task : HidesStores Core.task := fun _ _ => rfl

theorem Undisturbed.with_mem {m : List Host.Cell} (h : Undisturbed s t) : Undisturbed s { t with mem := m } := ⟨h.1, h.2, h.3, h.4, h.5⟩
theorem Undisturbed.with_launches {l : List Launch} (h : Undisturbed s t) : Undisturbed s { t with launches := l } :=
  ⟨h.1, h.2, h.3, h.4, h.5⟩
theorem Undisturbed.after_modCore {f : Core → Core} (h : Undisturbed s t) (hf : ∀ c, (f c).task = c.task := by intro; rfl) :
    Undisturbed s (modCore t k f) := by
  refine h.trans ⟨modCore_focus_id t k f, fun j => ?_, modCore_ctxs t k f, by rw [modCore_hub], by rw [modCore_hub]⟩
  rw [getCore_modCore]
  split
  next hj => rw [hj]; exact hf _
  next => rfl
/-! ### Copies that stop -/

theorem Undisturbed.after_release {sc : Scope} (h : Undisturbed s t) : Undisturbed s (release t k sc) :=
  h.trans (.of_alike (Alike.refl.after_release hidesLines_task hidesStores_task))
theorem Undisturbed.after_arrive {key : Nat} {sc : Scope} (h : Undisturbed s t) : Undisturbed s (arrive t k key n sc) := by
  unfold arrive
  dsimp only
  split
  · exact h.after_release.with_mem
  · exact h.with_mem
theorem Undisturbed.after_tallyBeat (h : Undisturbed s t) : Undisturbed s (tallyBeat t x n) := h.with_launches
theorem Undisturbed.after_beatDone {rank : Nat} (h : Undisturbed s t) : Undisturbed s (beatDone t k i x b n rank) := by
  unfold beatDone
  dsimp only
  split
  · exact h.after_modCore.after_tallyBeat
  · split
    · exact h.after_modCore.after_tallyBeat.after_arrive
    · exact h.after_modCore.after_tallyBeat
theorem Undisturbed.after_finishBeat (h : Undisturbed s t) (hu : finishBeat t k i x b = .ok u) : Undisturbed s u := by
  unfold finishBeat at hu
  cases hm : moveBeat t x b fun _ _ => true with
  | error e => rw [hm] at hu; cases hu
  | ok m =>
    rw [hm] at hu
    obtain rfl := Except.ok.inj hu
    obtain ⟨s1, j, l, h1, hm⟩ := moveBeat_moves hm
    dsimp only
    rw [hm]
    exact ((h.trans (.of_translated h1)).trans (.of_alike (Alike.refl.after_unitPut hidesLines_task))).after_beatDone
theorem arriveSlots_task (c : Core) (d : CopyDest) : (arriveSlots c d).task = c.task := by
  unfold arriveSlots
  split
  · rfl
  · split <;> rfl
theorem Undisturbed.after_copyGone (h : Undisturbed s t) : Undisturbed s (copyGone t k x) :=
  (h.after_modCore fun c => arriveSlots_task c x.dest).with_launches
theorem Undisturbed.after_stopAtChunk (h : Undisturbed s t) : Undisturbed s (stopAtChunk t k i n) := by
  induction n generalizing t with
  | zero => exact h
  | succ n ih =>
    unfold stopAtChunk
    split
    · exact h
    · dsimp only
      split
      · exact h.after_modCore.after_copyGone
      · split
        next hu => exact ih (h.after_finishBeat hu)
        next => exact h.after_modCore.after_copyGone
theorem Undisturbed.after_endCopies {p : Copy → Bool} (h : Undisturbed s t) : Undisturbed s (endCopies t k p) := by
  unfold endCopies
  dsimp only
  refine Undisturbed.foldl (h.after_modCore.foldl (fun _ _ ht => ht.after_copyGone) _) (fun u x hu => ?_) _
  split
  · split
    · exact hu.after_stopAtChunk
    · exact hu
  · exact hu

/-! ### Matrix commands that end -/

theorem Undisturbed.after_performMatrix {m : MatrixCmd} (h : Undisturbed s t) (hu : performMatrix t k m = .ok u) : Undisturbed s u := by
  cases MatrixLaws.KeepsToCore.performMatrix hu with
  | inCore acc latch => exact h.after_modCore
  | inLocal l hl => exact h.with_mem
theorem Undisturbed.after_gangAll {ta : Ty} {l : List Latch} {r : List (Nat × MatrixCmd)} (h : Undisturbed s t) (hu : gangAll t ta l r = .ok u) :
    Undisturbed s u := by
  induction r generalizing t with
  | nil => exact Except.ok.inj hu ▸ h
  | cons p r ih =>
    unfold gangAll at hu
    split at hu
    · cases hu
    next hg =>
      obtain ⟨rows, -, hg⟩ := MatrixLaws.exists_of_bind_eq_ok hg
      obtain rfl := Except.ok.inj hg
      exact ih h.after_modCore hu
theorem Undisturbed.after_matrixGone {m : MatrixCmd} (h : Undisturbed s t) : Undisturbed s (matrixGone t k m) := h.after_modCore.with_launches
theorem Undisturbed.after_tallyMatrix {m : MatrixCmd} (h : Undisturbed s t) : Undisturbed s (tallyMatrix t m n) := h.with_launches
theorem Undisturbed.after_finishGang {g : Gang} {ta : Ty} (h : Undisturbed s t) : Undisturbed s (finishGang t g ta).1 := by
  unfold finishGang
  dsimp only
  split
  next hu => exact (Undisturbed.after_gangAll (h.foldl (fun _ _ ht => ht.after_matrixGone) _) hu).foldl (fun _ _ ht => ht.after_tallyMatrix) _
  next => exact h.foldl (fun _ _ ht => ht.after_matrixGone) _
theorem Undisturbed.after_finishMatrix (h : Undisturbed s t) : Undisturbed s (finishMatrix t k).1 := by
  unfold finishMatrix
  split
  · exact h
  · split
    · exact h.after_finishGang
    · split
      next hu => exact (h.after_performMatrix hu).after_matrixGone.after_tallyMatrix
      next => exact h.after_matrixGone

/-! ### A launch's work stopped, and its freed cores claimed -/

variable {ctx : CtxId} {lid : Lid}

theorem Undisturbed.after_stopEngines {mine : OpRec → Bool} (h : Undisturbed s t) : Undisturbed s (stopEngines t k mine) := by
  refine Undisturbed.after_endCopies ?_
  split
  · split
    · exact h.after_finishMatrix
    · exact h
  · exact h
theorem Undisturbed.after_stopWork (h : Undisturbed s t) : Undisturbed s (stopWork ctx lid t k) := by
  unfold stopWork
  refine Undisturbed.after_stopEngines ?_
  split
  · split
    · exact h.after_release
    · exact h
  · exact h
theorem Undisturbed.after_claimCores {w : CtxId × Lid} {l : List Nat} (h : Undisturbed s t) : Undisturbed s (claimCores t n w l) := by
  unfold claimCores
  dsimp only
  split
  · refine h.foldl (fun _ _ ht => ht.after_modCore fun c => ?_) _
    split <;> rfl
  · exact h
theorem Undisturbed.after_claimFreed {l : List Nat} (h : Undisturbed s t) : Undisturbed s (claimFreed ctx lid l t) :=
  h.foldl (fun _ _ ht => ht.after_claimCores) _

theorem claimCores_mem {w : CtxId × Lid} {l : List Nat} : (claimCores s n w l).mem = s.mem := by
  have hl : ∀ (f : Core → Core) (l : List Nat) (t : State), (l.foldl (fun acc k => modCore acc k f) t).mem = t.mem := by
    intro f l
    induction l with
    | nil => exact fun _ => rfl
    | cons k l ih => exact fun t => (ih _).trans (modCore_mem t k f)
  unfold claimCores
  dsimp only
  split
  · exact hl _ l s
  · rfl
theorem claimFreed_mem {l : List Nat} : (claimFreed ctx lid l s).mem = s.mem := by
  unfold claimFreed
  generalize (s.cuts.flatMap fun c => c.claims.filter fun x => x.2.2.2.contains (ctx, lid)) = cs
  induction cs generalizing s with
  | nil => rfl
  | cons c cs ih => exact ih.trans claimCores_mem

end Sys2Proof.Machine.FaultLaws
end

section
/-!
A launch fault as it is taken (R48, R129, R131, R323): the launch ends, its guilt and its record count, and a machine at rest changes the record's slot
and the journal alone.
-/
set_option Elab.async false
namespace Sys2Proof.Machine.FaultLaws
open LineLaws BytesLaws

variable {s t u : State} {k j n : Nat} {ctx : CtxId} {lid : Lid}

/-! ### The journal -/

/-- The bytes of the journal. -/
def InJournal (s : State) (j : Nat) : Prop := s.hub.journal.base.toNat ≤ j ∧ j < s.hub.journal.base.toNat + 32 * s.hub.journal.entries

/-- Nothing but the journal's bytes has changed, and what a write at the homes leaves. -/
structure Journaled (s t : State) : Prop where
  undisturbed : Undisturbed s t
  wf : Memory.wf s.mem = true → Memory.wf t.mem = true
  mem : Memory.wf s.mem = true → ∀ j, ¬ InJournal s j → memGet t.mem j = memGet s.mem j
  launches : t.launches = s.launches

theorem Journaled.refl : Journaled s s := ⟨.refl, id, fun _ _ _ => rfl, rfl⟩
theorem Journaled.trans (h : Journaled s t) (h' : Journaled t u) : Journaled s u := by
  refine ⟨h.undisturbed.trans h'.undisturbed, h'.wf ∘ h.wf, fun hw j hj => ?_, h'.launches.trans h.launches⟩
  rw [h'.mem (h.wf hw) j (by unfold InJournal; rwa [h.undisturbed.base, h.undisturbed.entries]), h.mem hw j hj]
/-- A change of the hub that leaves the journal's place. -/
theorem Journaled.with_hub {x : Hub} (h : Journaled s t) (hb : x.journal.base = t.hub.journal.base) (he : x.journal.entries = t.hub.journal.entries) :
    Journaled s { t with hub := x } :=
  h.trans ⟨⟨rfl, .refl, rfl, hb, he⟩, id, fun _ _ _ => rfl, rfl⟩

theorem putNum_mem (s : State) (a n x : Nat) : (putNum s a n x).mem = memWrite s.mem a n x := recallZero_mem _ _

/-- A number written within the journal. -/
theorem Journaled.of_putNum {a x : Nat} (ha : ∀ j, a ≤ j → j < a + n → InJournal s j) : Journaled s (putNum s a n x) := by
  have hl : Alike Core.task s (putNum s a n x) := Alike.refl.after_putNum hidesLines_task
  have hm := putNum_mem s a n x
  refine ⟨.of_alike hl, fun hw => by rw [hm]; exact memWrite_wf hw a n x, fun hw j hj => ?_, by rw [eq_of_beyond_eq hl.others]⟩
  rw [hm, memGet_memWrite_other hw]
  by_contra hc
  exact hj (ha j (by omega) (by omega))

theorem inJournal_slot {seq : Word} (he : s.hub.journal.entries ≠ 0) (hn : n ≤ 32) :
    ∀ j, journalSlot s seq ≤ j → j < journalSlot s seq + n → InJournal s j := by
  intro j h1 h2
  have hm : seq.toNat % s.hub.journal.entries < s.hub.journal.entries := Nat.mod_lt _ (Nat.pos_of_ne_zero he)
  unfold journalSlot at h1 h2
  unfold InJournal
  omega

theorem Journaled.of_journalMark {seq : Word} {st : BitVec 2} {e : BitVec 16} : Journaled s (journalMark s seq st e) := by
  unfold journalMark
  dsimp only
  split
  · exact .refl
  next he => exact .of_putNum (inJournal_slot he (by decide))
theorem Journaled.of_journalWrite {d : BitVec 128} {q : BitVec 4} {st : BitVec 2} {e : BitVec 16} {evt : Bool} :
    Journaled s (journalWrite s d ctx q st e evt) := by
  unfold journalWrite
  dsimp only
  split
  · exact Journaled.refl.with_hub rfl rfl
  next he =>
    have h := Journaled.of_putNum (n := 32) (inJournal_slot (seq := s.hub.journal.nextSeq) he (Nat.le_refl 32))
      (x := (d ++ s.hub.journal.nextSeq ++ (e ++ st ++ ctx ++ q ++ (if s.hub.apertureUp = true then s.hub.wakeLost else 0) ++
        (if evt = true then 1#1 else 0#1) ++ 0#15 : BitVec 64) : BitVec 256).toNat)
    exact h.with_hub h.undisturbed.base.symm h.undisturbed.entries.symm
theorem Journaled.of_journalFlushN (n : Nat) : Journaled s (journalFlushN s n) := by
  induction n generalizing s with
  | zero => exact .refl
  | succ n ih =>
    unfold journalFlushN
    split
    · exact .refl
    · split
      · exact .refl
      · dsimp only
        refine Journaled.trans ?_ ih
        refine Journaled.trans ?_ .of_journalWrite
        exact Journaled.refl.with_hub rfl rfl
theorem Journaled.of_journalEnd {seq : Option Word} {st : BitVec 2} {e : BitVec 16} : Journaled s (journalEnd s seq st e) := by
  unfold journalEnd
  split
  · refine Journaled.trans ?_ (.of_journalFlushN _)
    exact Journaled.of_journalMark.with_hub rfl rfl
  · exact .refl

/-! ### Work that stops on a machine at rest -/

/-- A core with no store to perform, no dirty remote line and no engine at work. -/
def Calm (c : Core) : Prop := c.storeBuf = [] ∧ (∀ y ∈ c.l1, y.st ≠ .rd) ∧ c.mrun = none ∧ c.cq = [] ∧ c.flight = []

theorem Quiet.calm (h : Quiet s) (j : Nat) : Calm (getCore s j) := by
  unfold getCore
  split
  · exact h s.core List.mem_cons_self
  · cases hc : assocGet s.rest j with
    | none => exact ⟨rfl, List.forall_mem_nil _, rfl, rfl, rfl⟩
    | some c => exact h c (List.mem_cons_of_mem _ (List.mem_map.2 ⟨_, DrainLaws.mem_of_assocGet hc, rfl⟩))

/-- A machine at rest with the same memory. -/
structure Rests (s t : State) : Prop where
  mem : t.mem = s.mem
  calm : ∀ j, Calm (getCore t j)

theorem Rests.after_modCore {f : Core → Core} (h : Rests s t) (hf : ∀ c, Calm c → Calm (f c)) : Rests s (modCore t k f) := by
  refine ⟨(modCore_mem t k f).trans h.mem, fun j => ?_⟩
  rw [getCore_modCore]
  split
  · exact hf _ (h.calm k)
  · exact h.calm j

theorem Rests.after_release {sc : Scope} (h : Rests s t) : Rests s (release t k sc) := by
  obtain ⟨hb, hl, -⟩ := h.calm k
  have hd : drainAll t k = t := by
    unfold drainAll
    rw [hb]
    rfl
  have hf : flushRemote t k = t := by
    unfold flushRemote
    rw [List.filter_eq_nil_iff.2 fun z hz => by simpa using hl z hz]
    rfl
  unfold release
  rw [hd]
  dsimp only
  split
  · rw [hf]
    refine h.after_modCore fun c hc => ⟨hc.1, fun y hy => ?_, hc.2.2⟩
    obtain ⟨z, hz, rfl⟩ := List.mem_map.1 hy
    rw [if_neg (hc.2.1 z hz)]
    exact hc.2.1 z hz
  · exact h

theorem endCopies_calm {p : Copy → Bool} (h : Calm (getCore s k)) :
    endCopies s k p = modCore s k fun c => { c with cq := c.cq.filter fun x => !(p x) } := by
  obtain ⟨-, -, -, hq, hf⟩ := h
  unfold endCopies
  dsimp only
  rw [hq, hf]
  rfl

theorem Rests.after_stopEngines {mine : OpRec → Bool} (h : Rests s t) : Rests s (stopEngines t k mine) := by
  have hm : (getCore t k).mrun = none := (h.calm k).2.2.1
  have he : stopEngines t k mine = endCopies t k fun x => mine x.rcd := by
    unfold stopEngines
    dsimp only
    simp only [hm]
  rw [he, endCopies_calm (h.calm k)]
  refine h.after_modCore fun c hc => ⟨hc.1, hc.2.1, hc.2.2.1, ?_, hc.2.2.2.2⟩
  dsimp only
  rw [hc.2.2.2.1]
  rfl
theorem Rests.after_stopWork (h : Rests s t) : Rests s (stopWork ctx lid t k) := by
  unfold stopWork
  refine Rests.after_stopEngines ?_
  split
  · split
    · exact h.after_release
    · exact h
  · exact h
theorem Rests.after_stopWorks (h : Rests s t) (l : List Nat) : Rests s (l.foldl (stopWork ctx lid) t) := by
  induction l generalizing t with
  | nil => exact h
  | cons k l ih => exact ih h.after_stopWork

/-! ### The end of a launch -/

theorem clearTask_task (c : Core) : (clearTask c).task = none := by
  unfold clearTask
  split
  · assumption
  · rfl
theorem endOnCore_task {c : Core} {x : Task} (hx : c.task = some x) (ho : x.info.ofLaunch ctx lid = true) : (endOnCore ctx lid c).task = none := by
  have h : (endOnCore ctx lid c).task = (clearTask c).task := by
    unfold endOnCore
    simp only [hx, ho, if_true]
    rfl
  rw [h, clearTask_task]

/-- The state in which a launch has left every core, before it leaves its levels. -/
def workEnded (s : State) (l : Launch) : State :=
  claimFreed l.ctx l.lid (launchCores s l.ctx l.lid)
    (dropPending (mapCores (((allCores s).map Core.id).foldl (stopWork l.ctx l.lid) s) (endOnCore l.ctx l.lid)) l.ctx l.lid false)

section
variable {l : Launch}

theorem undisturbed_stopWorks : Undisturbed s (((allCores s).map Core.id).foldl (stopWork l.ctx l.lid) s) :=
  Undisturbed.refl.foldl (fun _ _ ht => ht.after_stopWork) _

theorem workEnded_task {x : Task} (hx : s.core.task = some x) (ho : x.info.ofLaunch l.ctx l.lid = true) : (workEnded s l).core.task = none := by
  unfold workEnded
  rw [(Undisturbed.refl.after_claimFreed).core_task]
  exact endOnCore_task (undisturbed_stopWorks.core_task.trans hx) ho
theorem workEnded_ctxs : (workEnded s l).ctxs = s.ctxs := by
  unfold workEnded
  rw [(Undisturbed.refl.after_claimFreed).ctxs]
  exact undisturbed_stopWorks.ctxs
theorem workEnded_journal : (workEnded s l).hub.journal.base = s.hub.journal.base ∧ (workEnded s l).hub.journal.entries = s.hub.journal.entries := by
  unfold workEnded
  rw [(Undisturbed.refl.after_claimFreed).base, (Undisturbed.refl.after_claimFreed).entries]
  exact ⟨undisturbed_stopWorks.base, undisturbed_stopWorks.entries⟩
theorem workEnded_mem (h : ∀ j, Calm (getCore s j)) : (workEnded s l).mem = s.mem := by
  unfold workEnded
  rw [claimFreed_mem]
  exact (Rests.after_stopWorks ⟨rfl, h⟩ _).mem

/-- What a fault counts in its context: its guilt, and the fault queue's write and drop counts. -/
def dues (c : Ctx) := (c.guilt, c.faultWr, c.faultDrop)

theorem dues_modCtx {i : CtxId} {f : Ctx → Ctx} (hf : ∀ c, (f c).id = c.id ∧ dues (f c) = dues c) :
    (getCtx (modCtx s i f) ctx).map dues = (getCtx s ctx).map dues := by
  rw [getCtx_modCtx s i ctx f fun c => (hf c).1, Option.map_map]
  congr 1
  funext c
  dsimp only [Function.comp_apply]
  split
  · exact (hf c).2
  · rfl

theorem leaveLevels_dues {e : Option (BitVec 16)} : (getCtx (leaveLevels s l e) ctx).map dues = (getCtx s ctx).map dues := by
  unfold leaveLevels modQueue
  dsimp only
  rw [dues_modCtx, dues_modCtx]
  · split <;> rfl
  · exact fun _ => ⟨rfl, rfl⟩
  · exact fun _ => ⟨rfl, rfl⟩
theorem leaveLevels_core {e : Option (BitVec 16)} : (leaveLevels s l e).core = s.core := by
  unfold leaveLevels modQueue
  dsimp only
  split <;> rfl
theorem leaveLevels_mem {e : Option (BitVec 16)} : (leaveLevels s l e).mem = s.mem := by
  unfold leaveLevels modQueue
  dsimp only
  split <;> rfl
theorem leaveLevels_hub {e : Option (BitVec 16)} : (leaveLevels s l e).hub = s.hub := by
  unfold leaveLevels modQueue
  dsimp only
  split <;> rfl

/-- A launch retired: it is not listed, its task on the focus core is gone, its context owes what it owed, and a machine at rest changes the
journal alone. -/
theorem retireLaunch_effect {st : BitVec 2} {e : BitVec 16} :
    let t := retireLaunch s l st e
    getLaunch t l.ctx l.lid = none ∧
      (∀ x, s.core.task = some x → x.info.ofLaunch l.ctx l.lid = true → t.core.task = none) ∧
      (getCtx t ctx).map dues = (getCtx s ctx).map dues ∧
      ((∀ j, Calm (getCore s j)) → Memory.wf s.mem = true → ∀ j, ¬ InJournal s j → memGet t.mem j = memGet s.mem j) := by
  intro t
  have hj : Journaled (leaveLevels (workEnded s l) l (if st = 3 then some e else none)) (journalEnd _ l.jseq st e) := .of_journalEnd
  refine ⟨?_, fun x hx ho => ?_, ?_, fun hc hw j hn => ?_⟩
  · change List.find? _ (List.filter _ _) = none
    rw [List.find?_eq_none]
    intro x hx
    rw [Bool.not_eq_true]
    simpa only [Bool.not_eq_true'] using (List.mem_filter.1 hx).2
  · exact hj.undisturbed.core_task.trans ((congrArg Core.task leaveLevels_core).trans (workEnded_task hx ho))
  · have h1 : getCtx t ctx = getCtx (leaveLevels (workEnded s l) l (if st = 3 then some e else none)) ctx := by
      unfold getCtx
      exact congrArg _ hj.undisturbed.ctxs
    rw [h1, leaveLevels_dues]
    unfold getCtx
    rw [workEnded_ctxs]
  · have hm : (leaveLevels (workEnded s l) l (if st = 3 then some e else none)).mem = s.mem := leaveLevels_mem.trans (workEnded_mem hc)
    refine (hj.mem (by rwa [hm]) j ?_).trans (by rw [hm])
    unfold InJournal
    rw [leaveLevels_hub, workEnded_journal.1, workEnded_journal.2]
    exact hn

end

/-! ### The fault -/

variable {r : FaultRec} {c : Ctx} {l : Launch} {q : BitVec 4} {e : BitVec 16}

theorem appendRecord_full (hc : getCtx s ctx = some c) (hf : 2 ^ c.faultLsize.toNat ≤ (c.faultWr - c.faultRd).toNat) :
    appendRecord s ctx r = modCtx s ctx fun c => { c with faultDrop := satAdd c.faultDrop 1 } := by
  simp only [appendRecord, hc, hf, if_true]
theorem appendRecord_room (hc : getCtx s ctx = some c) (hf : ¬ 2 ^ c.faultLsize.toNat ≤ (c.faultWr - c.faultRd).toNat) :
    appendRecord s ctx r =
      modCtx (putNum s (c.faultBase.toNat + 64 * (c.faultWr.toNat % 2 ^ c.faultLsize.toNat)) 64 r.bits.toNat) ctx
        fun c => { c with faultWr := c.faultWr + 1 } := by
  simp only [appendRecord, hc, hf, if_false]

theorem putNum_ctx {a x : Nat} : getCtx (putNum s a n x) ctx = getCtx s ctx := by
  have h : Alike Core.task s (putNum s a n x) := Alike.refl.after_putNum hidesLines_task
  unfold getCtx
  rw [eq_of_beyond_eq h.others]

theorem appendRecord_mem (hc : getCtx s ctx = some c) : (appendRecord s ctx r).mem =
    if 2 ^ c.faultLsize.toNat ≤ (c.faultWr - c.faultRd).toNat then s.mem
    else memWrite s.mem (c.faultBase.toNat + 64 * (c.faultWr.toNat % 2 ^ c.faultLsize.toNat)) 64 r.bits.toNat := by
  split
  next hf =>
    rw [appendRecord_full hc hf]
    rfl
  next hf =>
    rw [appendRecord_room hc hf]
    exact putNum_mem _ _ _ _

/-- What a record appended leaves in its context. -/
theorem appendRecord_dues (hc : getCtx s ctx = some c) : (getCtx (appendRecord s ctx r) ctx).map dues =
    some (if 2 ^ c.faultLsize.toNat ≤ (c.faultWr - c.faultRd).toNat then (c.guilt, c.faultWr, satAdd c.faultDrop 1)
      else (c.guilt, c.faultWr + 1, c.faultDrop)) := by
  have hid : c.id = ctx := by
    have := List.find?_some hc
    simpa using this
  split
  next hf =>
    rw [appendRecord_full hc hf, getCtx_modCtx, hc, Option.map_some, Option.map_some, if_pos hid]
    · rfl
    · exact fun _ => rfl
  next hf =>
    rw [appendRecord_room hc hf, getCtx_modCtx, putNum_ctx, hc, Option.map_some, Option.map_some, if_pos hid]
    · rfl
    · exact fun _ => rfl

theorem calm_putNum {a x : Nat} (h : Calm (getCore s j)) : Calm (getCore (putNum s a n x) j) := by
  unfold putNum
  obtain hj | hj := getCore_recallZero { s with mem := memWrite s.mem a n x }
    ((List.range ((a + n - 1) / 128 + 1 - a / 128)).map fun i => a / 128 + i) j
  · rw [hj]
    exact h
  · rw [hj]
    exact ⟨h.1, fun y hy => h.2.1 y (List.mem_filter.1 hy).1, h.2.2⟩

theorem appendRecord_undisturbed : (appendRecord s ctx r).core.task = s.core.task ∧
    (appendRecord s ctx r).hub = s.hub ∧ ((∀ j, Calm (getCore s j)) → ∀ j, Calm (getCore (appendRecord s ctx r) j)) := by
  unfold appendRecord
  split
  · exact ⟨rfl, rfl, id⟩
  · dsimp only
    split
    · exact ⟨rfl, rfl, id⟩
    next c _ _ =>
      generalize c.faultBase.toNat + 64 * (c.faultWr.toNat % 2 ^ c.faultLsize.toNat) = slot
      have ha : Alike Core.task s (putNum s slot 64 r.bits.toNat) := Alike.refl.after_putNum hidesLines_task
      refine ⟨(Undisturbed.of_alike ha).core_task, ?_, fun hc j => calm_putNum (hc j)⟩
      change (putNum s slot 64 r.bits.toNat).hub = s.hub
      rw [eq_of_beyond_eq ha.others]

/-- The state of a fault before its launch ends. -/
def charged (s : State) (ctx : CtxId) (r : FaultRec) (q : BitVec 4) : State := setErr (addGuilt (appendRecord s ctx r) ctx) ctx q 1

theorem charged_dues (hc : getCtx s ctx = some c) : (getCtx (charged s ctx r q) ctx).map dues =
    some (if 2 ^ c.faultLsize.toNat ≤ (c.faultWr - c.faultRd).toNat then (satAdd c.guilt 1, c.faultWr, satAdd c.faultDrop 1)
      else (satAdd c.guilt 1, c.faultWr + 1, c.faultDrop)) := by
  have ha := appendRecord_dues (r := r) hc
  have he : (getCtx (charged s ctx r q) ctx).map dues = (getCtx (addGuilt (appendRecord s ctx r) ctx) ctx).map dues := by
    unfold charged setErr modQueue
    rw [dues_modCtx]
    exact fun _ => ⟨rfl, rfl⟩
  rw [he]
  unfold addGuilt
  obtain ⟨d, hd, hdues⟩ := Option.map_eq_some_iff.1 ha
  have hid : d.id = ctx := by
    have := List.find?_some hd
    simpa using this
  rw [getCtx_modCtx _ _ _ _ (by exact fun _ => rfl), hd, Option.map_some, Option.map_some, if_pos hid]
  congr 1
  split
  next hf =>
    rw [if_pos hf] at hdues
    obtain ⟨hg, hw⟩ := Prod.mk.inj hdues
    exact Prod.ext (congrArg (satAdd · 1) hg) hw
  next hf =>
    rw [if_neg hf] at hdues
    obtain ⟨hg, hw⟩ := Prod.mk.inj hdues
    exact Prod.ext (congrArg (satAdd · 1) hg) hw

theorem faultLaunch_eq {code : FCode} (hl : getLaunch s ctx r.lid = some l) (hcode : code ≠ .machineCheck) :
    faultLaunch s ctx r code = retireLaunch (charged s ctx r l.queue) l 3 (code.code.zeroExtend 16) := by
  simp only [faultLaunch, hl, hcode, if_false]
  rfl

theorem bits_lt (r : FaultRec) : r.bits.toNat < 256 ^ 64 := by
  have h : r.bits.toNat < 2 ^ (8 * 64) := r.bits.isLt
  rwa [Nat.pow_mul] at h

/-- A fault of the focus core's task is taken as R48 and R323 say. -/
theorem faultTaken_faultLaunch {k : Task} {pc addr : Word} {un : UnitCode} {code : FCode} (hw : Memory.wf s.mem = true)
    (hk : s.core.task = some k) (hcode : code ≠ .machineCheck) :
    FaultTaken s (faultLaunch s k.info.ctx (preciseRec s k pc code un addr) code) pc un code addr := by
  intro k' c l hk' hc hl
  obtain rfl := Option.some.inj (hk.symm.trans hk')
  have hl' : getLaunch s k.info.ctx (preciseRec s k pc code un addr).lid = some l := hl
  obtain ⟨hlc, hll⟩ : l.ctx = k.info.ctx ∧ l.lid = k.info.lid := by
    have := List.find?_some hl
    simpa using this
  rw [faultLaunch_eq hl' hcode]
  obtain ⟨htask, hhub, hcalm⟩ := appendRecord_undisturbed (s := s) (ctx := k.info.ctx) (r := preciseRec s k pc code un addr)
  obtain ⟨h1, h2, h3, h4⟩ := retireLaunch_effect (s := charged s k.info.ctx (preciseRec s k pc code un addr) l.queue) (l := l) (ctx := k.info.ctx)
    (st := 3) (e := code.code.zeroExtend 16)
  intro size slot full journal
  refine ⟨by rwa [hlc, hll] at h1, h2 k (htask.trans hk) (by simp [TaskInfo.ofLaunch, hlc, hll]), ?_, fun hq => ?_⟩
  · rw [charged_dues hc] at h3
    obtain ⟨d, hd, hdues⟩ := Option.map_eq_some_iff.1 h3
    refine ⟨d, hd, ?_⟩
    by_cases hf : full
    · rw [if_pos hf] at hdues
      obtain ⟨hg, hdues⟩ := Prod.mk.inj hdues
      exact ⟨hg, fun _ => Prod.mk.inj hdues, fun hn => absurd hf hn⟩
    · rw [if_neg hf] at hdues
      obtain ⟨hg, hdues⟩ := Prod.mk.inj hdues
      exact ⟨hg, fun hn => absurd hn hf, fun _ => Prod.mk.inj hdues⟩
  · have hcalmed : ∀ j, Calm (getCore (charged s k.info.ctx (preciseRec s k pc code un addr) l.queue) j) := hcalm (Quiet.calm hq)
    have hmem : (charged s k.info.ctx (preciseRec s k pc code un addr) l.queue).mem =
        if full then s.mem else memWrite s.mem slot 64 (preciseRec s k pc code un addr).bits.toNat := by
      exact appendRecord_mem hc
    have hwf : Memory.wf (charged s k.info.ctx (preciseRec s k pc code un addr) l.queue).mem = true := by
      rw [hmem]
      split
      · exact hw
      · exact memWrite_wf hw _ _ _
    have hjournal : ∀ j, InJournal (charged s k.info.ctx (preciseRec s k pc code un addr) l.queue) j ↔ journal j := by
      intro j
      unfold InJournal
      rw [show (charged s k.info.ctx (preciseRec s k pc code un addr) l.queue).hub = s.hub from hhub]
    refine ⟨fun j hj hs => ?_, fun hf hs => ?_⟩
    · rw [h4 hcalmed hwf j fun h => hj ((hjournal j).1 h), hmem]
      by_cases hf : full
      · rw [if_pos hf]
      · rw [if_neg hf]
        exact memGet_memWrite_other hw (hs.resolve_left hf)
    · rw [memRead_congr (m' := memWrite s.mem slot 64 (preciseRec s k pc code un addr).bits.toNat) fun i hi => ?_, memRead_memWrite_same hw]
      · exact Nat.mod_eq_of_lt (bits_lt _)
      · rw [h4 hcalmed hwf _ fun h => hs _ (by omega) (by omega) ((hjournal _).1 h), hmem, if_neg hf]

end Sys2Proof.Machine.FaultLaws
end

section
/-!
Pages moved between memory and flash, the leaves that a fetch and a page-out leave (R138), and NVMe's entries as they read (R369; log 54).
-/
set_option Elab.async false
namespace Sys2Proof.Machine.PageLaws
open BytesLaws

variable {m src dst : List Host.Cell} {a b j lo hi : Nat}

/-! ### 64 KiB moved -/

theorem keys_nodup_of_above {m : List Host.Cell} {lo : Nat} (h : Memory.above lo m) : (∀ p ∈ m, lo < p.1) ∧ (m.map Prod.fst).Nodup := by
  induction m generalizing lo with
  | nil => exact ⟨nofun, List.nodup_nil⟩
  | cons p m ih =>
    obtain ⟨hlo, -, hm⟩ := h
    obtain ⟨hlt, hn⟩ := ih hm
    refine ⟨fun q hq => ?_, List.nodup_cons.2 ⟨fun hp => ?_, hn⟩⟩
    · obtain rfl | hq := List.mem_cons.1 hq
      · exact hlo
      · exact hlo.trans (hlt q hq)
    · obtain ⟨q, hq, he⟩ := List.mem_map.1 hp
      exact absurd (hlt q hq) (by omega)
theorem keys_nodup (h : Memory.wf m = true) : (m.map Prod.fst).Nodup := by
  rw [Memory.wf_iff_rising] at h
  cases m with
  | nil => exact List.nodup_nil
  | cons p m =>
    obtain ⟨hlt, hn⟩ := keys_nodup_of_above h.2
    refine List.nodup_cons.2 ⟨fun hp => ?_, hn⟩
    obtain ⟨q, hq, he⟩ := List.mem_map.1 hp
    exact absurd (hlt q hq) (by omega)

theorem memGet_of_not_mem (h : j ∉ m.map Prod.fst) : memGet m j = 0 := by
  induction m with
  | nil => rfl
  | cons p m ih =>
    rw [List.map_cons, List.mem_cons, not_or] at h
    exact (if_neg (Ne.symm h.1)).trans (ih h.2)

/-- Cells written, each key once. -/
theorem memGet_memSetAll {l : List Host.Cell} (h : Memory.wf m = true) (hl : (l.map Prod.fst).Nodup) :
    memGet (memSetAll m l) j = if j ∈ l.map Prod.fst then memGet l j else memGet m j := by
  induction l generalizing m with
  | nil => rfl
  | cons p l ih =>
    obtain ⟨k, x⟩ := p
    rw [List.map_cons, List.nodup_cons] at hl
    have hs : memSetAll m ((k, x) :: l) = memSetAll (memSet m k x) l := rfl
    have hg : memGet ((k, x) :: l) j = if k = j then x else memGet l j := rfl
    rw [hs, ih (memSet_wf h k x) hl.2, memGet_memSet h, hg, List.map_cons]
    by_cases hj : j = k
    · subst hj
      rw [if_neg hl.1, if_pos rfl, if_pos List.mem_cons_self, if_pos rfl]
    · rw [if_neg hj, if_neg (Ne.symm hj)]
      exact if_congr (by rw [List.mem_cons]; exact (or_iff_right hj).symm) rfl rfl

theorem memGet_memClear : memGet (memClear m lo hi) j = if lo ≤ j ∧ j < hi then 0 else memGet m j := by
  unfold memClear
  induction m with
  | nil => exact (ite_self _).symm
  | cons p m ih =>
    obtain ⟨k, x⟩ := p
    have hg : memGet ((k, x) :: m) j = if k = j then x else memGet m j := rfl
    rw [List.filter_cons, hg]
    dsimp only
    split
    next hk =>
      have hg' : ∀ l, memGet ((k, x) :: l) j = if k = j then x else memGet l j := fun _ => rfl
      rw [hg', ih]
      rw [Bool.or_eq_true, decide_eq_true_eq, decide_eq_true_eq] at hk
      by_cases hj : k = j
      · rw [if_pos hj, if_neg (by omega), if_pos hj]
      · rw [if_neg hj, if_neg hj]
    next hk =>
      rw [Bool.or_eq_true, decide_eq_true_eq, decide_eq_true_eq] at hk
      rw [ih]
      by_cases hj : k = j
      · rw [if_pos (by omega), if_pos (by omega)]
      · rw [if_neg hj]

/-- The cells of 64 KiB from one place, under their keys at another. -/
def shifted (src : List Host.Cell) (a b : Nat) : List Host.Cell :=
  (src.filter fun p => decide (a ≤ p.1) && decide (p.1 < a + 2 ^ 16)).map fun p => (p.1 - a + b, p.2)

theorem shifted_keys {k : Nat} (h : k ∈ (shifted src a b).map Prod.fst) : b ≤ k ∧ k < b + 2 ^ 16 := by
  unfold shifted at h
  rw [List.map_map] at h
  obtain ⟨p, hp, rfl⟩ := List.mem_map.1 h
  have := (List.mem_filter.1 hp).2
  rw [Bool.and_eq_true, decide_eq_true_eq, decide_eq_true_eq] at this
  dsimp only [Function.comp_apply]
  omega

theorem memGet_shifted {i : Nat} (hi : i < 2 ^ 16) : memGet (shifted src a b) (b + i) = memGet src (a + i) := by
  unfold shifted
  induction src with
  | nil => rfl
  | cons p src ih =>
    obtain ⟨k, x⟩ := p
    have hg : memGet ((k, x) :: src) (a + i) = if k = a + i then x else memGet src (a + i) := rfl
    rw [List.filter_cons, hg]
    dsimp only
    split
    next hk =>
      rw [Bool.and_eq_true, decide_eq_true_eq, decide_eq_true_eq] at hk
      rw [List.map_cons]
      have hg' : ∀ l, memGet ((k - a + b, x) :: l) (b + i) = if k - a + b = b + i then x else memGet l (b + i) := fun _ => rfl
      rw [hg', ih]
      exact if_congr (by omega) rfl rfl
    next hk =>
      rw [Bool.and_eq_true, decide_eq_true_eq, decide_eq_true_eq] at hk
      rw [ih, if_neg (by omega)]

theorem shifted_nodup (h : Memory.wf src = true) : ((shifted src a b).map Prod.fst).Nodup := by
  have hs : ((src.filter fun p => decide (a ≤ p.1) && decide (p.1 < a + 2 ^ 16)).map Prod.fst).Nodup :=
    (keys_nodup h).sublist (List.filter_sublist.map _)
  have hm : (shifted src a b).map Prod.fst =
      ((src.filter fun p => decide (a ≤ p.1) && decide (p.1 < a + 2 ^ 16)).map Prod.fst).map fun k => k - a + b := by
    unfold shifted
    rw [List.map_map, List.map_map]
    rfl
  rw [hm]
  refine hs.map_on fun x hx y hy hxy => ?_
  have hin : ∀ z ∈ (src.filter fun p => decide (a ≤ p.1) && decide (p.1 < a + 2 ^ 16)).map Prod.fst, a ≤ z := by
    intro z hz
    obtain ⟨p, hp, rfl⟩ := List.mem_map.1 hz
    exact of_decide_eq_true (Bool.and_eq_true_iff.1 (List.mem_filter.1 hp).2).1
  have := hin x hx
  have := hin y hy
  omega

theorem memGet_movePage (hs : Memory.wf src = true) (hd : Memory.wf dst = true) :
    memGet (movePage src dst a b) j = if b ≤ j ∧ j < b + 2 ^ 16 then memGet src (a + (j - b)) else memGet dst j := by
  have hm : movePage src dst a b = memSetAll (memClear dst b (b + 2 ^ 16)) (shifted src a b) := rfl
  rw [hm, memGet_memSetAll (memClear_wf hd _ _) (shifted_nodup hs), memGet_memClear]
  by_cases hj : b ≤ j ∧ j < b + 2 ^ 16
  · have hi := memGet_shifted (src := src) (a := a) (b := b) (i := j - b) (by omega)
    rw [Nat.add_sub_cancel' hj.1] at hi
    rw [if_pos hj, if_pos hj, hi]
    split
    · rfl
    next hn => rw [← hi, memGet_of_not_mem hn]
  · rw [if_neg fun h => hj (shifted_keys h), if_neg hj, if_neg hj]

/-! ### Leaves -/

theorem toNat_append {v w : Nat} (x : BitVec v) (y : BitVec w) : (x ++ y).toNat = x.toNat * 2 ^ w + y.toNat := by
  rw [BitVec.toNat_append, Nat.shiftLeft_eq, Nat.mul_comm, Nat.two_pow_add_eq_or_of_lt y.isLt]

section
variable {e part : Nat} {frame : BitVec 32} {free : Word} {lba : BitVec 52}

theorem testBit_presentLeaf {i : Nat} (hi : i < 10) :
    (presentLeaf e frame part free).toNat.testBit i = (e.testBit i && (0x21F#10).getLsbD i) := by
  rw [BitVec.testBit_toNat, presentLeaf, BitVec.getLsbD_append, if_pos hi, BitVec.getLsbD_and, BitVec.getLsbD_ofNat, decide_eq_true hi,
    Bool.true_and]
theorem testBit_coldLeaf {i : Nat} (hi : i < 10) :
    (coldLeaf e lba).toNat.testBit i = (e.testBit i && (0x3BF#10).getLsbD i || (0x020#10).getLsbD i) := by
  rw [BitVec.testBit_toNat, coldLeaf, BitVec.getLsbD_append, if_pos hi, BitVec.getLsbD_or, BitVec.getLsbD_and, BitVec.getLsbD_ofNat,
    decide_eq_true hi, Bool.true_and]

theorem presentLeaf_toNat : (presentLeaf e frame part free).toNat =
    (free.extractLsb' 0 4 ||| BitVec.ofNat 4 (2 ^ part)).toNat * 2 ^ 48 + frame.toNat * 2 ^ 16 + (BitVec.ofNat 10 e &&& 0x21F#10).toNat := by
  simp only [presentLeaf, toNat_append]
  rw [show (0#12).toNat = 0 from rfl, show (0#6).toNat = 0 from rfl]
  omega
theorem pteFrame_presentLeaf : pteFrame (presentLeaf e frame part free).toNat = frame.toNat * 2 ^ 16 := by
  have hl := (BitVec.ofNat 10 e &&& 0x21F#10).isLt
  have hf := frame.isLt
  unfold pteFrame field
  rw [presentLeaf_toNat]
  omega
theorem ptePmask_presentLeaf (hp : part < 4) : (ptePmask (presentLeaf e frame part free).toNat).testBit part = true := by
  have hl := (BitVec.ofNat 10 e &&& 0x21F#10).isLt
  have hf := frame.isLt
  have hm := (free.extractLsb' 0 4 ||| BitVec.ofNat 4 (2 ^ part)).isLt
  have h : ptePmask (presentLeaf e frame part free).toNat = (free.extractLsb' 0 4 ||| BitVec.ofNat 4 (2 ^ part)).toNat := by
    unfold ptePmask field
    rw [presentLeaf_toNat]
    omega
  rw [h, BitVec.testBit_toNat, BitVec.getLsbD_or, BitVec.getLsbD_ofNat, decide_eq_true hp, Nat.testBit_two_pow_self, Bool.true_and, Bool.or_true]
theorem lba_coldLeaf : field (coldLeaf e lba).toNat 12 52 = lba.toNat := by
  have hl := ((BitVec.ofNat 10 e &&& 0x3BF#10) ||| 0x020#10).isLt
  have hb := lba.isLt
  unfold field
  simp only [coldLeaf, toNat_append]
  rw [show (0#2).toNat = 0 from rfl]
  omega

end

/-! ### NVMe's entries -/

section
variable {n : Nvme} {cid : BitVec 16} {ok : Bool} {free : Word} {x : PageMove}

/-- The status of a completion: 0 for success. -/
def statusOf (ok : Bool) (free : Word) : Nat := if ok then 0 else max 1 ((free.extractLsb' 32 15).toNat)

theorem statusOf_lt : statusOf ok free < 2 ^ 15 := by
  have := (free.extractLsb' 32 15).isLt
  unfold statusOf
  split <;> omega
theorem statusOf_eq_zero : statusOf ok free = 0 ↔ ok = true := by
  unfold statusOf
  cases ok
  · simp only [Bool.false_eq_true, if_false, iff_false]
    omega
  · simp

theorem completion_eq : completion n cid ok free =
    (free.extractLsb' 0 32).toNat * 2 ^ 64 + cid.toNat * 2 ^ 96 + n.phase.toNat * 2 ^ 112 + statusOf ok free * 2 ^ 113 := by
  unfold completion statusOf
  cases n.phase <;> simp

theorem completion_lt : completion n cid ok free < 256 ^ 16 := by
  have h1 := (free.extractLsb' 0 32).isLt
  have h2 := cid.isLt
  have h3 := Bool.toNat_lt n.phase
  have h4 := statusOf_lt (ok := ok) (free := free)
  rw [completion_eq]
  omega
theorem completion_cid : completion n cid ok free / 256 ^ 12 % 256 ^ 2 = cid.toNat := by
  have h1 := (free.extractLsb' 0 32).isLt
  have h2 := cid.isLt
  have h3 := Bool.toNat_lt n.phase
  rw [completion_eq]
  omega
theorem completion_status : completion n cid ok free / 256 ^ 14 % 256 ^ 2 = n.phase.toNat + 2 * statusOf ok free := by
  have h1 := (free.extractLsb' 0 32).isLt
  have h2 := cid.isLt
  have h3 := Bool.toNat_lt n.phase
  have h4 := statusOf_lt (ok := ok) (free := free)
  rw [completion_eq]
  omega
theorem testBit_toNat_add (p : Bool) (k : Nat) : (p.toNat + 2 * k).testBit 0 = p := by
  rw [Nat.testBit_zero]
  cases p
  · exact decide_eq_false (by simp)
  · exact decide_eq_true (by simp)
theorem completion_phase : (completion n cid ok free).testBit 112 = n.phase := by
  have h1 := (free.extractLsb' 0 32).isLt
  have h2 := cid.isLt
  have h : completion n cid ok free / 2 ^ 112 = n.phase.toNat + 2 * statusOf ok free := by
    rw [completion_eq]
    omega
  have ht : (completion n cid ok free / 2 ^ 112).testBit 0 = (completion n cid ok free).testBit (0 + 112) := Nat.testBit_div_two_pow _ 0
  rw [h, testBit_toNat_add, Nat.zero_add] at ht
  exact ht.symm
theorem completion_done : decide (completion n cid ok free / 2 ^ 113 = 0) = ok := by
  have h1 := (free.extractLsb' 0 32).isLt
  have h2 := cid.isLt
  have h3 := Bool.toNat_lt n.phase
  have h : completion n cid ok free / 2 ^ 113 = statusOf ok free := by
    rw [completion_eq]
    omega
  rw [h, Bool.eq_iff_iff, decide_eq_true_eq, statusOf_eq_zero]

theorem two_pow_eight_mul (k : Nat) : 2 ^ (8 * k) = 256 ^ k := by rw [Nat.pow_mul]
theorem submission_eq : submission n x =
    (if x.out then 1 else 2) + n.nextCid.toNat * 256 ^ 2 + n.ns.toNat * 256 ^ 4 + x.frame.toNat * 256 ^ 26 + x.lba.toNat * 256 ^ 40
      + (65536 / n.block - 1) * 256 ^ 48 := by
  unfold submission
  simp only [← two_pow_eight_mul]
theorem submission_reads : submission n x / 256 ^ 2 % 256 ^ 2 = n.nextCid.toNat ∧ submission n x / 256 ^ 4 % 256 ^ 4 = n.ns.toNat ∧
    submission n x / 256 ^ 26 % 256 ^ 4 = x.frame.toNat ∧ submission n x / 256 ^ 40 % 256 ^ 8 = x.lba.toNat := by
  have h1 := n.nextCid.isLt
  have h2 := n.ns.isLt
  have h3 := x.frame.isLt
  have h4 := x.lba.isLt
  have h5 : (if x.out then 1 else 2) ≤ 2 := by split <;> decide
  rw [submission_eq]
  generalize (if x.out then 1 else 2) = op at h5
  refine ⟨?_, ?_, ?_, ?_⟩ <;> omega

end

end Sys2Proof.Machine.PageLaws
end

section
/-!
COLD_PAGE_FETCH_COMPLETE and PAGE_OUT_COMPLETE (R2, R95, R121, R138, R139, R369): the device's completion, and what it leaves of the page and its leaf.
-/
set_option Elab.async false
namespace Sys2Proof.Machine.PageLaws
open LineLaws BytesLaws FaultLaws

variable {α : Type} {v : Core → α} {s t u : State} {i k : Nat} {f : PageMove} {n : Nvme} {cid : BitVec 16} {ok : Bool}

theorem putNum_hub (s : State) (a w x : Nat) : (putNum s a w x).hub = s.hub := by
  have h : Alike (fun _ => ()) s (putNum s a w x) := Alike.refl.after_putNum fun _ _ => rfl
  rw [eq_of_beyond_eq h.others]
theorem putNum_flash (s : State) (a w x : Nat) : (putNum s a w x).flash = s.flash := by
  have h : Alike (fun _ => ()) s (putNum s a w x) := Alike.refl.after_putNum fun _ _ => rfl
  rw [eq_of_beyond_eq h.others]
theorem putNum_agenda (s : State) (a w x : Nat) : (putNum s a w x).agenda = s.agenda := recallZero_agenda _ _

/-! ### The device's completion -/

/-- An outstanding command has its number, and a grant is in force. -/
theorem outstanding_cid (hf : s.hub.moves[i]? = some f) (ho : outstanding s i = true) : ∃ n cid, s.hub.nvme = some n ∧ f.cid = some cid := by
  unfold outstanding at ho
  rw [hf, Option.bind_some, Bool.and_eq_true] at ho
  obtain ⟨n, hn⟩ := Option.isSome_iff_exists.1 ho.1
  obtain ⟨cid, hc⟩ := Option.isSome_iff_exists.1 ho.2
  exact ⟨n, cid, hn, hc⟩

section
variable (hf : s.hub.moves[i]? = some f) (hn : s.hub.nvme = some n) (hc : f.cid = some cid)
include hf hn hc

theorem postCompletion_eq : postCompletion s i ok =
    { putNum s (n.cq.toNat + 16 * n.head) 16 (completion n cid ok (freeWord s.free)) with free := s.free + 1 } := by
  simp only [postCompletion, hn, hf, Option.bind_some, hc]
theorem postCompletion_mem : (postCompletion s i ok).mem =
    memWrite s.mem (n.cq.toNat + 16 * n.head) 16 (completion n cid ok (freeWord s.free)) := by
  rw [postCompletion_eq hf hn hc]
  exact putNum_mem _ _ _ _

/-- The engine's poll finds the completion that the device has just written. -/
theorem pollCompletion_posted (hw : Memory.wf s.mem = true) : ∃ c, pollCompletion (postCompletion s i ok) = some (c, ok) := by
  have hhub : (postCompletion s i ok).hub = s.hub := by
    rw [postCompletion_eq hf hn hc]
    exact putNum_hub _ _ _ _
  have hread : memRead (postCompletion s i ok).mem (n.cq.toNat + 16 * n.head) 16 = completion n cid ok (freeWord s.free) := by
    rw [postCompletion_mem hf hn hc, memRead_memWrite_same hw, Nat.mod_eq_of_lt completion_lt]
  unfold pollCompletion
  rw [hhub, hn, Option.bind_some]
  dsimp only
  rw [hread, completion_phase, if_pos rfl, completion_done]
  exact ⟨_, rfl⟩

/-- The completion entry as it reads where nothing has been written over it. -/
theorem completed_of_mem (hw : Memory.wf s.mem = true)
    (hm : ∀ a, n.cq.toNat + 16 * n.head ≤ a → a < n.cq.toNat + 16 * n.head + 16 → memGet t.mem a = memGet (postCompletion s i ok).mem a) :
    Completed s t cid ok := by
  intro n' hn'
  obtain rfl := Option.some.inj (hn.symm.trans hn')
  have hread : ∀ o w, o + w ≤ 16 → memRead t.mem (n.cq.toNat + 16 * n.head + o) w = completion n cid ok (freeWord s.free) / 256 ^ o % 256 ^ w := by
    intro o w how
    rw [memRead_congr fun j hj => hm _ (by omega) (by omega), postCompletion_mem hf hn hc, memRead_memWrite hw how]
  have hstatus := statusOf_eq_zero (ok := ok) (free := freeWord s.free)
  intro q
  rw [hread 12 2 (by decide), hread 14 2 (by decide), completion_cid, completion_status, testBit_toNat_add]
  refine ⟨rfl, rfl, ?_⟩
  rw [← hstatus]
  have := Bool.toNat_lt n.phase
  omega
end

theorem postCompletion_alike (hv : HidesLines v) : Alike v s (postCompletion s i ok) := by
  unfold postCompletion
  split
  · exact (Alike.refl.after_putNum hv).of_cores
  · exact .refl
theorem postCompletion_hub : (postCompletion s i ok).hub = s.hub := by
  have h : Alike (fun _ => ()) s (postCompletion s i ok) := postCompletion_alike fun _ _ => rfl
  rw [eq_of_beyond_eq h.others]
theorem postCompletion_flash : (postCompletion s i ok).flash = s.flash := by
  have h : Alike (fun _ => ()) s (postCompletion s i ok) := postCompletion_alike fun _ _ => rfl
  rw [eq_of_beyond_eq h.others]
theorem postCompletion_agenda : (postCompletion s i ok).agenda = s.agenda := by
  unfold postCompletion
  split
  · exact putNum_agenda _ _ _ _
  · rfl
theorem postCompletion_wf (hw : Memory.wf s.mem = true) : Memory.wf (postCompletion s i ok).mem = true := by
  unfold postCompletion
  split
  · dsimp only
    rw [putNum_mem]
    exact memWrite_wf hw _ _ _
  · exact hw

/-! ### The engine's queue -/

theorem pumpMoves_eq_self (h : ∀ m ∈ s.hub.moves, m.cid.isSome = true) : pumpMoves s = s := by
  have hi : ∀ j, issueMove s j = s := by
    intro j
    unfold issueMove
    split
    next n m _ hm => rw [if_pos (.inl (h m (List.mem_of_getElem? hm)))]
    next => rfl
  unfold pumpMoves
  generalize List.range s.hub.moves.length = l
  induction l with
  | nil => rfl
  | cons j l ih => rw [List.foldl_cons, hi, ih]

theorem mem_of_mem_dropAt {β : Type} {l : List β} {x : β} (h : x ∈ dropAt l i) : x ∈ l := by
  unfold dropAt at h
  obtain h | h := List.mem_append.1 h
  · exact List.mem_of_mem_take h
  · exact List.mem_of_mem_drop h

theorem moveDone_posted (h : ∀ m ∈ s.hub.moves, m.cid.isSome = true) : moveDone (postCompletion s i ok) i = MoveTaken s i ok := by
  refine pumpMoves_eq_self fun m hm => h m ?_
  have hm' : m ∈ (postCompletion s i ok).hub.moves := mem_of_mem_dropAt hm
  rwa [postCompletion_hub] at hm'

/-! ### COLD_PAGE_FETCH_COMPLETE -/

/-- The state after a fetch's page came in: the page, and then its leaf. -/
def pageCame (s : State) (i : Nat) (f : PageMove) : State :=
  putNum (pageIn { MoveTaken s i true with
      agenda := f.waiters.flatMap (wakeWaiter (MoveTaken s i true)) ++ s.agenda, free := (MoveTaken s i true).free + 1 }
    (flashAt s f.lba) (f.frame.toNat * 2 ^ 16)) f.at_ 8
    (presentLeaf (memRead s.mem f.at_ 8) f.frame (waitPartition f) (freeWord (MoveTaken s i true).free)).toNat

section
variable (hf : s.hub.moves[i]? = some f) (ho : outstanding s i = true) (hm : ∀ m ∈ s.hub.moves, m.cid.isSome = true)
  (hw : Memory.wf s.mem = true)
include hf ho hm hw

theorem exec_coldPageFetchComplete_came (hout : f.out = false) (hnow : s.now = some (.coldPageFetchComplete i true))
    (hfr : f.frame.toNat * 2 ^ 16 + 2 ^ 16 ≤ 0xC000000000) (hv : pteV (memRead s.mem f.at_ 8) = true)
    (hl : pteLeaf (memRead s.mem f.at_ 8) = true) (hc : pteCold (memRead s.mem f.at_ 8) = true) :
    exec .coldPageFetchComplete s = .next (pageCame s i f) := by
  obtain ⟨n, cid, hn, hcid⟩ := outstanding_cid hf ho
  obtain ⟨c, hp⟩ := pollCompletion_posted (ok := true) hf hn hcid hw
  have hag : (MoveTaken s i true).agenda = s.agenda := postCompletion_agenda
  change execColdPageFetchComplete s = _
  simp only [execColdPageFetchComplete, hnow, hf, ho, hout, hp, moveDone_posted hm, hv, hl, hc, Nat.not_lt.2 hfr, freshWord, hag,
    Bool.and_self, Bool.false_eq_true, Bool.true_eq_false, or_self, if_false]
  rfl

theorem exec_coldPageFetchComplete_failed (hout : f.out = false) (hnow : s.now = some (.coldPageFetchComplete i false)) :
    exec .coldPageFetchComplete s = .next (f.waiters.foldl failWaiter (MoveTaken s i false)) := by
  obtain ⟨n, cid, hn, hcid⟩ := outstanding_cid hf ho
  obtain ⟨c, hp⟩ := pollCompletion_posted (ok := false) hf hn hcid hw
  change execColdPageFetchComplete s = _
  simp only [execColdPageFetchComplete, hnow, hf, ho, hout, hp, moveDone_posted hm, Bool.false_eq_true, Bool.true_eq_false, or_self, if_false]

/-! ### PAGE_OUT_COMPLETE -/

theorem exec_pageOutComplete_done (hout : f.out = true) (hpo : ptePO (memRead s.mem f.at_ 8) = true)
    (hnow : s.now = some (.pageOutComplete i true)) : exec .pageOutComplete s =
    .next { putNum (MoveTaken s i true) f.at_ 8 (coldLeaf (memRead s.mem f.at_ 8) f.lba).toNat with
      flash := movePage s.mem s.flash (f.frame.toNat * 2 ^ 16) (flashAt s f.lba) } := by
  obtain ⟨n, cid, hn, hcid⟩ := outstanding_cid hf ho
  obtain ⟨c, hp⟩ := pollCompletion_posted (ok := true) hf hn hcid hw
  change execPageOutComplete s = _
  simp only [execPageOutComplete, hnow, hf, ho, hout, hp, hpo, moveDone_posted hm, Bool.false_eq_true, Bool.true_eq_false, Bool.not_true, or_self,
    if_false, if_true]

theorem exec_pageOutComplete_failed (hout : f.out = true) (hpo : ptePO (memRead s.mem f.at_ 8) = true)
    (hnow : s.now = some (.pageOutComplete i false)) : exec .pageOutComplete s =
    .next (putNum (MoveTaken s i false) f.at_ 8 (memRead s.mem f.at_ 8 - 2 ^ 6)) := by
  obtain ⟨n, cid, hn, hcid⟩ := outstanding_cid hf ho
  obtain ⟨c, hp⟩ := pollCompletion_posted (ok := false) hf hn hcid hw
  change execPageOutComplete s = _
  simp only [execPageOutComplete, hnow, hf, ho, hout, hp, hpo, moveDone_posted hm, Bool.false_eq_true, Bool.true_eq_false, Bool.not_true, or_self,
    if_false]

end

/-! ### What a completion leaves -/

theorem pageCame_mem : (pageCame s i f).mem = memWrite (movePage s.flash (postCompletion s i true).mem (flashAt s f.lba) (f.frame.toNat * 2 ^ 16))
    f.at_ 8 (presentLeaf (memRead s.mem f.at_ 8) f.frame (waitPartition f) (freeWord (MoveTaken s i true).free)).toNat := by
  have hp : ∀ (t : State) (a b : Nat), (pageIn t a b).mem = movePage t.flash t.mem a b := fun t a b => recallZero_mem _ _
  have hfl : (MoveTaken s i true).flash = s.flash := postCompletion_flash
  unfold pageCame
  rw [putNum_mem, hp]
  dsimp only
  rw [hfl]
  rfl
section
variable (hs : Sound s)
include hs

theorem pageCame_wf : Memory.wf (movePage s.flash (postCompletion s i true).mem (flashAt s f.lba) (f.frame.toNat * 2 ^ 16)) = true :=
  FormLaws.movePage_wf (postCompletion_wf hs.1) _ _
theorem pageCame_leaf : memRead (pageCame s i f).mem f.at_ 8 =
    (presentLeaf (memRead s.mem f.at_ 8) f.frame (waitPartition f) (freeWord (MoveTaken s i true).free)).toNat := by
  rw [pageCame_mem, memRead_memWrite_same (pageCame_wf hs)]
  exact Nat.mod_eq_of_lt (BitVec.isLt _)
theorem memGet_pageCame {a : Nat} (ha : ¬(f.at_ ≤ a ∧ a < f.at_ + 8)) : memGet (pageCame s i f).mem a =
    if f.frame.toNat * 2 ^ 16 ≤ a ∧ a < f.frame.toNat * 2 ^ 16 + 2 ^ 16 then memGet s.flash (flashAt s f.lba + (a - f.frame.toNat * 2 ^ 16))
    else memGet (postCompletion s i true).mem a := by
  rw [pageCame_mem, memGet_memWrite (pageCame_wf hs), if_neg ha, memGet_movePage hs.2 (postCompletion_wf hs.1)]

/-- The bytes outside the completion entry are as they were. -/
theorem memGet_postCompletion {a : Nat} (ha : ¬∃ n, s.hub.nvme = some n ∧ n.cq.toNat + 16 * n.head ≤ a ∧ a < n.cq.toNat + 16 * n.head + 16) :
    memGet (postCompletion s i ok).mem a = memGet s.mem a := by
  unfold postCompletion
  split
  next n cid hn _ =>
    dsimp only
    rw [putNum_mem, memGet_memWrite hs.1, if_neg fun h => ha ⟨n, hn, h⟩]
  next => rfl

theorem memGet_putLeaf {a x : Nat} (ha : ¬(f.at_ ≤ a ∧ a < f.at_ + 8)) :
    memGet (putNum (MoveTaken s i ok) f.at_ 8 x).mem a = memGet (postCompletion s i ok).mem a := by
  have hm : (MoveTaken s i ok).mem = (postCompletion s i ok).mem := rfl
  rw [putNum_mem, hm, memGet_memWrite (postCompletion_wf hs.1), if_neg ha]
theorem memRead_putLeaf {x : Nat} (hx : x < 256 ^ 8) : memRead (putNum (MoveTaken s i ok) f.at_ 8 x).mem f.at_ 8 = x := by
  have hm : (MoveTaken s i ok).mem = (postCompletion s i ok).mem := rfl
  rw [putNum_mem, hm, memRead_memWrite_same (postCompletion_wf hs.1), Nat.mod_eq_of_lt hx]

end

/-- A fetch that failed faults the launch of a task that waits for it. -/
theorem failWaiter_core {act : BitVec 32} {un : UnitCode} {pc addr : Word} {x : Task} (hx : (getCore s k).task = some x) (ha : x.actid = act) :
    failWaiter s (.core k act false un pc addr) =
      faultLaunch (focus s k) x.info.ctx (preciseRec (focus s k) x pc .pageInvalid un addr) .pageInvalid := by
  have hx' : (focus s k).core.task = some x := by rw [focus_core, hx]
  simp only [failWaiter, hx', ha, Bool.false_eq_true, if_false, if_true]

theorem getCore_moveTaken_task : (getCore (MoveTaken s i ok) k).task = (getCore s k).task :=
  (postCompletion_alike hidesLines_task).cores k

end Sys2Proof.Machine.PageLaws
end

section
/-!
PAGE_OUT_START (R121, R139, R369): the leaf marked, its mappings taken from every TLB, and the request at the queue pair.
-/
set_option Elab.async false
namespace Sys2Proof.Machine.PageLaws
open LineLaws BytesLaws FaultLaws DrainLaws WalkLaws

variable {s t : State} {i k e at_ : Nat} {f m : PageMove} {n : Nvme} {ctx : CtxId} {va : Word} {lba : BitVec 52} {c : Ctx}

theorem pumpMoves_ungranted (h : s.hub.nvme = none) : pumpMoves s = s := by
  have hi : ∀ j, issueMove s j = s := by
    intro j
    simp only [issueMove, h]
  unfold pumpMoves
  generalize List.range s.hub.moves.length = l
  induction l with
  | nil => rfl
  | cons j l ih => rw [List.foldl_cons, hi, ih]

/-- The one command of the engine issued: its entry is written, and the doorbell rung (R369). -/
theorem pumpMoves_one (hn : s.hub.nvme = some n) (hm : s.hub.moves = [m]) (hc : m.cid = none) (ho : m.out = true) (hd : 2 ≤ n.depth) :
    pumpMoves s = { putNum s (n.sq.toNat + 64 * n.tail) 64 (submission n { m with cid := some n.nextCid }) with
      free := s.free + 1
      hub := { s.hub with moves := [{ m with cid := some n.nextCid }]
                          nvme := some { n with tail := (n.tail + 1) % n.depth, rang := BitVec.ofNat 32 ((n.tail + 1) % n.depth)
                                                nextCid := n.nextCid + 1 } } } := by
  have hr : List.range s.hub.moves.length = [0] := by rw [hm]; rfl
  have h0 : s.hub.moves[0]? = some m := by rw [hm]; rfl
  have hset : ∀ x, s.hub.moves.set 0 x = [x] := by
    rw [hm]
    exact fun _ => rfl
  have hd' : ¬ n.depth ≤ 0 + 1 := by omega
  unfold pumpMoves
  rw [hr, List.foldl_cons, List.foldl_nil]
  simp only [issueMove, hn, h0, hc, ho, hd', hset, Option.isSome_none, Bool.false_eq_true, or_self, if_false, if_true]

theorem exec_pageOutStart_held (hnow : s.now = some (.pageOutStart ctx va lba)) (hc : getCtx s ctx = some c) (hh : anyStoreHeld s = true) :
    exec .pageOutStart s = .next s := by
  change execPageOutStart s = _
  simp only [execPageOutStart, hnow, hc, hh, if_true, Bool.true_or]
  split <;> rfl

/-- The state of a page-out before its leaf is written: every store performed, every translation that the leaf gives gone, the frame's lines shed. -/
def pageShed (s : State) (at_ frame : Nat) : State := shedFrame (dropTlbs (drainEvery s) fun t => t.at_ == at_) frame
/-- The command of a page-out that is asked for. -/
def outMove (ctx : CtxId) (va : Word) (lba : BitVec 52) (e at_ : Nat) : PageMove :=
  ⟨true, none, BitVec.ofNat 32 (pteFrame e / 2 ^ 16), ctx, va, at_, lba, []⟩
/-- The state of a page-out before the engine issues its command. -/
def pageAsked (s : State) (m : PageMove) (frame new : Nat) : State :=
  { pageShed s m.at_ frame with mem := memWrite (pageShed s m.at_ frame).mem m.at_ 8 new
                                hub := { (pageShed s m.at_ frame).hub with moves := (pageShed s m.at_ frame).hub.moves ++ [m] } }

theorem exec_pageOutStart_asks (hnow : s.now = some (.pageOutStart ctx va lba)) (hc : getCtx s ctx = some c) (hh : anyStoreHeld s = false)
    (hwalk : walkFrom (drainEvery s).mem va.toNat 3 c.root.toNat = some (e, at_, 0)) (hcold : pteCold e = false) (hpo : ptePO e = false)
    (hpin : ptePin e = false) (hfr : pteFrame e < 0xC000000000) : exec .pageOutStart s =
    .next (pumpMoves (pageAsked s (outMove ctx va lba e at_) (pteFrame e) ((e ||| 2 ^ 6) - (if pteA e then 2 ^ 7 else 0)))) := by
  change execPageOutStart s = _
  simp only [execPageOutStart, hnow, hc, hh, hwalk, hcold, hpo, hpin, Nat.not_le.2 hfr, Bool.false_eq_true, if_false, ne_eq, not_true_eq_false,
    decide_false, Bool.or_self]
  rfl

/-! ### What the shedding leaves -/

section
variable {frame : Nat}

theorem alike_shedFrame {α : Type} {v : Core → α} (hv : HidesLines v) : Alike v s (shedFrame s frame) :=
  Alike.refl.foldl (fun _ _ ht => ht.after_shedLines hv) _
theorem pageShed_hub : (pageShed s at_ frame).hub = s.hub := by
  have h1 : Alike (fun _ => ()) (dropTlbs (drainEvery s) fun t => t.at_ == at_) (pageShed s at_ frame) := alike_shedFrame fun _ _ => rfl
  have h0 : Alike (fun _ => ()) s (drainEvery s) := Alike.refl.after_drainEvery (fun _ _ => rfl) fun _ _ => rfl
  rw [eq_of_beyond_eq h1.others]
  change (drainEvery s).hub = s.hub
  rw [eq_of_beyond_eq h0.others]
theorem pageShed_wf (hs : Sound s) : Memory.wf (pageShed s at_ frame).mem = true := by
  have h : FormLaws.StaysInForm s (pageShed s at_ frame) :=
    FormLaws.StaysInForm.after_shedFrame (FormLaws.StaysInForm.after_dropTlbs (FormLaws.StaysInForm.refl s).after_drainEvery)
  exact (h.1 hs).1
/-- No TLB and no translation cache holds what a leaf gives. -/
def LeafGone (at_ : Nat) (t : State) : Prop := (∀ j, ∀ y ∈ (getCore t j).tlb, y.at_ ≠ at_) ∧ ∀ n : Fin 5, ∀ y ∈ t.caches[n.val], y.at_ ≠ at_

theorem leafGone_pageShed : LeafGone at_ (pageShed s at_ frame) := by
  have h : Alike Core.tlb (dropTlbs (drainEvery s) fun t => t.at_ == at_) (pageShed s at_ frame) := alike_shedFrame fun _ _ => rfl
  refine ⟨fun j y hy => ?_, fun n y hy => ?_⟩
  · rw [h.cores j] at hy
    exact beq_eq_false_iff_ne.1 (dropTlbs_cores y hy)
  · rw [eq_of_beyond_eq h.others] at hy
    exact beq_eq_false_iff_ne.1 (dropTlbs_caches n y hy)
theorem LeafGone.with_mem_hub {x : List Host.Cell} {y : Hub} (h : LeafGone at_ s) : LeafGone at_ { s with mem := x, hub := y } := h
theorem LeafGone.after_putNum {a w x : Nat} (h : LeafGone at_ s) : LeafGone at_ (putNum s a w x) := by
  have ha : Alike Core.tlb s (putNum s a w x) := Alike.refl.after_putNum fun _ _ => rfl
  refine ⟨fun j y hy => h.1 j y (ha.cores j ▸ hy), fun n y hy => ?_⟩
  rw [eq_of_beyond_eq ha.others] at hy
  exact h.2 n y hy
end

theorem pageAsked_hub {frame new : Nat} : (pageAsked s m frame new).hub = { s.hub with moves := s.hub.moves ++ [m] } := by
  have h : (pageAsked s m frame new).hub =
      { (pageShed s m.at_ frame).hub with moves := (pageShed s m.at_ frame).hub.moves ++ [m] } := rfl
  rw [h, pageShed_hub]
theorem leafGone_pageAsked {frame new : Nat} : LeafGone m.at_ (pageAsked s m frame new) := by
  unfold pageAsked
  exact (leafGone_pageShed (s := s) (frame := frame)).with_mem_hub
theorem pageAsked_wf {frame new : Nat} (hs : Sound s) : Memory.wf (pageAsked s m frame new).mem = true := memWrite_wf (pageShed_wf hs) _ _ _
theorem pageAsked_leaf {frame new : Nat} (hs : Sound s) : memRead (pageAsked s m frame new).mem m.at_ 8 = new % 2 ^ 64 := by
  unfold pageAsked
  dsimp only
  exact memRead_memWrite_same (pageShed_wf hs)

/-- A page-out under a grant, the only command: what the engine's queue and memory hold once it is issued. -/
theorem pageOut_issued {frame new : Nat} (hs : Sound s) (hn : s.hub.nvme = some n) (hmoves : s.hub.moves = []) (hc : m.cid = none)
    (ho : m.out = true) (hd : 2 ≤ n.depth) :
    let t := pumpMoves (pageAsked s m frame new)
    let slot := n.sq.toNat + 64 * n.tail
    (m.at_ + 8 ≤ slot ∨ slot + 64 ≤ m.at_ → memRead t.mem m.at_ 8 = new % 2 ^ 64) ∧ LeafGone m.at_ t ∧
      t.hub = { s.hub with moves := [{ m with cid := some n.nextCid }]
                           nvme := some { n with tail := (n.tail + 1) % n.depth, rang := BitVec.ofNat 32 ((n.tail + 1) % n.depth)
                                                 nextCid := n.nextCid + 1 } } ∧
      memRead t.mem (slot + 2) 2 = n.nextCid.toNat ∧ memRead t.mem (slot + 4) 4 = n.ns.toNat ∧
      memRead t.mem (slot + 26) 4 = m.frame.toNat ∧ memRead t.mem (slot + 40) 8 = m.lba.toNat := by
  intro t slot
  have hhub : (pageAsked s m frame new).hub = { s.hub with moves := [m] } := by
    rw [pageAsked_hub, hmoves, List.nil_append]
  have ht : t = _ := pumpMoves_one (s := pageAsked s m frame new) (n := n) (m := m) (by rw [hhub, hn]) (by rw [hhub]) hc ho hd
  have hmem : t.mem = memWrite (pageAsked s m frame new).mem slot 64 (submission n { m with cid := some n.nextCid }) := by
    rw [ht]
    exact putNum_mem _ _ _ _
  have hw := pageAsked_wf (m := m) (frame := frame) (new := new) hs
  obtain ⟨h1, h2, h3, h4⟩ := submission_reads (n := n) (x := { m with cid := some n.nextCid })
  refine ⟨fun hj => ?_, ?_, ?_, ?_, ?_, ?_, ?_⟩
  · rw [hmem, memRead_memWrite_other hw hj, pageAsked_leaf hs]
  · rw [ht]
    exact leafGone_pageAsked.after_putNum
  · rw [ht, hhub]
  · rw [hmem, memRead_memWrite hw (by decide), h1]
  · rw [hmem, memRead_memWrite hw (by decide), h2]
  · rw [hmem, memRead_memWrite hw (by decide), h3]
  · rw [hmem, memRead_memWrite hw (by decide), h4]

end Sys2Proof.Machine.PageLaws
end

section
/-!
Cold pages and the watch unit (R2, R95, R121, R138, R139, R147 to R150, R277, R369): PagesAndWatches.
-/
set_option Elab.async false
namespace Sys2Proof.Machine.PageLaws
open LineLaws BytesLaws FaultLaws

/-! ### Cold pages -/

section
variable {s : State} {i : Nat} {f : PageMove}

theorem partitionOf_lt (ctx : CtxId) : partitionOf ctx < 4 := by
  have := ctx.isLt
  unfold partitionOf
  omega

/-- A page that came in: its leaf, and the bytes. -/
theorem fetch_effect (hs : Sound s) (hf : s.hub.moves[i]? = some f) (ho : outstanding s i = true)
    (hv : pteV (memRead s.mem f.at_ 8) = true) (hl : pteLeaf (memRead s.mem f.at_ 8) = true) :
    let t := pageCame s i f
    let o := memRead s.mem f.at_ 8
    let at0 := f.frame.toNat * 2 ^ 16
    let leaf := fun (a : Nat) => f.at_ ≤ a ∧ a < f.at_ + 8
    let entry := fun (a : Nat) => ∃ n, s.hub.nvme = some n ∧ n.cq.toNat + 16 * n.head ≤ a ∧ a < n.cq.toNat + 16 * n.head + 16
    let n := memRead t.mem f.at_ 8
    t.hub = (MoveTaken s i true).hub ∧ t.agenda = f.waiters.flatMap (wakeWaiter (MoveTaken s i true)) ++ s.agenda ∧
      pteFrame n = at0 ∧ pteV n = true ∧ pteLeaf n = true ∧ pteCold n = false ∧ ptePO n = false ∧ pteA n = false ∧ pteD n = false ∧
      pteW n = pteW o ∧ pteU n = pteU o ∧ pteHS n = pteHS o ∧ ptePin n = ptePin o ∧ (ptePmask n).testBit (partitionOf f.ctx) = true ∧
      (∀ a < 2 ^ 16, ¬ leaf (at0 + a) → memGet t.mem (at0 + a) = memGet s.flash (flashAt s f.lba + a)) ∧
      (∀ a, ¬ leaf a → ¬ entry a → (a < at0 ∨ at0 + 2 ^ 16 ≤ a) → memGet t.mem a = memGet s.mem a) ∧
      ∀ cid, f.cid = some cid → (∀ a, entry a → ¬ leaf a ∧ (a < at0 ∨ at0 + 2 ^ 16 ≤ a)) → Completed s t cid true := by
  intro t o at0 leaf entry n
  have hn : n = (presentLeaf o f.frame (waitPartition f) (freeWord (MoveTaken s i true).free)).toNat := pageCame_leaf hs
  have hbit : ∀ j < 10, n.testBit j = (o.testBit j && (0x21F#10).getLsbD j) := by
    intro j hj
    rw [hn]
    exact testBit_presentLeaf hj
  have hoff : ∀ j < 10, (0x21F#10).getLsbD j = false → n.testBit j = false := by
    intro j hj h
    rw [hbit j hj, h, Bool.and_false]
  have hkept : ∀ j < 10, (0x21F#10).getLsbD j = true → n.testBit j = o.testBit j := by
    intro j hj h
    rw [hbit j hj, h, Bool.and_true]
  have hmem : ∀ a, ¬ leaf a → memGet t.mem a = if at0 ≤ a ∧ a < at0 + 2 ^ 16 then memGet s.flash (flashAt s f.lba + (a - at0))
      else memGet (postCompletion s i true).mem a := fun a ha => memGet_pageCame hs ha
  refine ⟨?_, ?_, ?_, (hkept 0 (by decide) rfl).trans hv, (hkept 1 (by decide) rfl).trans hl, hoff 5 (by decide) rfl, hoff 6 (by decide) rfl,
    hoff 7 (by decide) rfl, hoff 8 (by decide) rfl, hkept 2 (by decide) rfl, hkept 3 (by decide) rfl, hkept 4 (by decide) rfl,
    hkept 9 (by decide) rfl, ?_, fun a ha hla => ?_, fun a hla he hp => ?_, fun cid hc he => ?_⟩
  · have hp : ∀ (u : State) (a b : Nat), (pageIn u a b).hub = u.hub := by
      intro u a b
      have h := beyond_recallZero { u with mem := movePage u.flash u.mem a b } ((List.range 512).map fun i => b / 128 + i)
      unfold pageIn
      rw [eq_of_beyond_eq h]
    exact (putNum_hub _ _ _ _).trans (hp _ _ _)
  · exact (putNum_agenda _ _ _ _).trans (recallZero_agenda _ _)
  · rw [hn]
    exact pteFrame_presentLeaf
  · rw [hn]
    exact ptePmask_presentLeaf (partitionOf_lt f.ctx)
  · rw [hmem _ hla, if_pos (by omega), Nat.add_sub_cancel_left]
  · rw [hmem a hla, if_neg (by omega), memGet_postCompletion hs he]
  · obtain ⟨m, -, hm, -⟩ := outstanding_cid hf ho
    refine completed_of_mem hf hm hc hs.1 fun a h1 h2 => ?_
    obtain ⟨hla, hp⟩ := he a ⟨m, hm, h1, h2⟩
    rw [hmem a hla, if_neg (by omega)]

/-- A leaf written after a completion: the entry, and every other byte. -/
theorem putLeaf_effect (hs : Sound s) (hf : s.hub.moves[i]? = some f) (ho : outstanding s i = true) {ok : Bool} {x : Nat} {t : State}
    (ht : t.mem = (putNum (MoveTaken s i ok) f.at_ 8 x).mem) :
    let leaf := fun (a : Nat) => f.at_ ≤ a ∧ a < f.at_ + 8
    let entry := fun (a : Nat) => ∃ n, s.hub.nvme = some n ∧ n.cq.toNat + 16 * n.head ≤ a ∧ a < n.cq.toNat + 16 * n.head + 16
    (∀ a, ¬ leaf a → ¬ entry a → memGet t.mem a = memGet s.mem a) ∧
      ∀ cid, f.cid = some cid → (∀ a, entry a → ¬ leaf a) → Completed s t cid ok := by
  intro leaf entry
  refine ⟨fun a hla he => ?_, fun cid hc he => ?_⟩
  · rw [ht, memGet_putLeaf hs hla, memGet_postCompletion hs he]
  · obtain ⟨m, -, hm, -⟩ := outstanding_cid hf ho
    refine completed_of_mem hf hm hc hs.1 fun a h1 h2 => ?_
    rw [ht, memGet_putLeaf hs (he a ⟨m, hm, h1, h2⟩)]

theorem pagingEvents : PagingEvents := by
  intro s i f k act un pc addr x ctx va lba c e at_ hs o leaf entry
  refine ⟨?_, fun hnow hc hh => ⟨_, exec_pageOutStart_held hnow hc hh, rfl⟩, ?_⟩
  · intro hf ho hm at0
    refine ⟨fun hout hnow hfr hv hl hc => ⟨_, exec_coldPageFetchComplete_came hf ho hm hs.1 hout hnow hfr hv hl hc, fetch_effect hs hf ho hv hl⟩,
      fun hout hnow hwait hx ha => ⟨_, exec_coldPageFetchComplete_failed hf ho hm hs.1 hout hnow, ?_⟩,
      fun hout hpo hnow => ⟨_, exec_pageOutComplete_done hf ho hm hs.1 hout hpo hnow, ?_⟩,
      fun hout hpo hnow => ⟨_, exec_pageOutComplete_failed hf ho hm hs.1 hout hpo hnow, ?_⟩⟩
    · have hx' : (getCore (MoveTaken s i false) k).task = some x := getCore_moveTaken_task.trans hx
      rw [hwait, List.foldl_cons, List.foldl_nil, failWaiter_core hx' ha]
      refine faultTaken_faultLaunch ?_ (by rw [focus_core, hx']) (by decide)
      rw [focus_mem]
      exact postCompletion_wf hs.1
    · obtain ⟨hrest, hentry⟩ := putLeaf_effect hs hf ho (ok := true) (x := (coldLeaf o f.lba).toNat)
        (t := { putNum (MoveTaken s i true) f.at_ 8 (coldLeaf o f.lba).toNat with flash := movePage s.mem s.flash at0 (flashAt s f.lba) }) rfl
      have hn : memRead (putNum (MoveTaken s i true) f.at_ 8 (coldLeaf o f.lba).toNat).mem f.at_ 8 = (coldLeaf o f.lba).toNat :=
        memRead_putLeaf hs (BitVec.isLt _)
      have hkept : ∀ j < 10, (0x3BF#10).getLsbD j = true → (0x020#10).getLsbD j = false → (coldLeaf o f.lba).toNat.testBit j = o.testBit j := by
        intro j hj h h'
        rw [testBit_coldLeaf hj, h, h', Bool.and_true, Bool.or_false]
      refine ⟨putNum_hub _ _ _ _, ?_⟩
      dsimp only
      rw [hn]
      refine ⟨?_, lba_coldLeaf, ?_, hkept 0 (by decide) rfl rfl, hkept 7 (by decide) rfl rfl, hkept 8 (by decide) rfl rfl, hrest, hentry,
        fun a ha => ?_⟩
      · exact (testBit_coldLeaf (by decide)).trans (Bool.or_true _)
      · refine (testBit_coldLeaf (by decide)).trans ?_
        rw [show (0x3BF#10).getLsbD 6 = false from rfl, Bool.and_false]
        rfl
      · rw [memGet_movePage hs.1 hs.2, if_pos (by omega), Nat.add_sub_cancel_left]
    · have hlt : o - 2 ^ 6 < 256 ^ 8 := lt_of_le_of_lt (Nat.sub_le _ _) memRead_lt
      obtain ⟨hrest, hentry⟩ := putLeaf_effect hs hf ho (ok := false) (x := o - 2 ^ 6)
        (t := putNum (MoveTaken s i false) f.at_ 8 (o - 2 ^ 6)) rfl
      exact ⟨putNum_hub _ _ _ _, memRead_putLeaf hs hlt, (putNum_flash _ _ _ _).trans postCompletion_flash, hentry, hrest⟩
  · intro hnow hc hh hwalk hcold hpo hpin hfr m leafNow gone
    have hexec := exec_pageOutStart_asks hnow hc hh hwalk hcold hpo hpin hfr
    refine ⟨fun hn => ⟨_, hexec, ?_⟩, ?_⟩
    · have hu : (pageAsked s (outMove ctx va lba e at_) (pteFrame e) ((e ||| 2 ^ 6) - (if pteA e then 2 ^ 7 else 0))).hub.nvme = none := by
        rw [pageAsked_hub]
        exact hn
      rw [pumpMoves_ungranted hu]
      exact ⟨pageAsked_leaf (m := outMove ctx va lba e at_) hs, pageAsked_hub, leafGone_pageAsked (m := outMove ctx va lba e at_)⟩
    · intro n hn hmoves hd slot
      refine ⟨_, hexec, ?_⟩
      obtain ⟨h1, h2, h3, h4, h5, h6, h7⟩ := pageOut_issued (m := outMove ctx va lba e at_) (frame := pteFrame e)
        (new := (e ||| 2 ^ 6) - (if pteA e then 2 ^ 7 else 0)) hs hn hmoves rfl rfl hd
      refine ⟨h1, h2, h3, h4, h5, h6.trans ?_, h7⟩
      exact Nat.mod_eq_of_lt (by omega)

end

/-! ### The watch unit -/

section
variable {s u : State} {r : WatchReq} {rest : List WatchReq} {w a : Word} {code : FCode} {res : Except (FCode × Word) Word}

/-- The state with the watch unit's queue replaced. -/
def putWatch (t : State) (rest : List WatchReq) : State := { t with hub := { t.hub with watchQueue := rest } }

theorem exec_watchUnitCommit_ok (hnow : s.now = some .watchUnitCommit) (hq : s.hub.watchQueue = r :: rest)
    (hv : serveWatch s r false = .ok (w, u)) : exec .watchUnitCommit s = .next (handResult (putWatch u rest) r.who.1 (.ok w)) := by
  change execWatchUnitCommit s = _
  simp only [execWatchUnitCommit, hnow, hq, hv]
  rfl
theorem exec_watchUnitCommit_fault (hnow : s.now = some .watchUnitCommit) (hq : s.hub.watchQueue = r :: rest)
    (hv : serveWatch s r false = .error (.fault code a)) :
    exec .watchUnitCommit s = .next (handResult (putWatch s rest) r.who.1 (.error (code, a))) := by
  change execWatchUnitCommit s = _
  simp only [execWatchUnitCommit, hnow, hq, hv]
  rfl

/-- A result handed to a core that waits for it, and that has no later request. -/
theorem handResult_effect (hr : ∀ x ∈ rest, x.who.1 ≠ r.who.1) (hw : (getCore u r.who.1).watchResult = some none) :
    let v := handResult (putWatch u rest) r.who.1 res
    v.mem = u.mem ∧ v.hub.watchQueue = rest ∧ (getCore v r.who.1).watchResult = some (some res) := by
  intro v
  have hv : v = modCore (putWatch u rest) r.who.1 fun c => if c.watchResult = some none then { c with watchResult := some (some res) } else c := by
    refine if_neg ?_
    rw [Bool.not_eq_true, List.any_eq_false]
    intro x hx
    rw [Bool.not_eq_true, beq_eq_false_iff_ne]
    exact hr x hx
  rw [hv]
  refine ⟨modCore_mem _ _ _, ?_, ?_⟩
  · rw [modCore_hub]
    rfl
  · have hw' : (getCore (putWatch u rest) r.who.1).watchResult = some none := hw
    rw [getCore_modCore, if_pos rfl, if_pos hw']

/-- An entry hits at a token. -/
def Hits (h t e : Nat) : Prop := enLive e = true ∧ (enBudget e = 1 ∨ enMatches h e t = true)
/-- An entry once a token has counted its budget down. -/
def counted (e : Nat) : Nat := if enLive e ∧ enBudget e ≠ 0 then putBudget e (enBudget e - 1) else e

/-- A token's effect on one entry. -/
def countEntry (h t e : Nat) : Nat × Bool :=
  if enLive e then (if enBudget e = 0 then e else putBudget e (enBudget e - 1), (enBudget e == 1) || enMatches h e t) else (e, false)

theorem countToken_eq (h t : Nat) (es : List Nat) : countToken h t es = es.map (countEntry h t) := rfl
theorem countEntry_hits {h t e : Nat} : (countEntry h t e).2 = true ↔ Hits h t e := by
  unfold countEntry Hits
  split
  next hl => simp [hl]
  next hl => simp [hl]
theorem countEntry_fst {h t e : Nat} : (countEntry h t e).1 = counted e := by
  unfold countEntry counted
  split
  next hl =>
    dsimp only
    by_cases hb : enBudget e = 0
    · rw [if_pos hb, if_neg fun x => x.2 hb]
    · rw [if_neg hb, if_pos ⟨hl, hb⟩]
  next hl => rw [if_neg fun x => hl x.1]

/-- The lowest entry that hits wins. -/
def winnerOf (h t : Nat) (es : List Nat) : Option Nat := ((countToken h t es).zipIdx.find? fun p => p.1.2).map Prod.snd

theorem winnerOf_none {h t : Nat} {es : List Nat} (hn : ∀ e ∈ es, ¬ Hits h t e) : winnerOf h t es = none := by
  unfold winnerOf
  rw [Option.map_eq_none_iff, List.find?_eq_none]
  intro p hp
  obtain ⟨e, he, hpe⟩ := List.mem_map.1 (countToken_eq h t es ▸ List.fst_mem_of_mem_zipIdx hp)
  rw [← hpe, countEntry_hits]
  exact hn e he
theorem winnerOf_some {h t n e : Nat} {es : List Nat} (he : es[n]? = some e) (hit : Hits h t e)
    (hmin : ∀ m < n, ∀ x, es[m]? = some x → ¬ Hits h t x) : winnerOf h t es = some n := by
  obtain ⟨hlt, rfl⟩ := List.getElem?_eq_some_iff.1 he
  unfold winnerOf
  rw [countToken_eq, Option.map_eq_some_iff]
  refine ⟨(countEntry h t es[n], n), ?_, rfl⟩
  rw [List.find?_eq_some_iff_getElem]
  refine ⟨countEntry_hits.2 hit, n, by simpa using hlt, by simp, fun m hm => ?_⟩
  have hx := hmin m hm es[m] (List.getElem?_eq_getElem (hm.trans hlt))
  rw [Bool.not_eq_true', ← Bool.not_eq_true]
  simpa [countEntry_hits] using hx

theorem commitToks_cons_none {h t : Nat} {es toks r : List Nat} {w : Option Nat} (hn : ∀ e ∈ es, ¬ Hits h t e) :
    commitToks ⟨h, es, toks, w⟩ (t :: r) = commitToks ⟨pushTok h t, es.map counted, toks ++ [t], none⟩ r := by
  have hw := winnerOf_none hn
  have hm : (countToken h t es).map Prod.fst = es.map counted := by
    rw [countToken_eq, List.map_map]
    exact List.map_congr_left fun e _ => countEntry_fst
  unfold winnerOf at hw
  simp only [commitToks, hw, hm]
theorem commitToks_cons_some {h t n : Nat} {es toks r : List Nat} {w : Option Nat} (hn : winnerOf h t es = some n) :
    (commitToks ⟨h, es, toks, w⟩ (t :: r)).win = some n ∧ (commitToks ⟨h, es, toks, w⟩ (t :: r)).toks = toks ++ [t] := by
  unfold winnerOf at hn
  simp only [commitToks, hn, and_self]

/-- Entries that do not take part: every token goes into the history. -/
theorem commitToks_idle {h : Nat} {es toks done : List Nat} (hd : ∀ e ∈ es, enLive e = false) :
    commitToks ⟨h, es, done, none⟩ toks = ⟨toks.foldl pushTok h, es, done ++ toks, none⟩ := by
  have hc : es.map counted = es := by
    refine (List.map_congr_left fun e he => ?_).trans (List.map_id es)
    unfold counted
    rw [hd e he, if_neg fun x => Bool.false_ne_true x.1]
    rfl
  induction toks generalizing h done with
  | nil => rw [List.append_nil]; rfl
  | cons t r ih =>
    rw [commitToks_cons_none fun e he x => Bool.false_ne_true ((hd e he).symm.trans x.1), hc, ih, List.foldl_cons, List.append_assoc]
    rfl

theorem watchUnit : WatchUnit := by
  intro s u r rest w code a h t es toks
  refine ⟨fun hnow hq hr => ⟨fun hv hw => ⟨_, exec_watchUnitCommit_ok hnow hq hv, handResult_effect hr hw⟩,
    fun hv hw => ⟨_, exec_watchUnitCommit_fault hnow hq hv, handResult_effect hr hw⟩⟩, commitToks_idle, fun hn => ?_, fun n e he hit hmin => ?_⟩
  · exact commitToks_cons_none hn
  · exact commitToks_cons_some (winnerOf_some he hit hmin)

end

/-- Settles O47: the engine's poll finds the completion just written, so each event ends as it says; the watch unit's tokens go by
`commitToks`. -/
theorem pagesAndWatches : Obligations.PagesAndWatches := ⟨pagingEvents, watchUnit⟩

end Sys2Proof.Machine.PageLaws
end
